-- ==== Sys2Proof/Word.lean ====
section
/-! DEFINITION. The word types of the machine and their plainest arithmetic. -/

namespace Sys2Proof

/-- A scalar register value, 64 bits (R90). -/
abbrev Word := BitVec 64
/-- A vector, gradient or accumulator row, 4,096 bits (R121, R149). -/
abbrev Vec := BitVec 4096
/-- A mask register, 512 bits (R121). -/
abbrev Mask := BitVec 512
/-- A byte. -/
abbrev Byte := BitVec 8
/-- A 384-bit bundle (R29). -/
abbrev Bundle := BitVec 384

/-- Bits `hi` down to `lo` of a number, as a number (R4). -/
def bits (w hi lo : Nat) : Nat := (w >>> lo) % 2 ^ (hi + 1 - lo)

/-- The two's complement value of the low `n` bits of `w`. -/
def sextNat (n w : Nat) : Int :=
  let v := w % 2 ^ n
  if 2 * v ≥ 2 ^ n then (v : Int) - (2 ^ n : Nat) else v

/-- `n` modulo 2^64 from an integer. -/
def wordOfInt (i : Int) : Word := BitVec.ofInt 64 i

end Sys2Proof
end

