-- ==== Sys2Proof/Syntax.lean ====
section
/-! DEFINITION. The syntax of the machine's steps: one constructor of `Instr` for each row of the opcode table.
A slot operation carries its decoded operand fields. An event carries the data that identifies it beyond the place
where it happens, which the state names, so that the calendar of pending events (State) is plain data. -/

namespace Sys2Proof

/-! ### Operand forms -/

/-- A scalar source: a register, or the loop index `li n` (R45). -/
inductive SSrc where
  | x (n : Fin 32)
  | li (n : Fin 32)
deriving DecidableEq, Repr, Inhabited

/-- The condition codes of CMP and CMPI, 0 to 9 (R47). -/
inductive CC where
  | eq | ne | lt | ge | ltu | geu | le | gt | leu | gtu
deriving DecidableEq, Repr, Inhabited

/-- The width codes of SEXT and ZEXT (R47), and of the vector integer lanes in MOD[5:4] reversed. -/
inductive SW where
  | w8 | w16 | w32
deriving DecidableEq, Repr, Inhabited

/-- The number formats of R44. `fp8 k`, `fp8inf k` and `ufp8 k` have precision K = k + 1. -/
inductive Fmt where
  | f32 | bf16 | f16 | int8 | uint8 | int4 | uint4 | int32
  | fp8 (k : Fin 7)
  | fp8inf (k : Fin 7)
  | ufp8 (k : Fin 7)
deriving DecidableEq, Repr, Inhabited

/-- The rounding modes of R44. -/
inductive Rm where
  | rne | rtz | sat
deriving DecidableEq, Repr, Inhabited

/-- The floating types of the V slots, MOD[5:4] (R49). -/
inductive FTy where
  | f32 | bf16 | f16
deriving DecidableEq, Repr, Inhabited

/-- The integer lane widths of the V slots, MOD[5:4], and of the LS slots, W (R49, R52). -/
inductive IW where
  | w32 | w16 | w8
deriving DecidableEq, Repr, Inhabited

/-- The types VCMP compares (R129). -/
inductive CmpTy where
  | f (t : FTy)
  | i32
deriving DecidableEq, Repr, Inhabited

/-- The conditions of VCMP (R50). -/
inductive VCC where
  | eq | ne | lt | le | gt | ge | ord | unord
deriving DecidableEq, Repr, Inhabited

/-- The reduction operations of VRED and VSCAN (R50). -/
inductive RedOp where
  | sum | max | min
deriving DecidableEq, Repr, Inhabited

/-- The three forms of VLI (R50, R130). -/
inductive VliKind where
  | i32 | i16 | hi
deriving DecidableEq, Repr, Inhabited

/-- A source of a V slot, as SK reinterprets it: a register, a popped stream, or the broadcast operand (R49). -/
inductive VSrc where
  | v (n : Fin 64)
  | z (n : Fin 8)
  | bcast
deriving DecidableEq, Repr, Inhabited

/-- A vector destination: a register, or a pushed stream (R49, R52). -/
inductive VDst where
  | v (n : Fin 64)
  | z (n : Fin 8)
deriving DecidableEq, Repr, Inhabited

/-- A source of the M slot, and of the stores of the LS slot: a register or a popped stream (R51, R52). -/
inductive MSrc where
  | v (n : Fin 64)
  | z (n : Fin 8)
deriving DecidableEq, Repr, Inhabited

/-- The predicate and mask fields that every V and LS slot carries (R34, R35). -/
structure VHdr where
  pr : Fin 16
  msk : Fin 8
deriving DecidableEq, Repr, Inhabited

/-- The atomic operations of ATOMV and FATOM (R52, R189). -/
inductive Aop where
  | addf | addi | maxf | minf | xchg
deriving DecidableEq, Repr, Inhabited

/-- DK and xd of format FT: a neighbouring die over a link 0 to 5, or the die whose coordinates xd holds (R54). -/
inductive Dk where
  | link (n : Fin 6)
  | routed (xd : Fin 32)
deriving DecidableEq, Repr, Inhabited

/-- The fence kinds (R54, R235). -/
inductive FKind where
  | eng | pub | host | rem
deriving DecidableEq, Repr, Inhabited

/-- The fence scopes (R54, R234). -/
inductive FScope where
  | task | team | die | module | group | system
deriving DecidableEq, Repr, Inhabited

/-- The xa, xg, xc and cc fields of format FE (R54). -/
structure FeHdr where
  pr : Fin 16
  xa : Fin 32
  xg : Fin 32
  xc : Fin 32
  cc : Fin 256
deriving DecidableEq, Repr, Inhabited

/-! ### Data that events carry -/

/-- A core of the machine: its die's coordinates as DIEXYZ (R102) and its COREID (cluster × 32 + core index). -/
structure Loc where
  die : Nat
  core : Nat
deriving DecidableEq, Repr, Inhabited

/-- Where a result lands (R91, R300). A stage bit is an index into p8 to p15 and moves with each stage advance (R95). -/
inductive Dest where
  | x (n : Nat)
  | p (n : Nat)
  | stage (b : Nat)
  | m (n : Nat)
  | v (phys : Nat)
  | g (phys : Nat)
  | acc (row : Nat)
  | plane
  | creg (n : Nat)
  | afmt
  | tileN (k : Nat) (fmt : Fmt)
  | tileW (k : Nat) (fmt : Fmt)
  | drain (q : Nat) (id : Nat) (row : Nat) (fmt : Fmt) (rm : Rm)
  | drainPlane (q : Nat) (id : Nat) (row : Nat)
  | push (z : Nat) (k : Nat)
  /-- the binding of stream z by a descriptor (R192) -/
  | bind (z : Nat)
  /-- a residual item's place on the stack (R142, R260, R282) -/
  | item (off : Nat)
  | none
deriving DecidableEq, Repr, Inhabited

/-- How a landing combines with its destination (R300). -/
inductive LMode where
  | replace
  | beatAcc
  | beatSet
  | f32acc
  | mgbeat
  | intBeatAcc
  | zero
deriving DecidableEq, Repr, Inhabited

/-- A result in flight: its destination, value, enables and the issue that made it (R91, R125, R300). -/
structure Landing where
  dest : Dest
  mode : LMode := .replace
  val : Vec := 0
  val2 : Vec := 0
  en : Mask := BitVec.allOnes 512
  bundle : Nat := 0
  slot : Nat := 0
  issued : Nat := 0
  timed : Bool := false
  rev : Bool := false
  /-- event kinds of R87 with the count of lanes affected, recorded when the result lands (R249) -/
  evs : List (Nat × Nat) := []
  /-- the result's number, by which a carry entry names it (R448; the model's own) -/
  id : Nat := 0
  /-- GCC[23:0] of the issue cycle, for its records (R248) -/
  time : Nat := 0
  /-- the position of the issue in an open block (R265; the model's own, log entry 6) -/
  pos : Nat := 0
  /-- for a result carried over a rollback: the cycle in which it lands after the resume (R448) -/
  lands : Nat := 0
deriving DecidableEq, Repr, Inhabited

/-- Which elements of memory an access touches: element `i` has `w` bytes at `base + i × stride`,
or at `base + idx[i] × w` for an indexed form, where index 0xFFFF_FFFF skips (R185 to R189). -/
structure Shape where
  base : Nat
  stride : Int := 4
  w : Nat := 4
  n : Nat := 128
  idx : Option Vec := .none
deriving DecidableEq, Repr, Inhabited

/-- Which memory of a die an access reaches. -/
inductive MemKind where
  | scratch
  /-- main memory by virtual address, under the translation the access holds since its issue or acceptance (R315) -/
  | virt
  /-- main memory by device physical address -/
  | dram
deriving DecidableEq, Repr, Inhabited

/-- A request through an aperture (R318, R319), or its counted answer. -/
structure ApReq where
  dst : Nat
  tasid : Nat
  src : Nat
  sasid : Nat
  loc : Loc
  va : Nat
  /-- the address before the aperture, and whether the request waited for a page that a migrate command held (R320) -/
  sva : Nat := 0
  waited : Bool := false
  /-- none: FLD; some (none): FST; some (some a): FATOM -/
  kind : Option (Option Aop)
  data : Vec := 0
  land : Option Landing := .none
  id : Nat := 0
deriving DecidableEq, Repr, Inhabited

/-- What an access does at its perform cycle (R222). -/
inductive AccOp where
  | read
  | write
  | addF32
  | addI32
  | atom (a : Aop)
  /-- PUBL swaps entries e to e + n − 1 (R227) -/
  | publish (e n : Nat)
  /-- a read stream's fetch of vector k (R243) -/
  | fetch (z k : Nat)
  /-- an engine reads block k of its command's source (R225) -/
  | block (k : Nat)
  /-- a plain write of the bits of a 64 B block that an enable selects (R201) -/
  | bits (en : BitVec 512)
  /-- block k of segment g of a core's stack leaves the window for the spill area (R275) -/
  | segOut (core g k : Nat)
  /-- block k of segment g comes back from the spill area (R275) -/
  | segIn (core g k : Nat)
  /-- the access of a request that has come through an aperture (R222, R319) -/
  | request (r : ApReq)
deriving DecidableEq, Repr, Inhabited

/-- The class an access counts in for fences (R235). -/
inductive AccClass where
  | store
  | load
  | engine
  | remote
  | publish
deriving DecidableEq, Repr, Inhabited

/-- One memory access (R220). `en` selects bytes of the register image, element `i` at bytes `i × w` onwards. -/
structure Access where
  die : Nat
  mem : MemKind := .scratch
  op : AccOp
  shape : Shape
  data : Vec := 0
  en : Mask := BitVec.allOnes 512
  port : Nat := 0
  asid : Nat := 0
  src : Option Loc := .none
  bundle : Nat := 0
  slot : Nat := 0
  issued : Nat := 0
  timed : Bool := false
  rev : Bool := false
  /-- bytes forwarded from the task's own withheld stores (R181) -/
  fwdVal : Vec := 0
  fwdEn : Mask := 0
  /-- where a loaded value lands -/
  land : Option Landing := .none
  cls : AccClass := .store
  /-- the chunk id of a bank-controller access, when it has one (R88) -/
  chunk : Option Nat := .none
  /-- the command this access belongs to, for an engine (R209) -/
  cmd : Option Nat := .none
  /-- for a store of a write stream: the pushing operation's landing cycle has supplied the data (R244) -/
  ready : Bool := true
  /-- latency, counted from its start cycle (R178, R181) -/
  lat : Nat := 0
  /-- its start cycle: issue, release or landing of its data, one later for each stall cycle that delays it (R179, R181) -/
  start : Nat := 0
  /-- GCC[23:0] of the issue cycle, for its records (R248) -/
  time : Nat := 0
  /-- the launch that wrote, and the shadow map entry the write names, for R229 -/
  launch : Nat := 0
  shdw : Option Nat := .none
  /-- for a store of a walk: the event kinds its adjoint has recorded already (R88) -/
  mute : Nat := 0
deriving DecidableEq, Repr, Inhabited

/-- A team: the die and the identifier the die's scheduler gave it. -/
structure TeamRef where
  die : Nat
  team : Nat
deriving DecidableEq, Repr, Inhabited

/-- A timed transfer on the torus (R334, R335): its words, where they go and the route that is left. -/
structure Transfer where
  src : Nat
  dst : Nat
  task : Option Loc := .none
  asid : Nat := 0
  launch : Nat := 0
  /-- departure cycle of word 0 -/
  depart : Nat
  /-- words per cycle, and the cycles between steps of the walker's bulk reads (R341) -/
  rate : Nat
  gap : Nat := 1
  /-- path latency of the whole route (R330) -/
  lat : Nat
  addr : Nat
  op : AccOp := .write
  /-- the number of the transfer (the model's own) -/
  id : Nat := 0
  /-- how many words it has, how many have departed, and the words still to depart when they were read before -/
  n : Nat := 0
  k : Nat := 0
  words : List (BitVec 32) := []
  /-- the scratch address of the source, whose words are read as they depart (R334) -/
  from_ : Option Nat := .none
  /-- a handle chunk of the walker: the handle, and the byte offset of the chunk in the tensor (R341) -/
  tile : Option (BitVec 512 × Nat) := .none
  chunk : Option Nat := .none
  /-- the links still to cross, each with its die, and the latency already spent before it -/
  hops : List (Nat × Nat × Nat) := []
  /-- a paired-channel vector: its channel and its place in the channel's order -/
  pair : Option (Nat × Nat) := .none
deriving DecidableEq, Repr, Inhabited

/-- One word of a timed transfer as it reaches its die (R230). -/
structure FabWord where
  dst : Nat
  src : Nat
  asid : Nat
  launch : Nat
  addr : Nat
  op : AccOp
  word : BitVec 32
  chunk : Option Nat := .none
  link : Nat := 6
  id : Nat := 0
deriving DecidableEq, Repr, Inhabited

/-- A vector on a paired channel (R279). -/
structure PairVec where
  dst : Nat
  launch : Nat
  chan : Nat
  val : Vec
  src : Nat := 0
  /-- its place in the channel's order (R279) -/
  seq : Nat := 0
deriving DecidableEq, Repr, Inhabited

/-- What counted traffic carries (R336). -/
inductive Payload where
  | pair (v : PairVec)
  | request (r : ApReq)
  | answer (l : Loc) (r : Landing) (id : Nat)
  | done (l : Loc) (id : Nat)
  | kill (asid : Nat) (launch : Nat)
  | proposal (gid : Nat) (c : Nat)
deriving DecidableEq, Repr, Inhabited

/-- One counted message and the die it has reached (R449). -/
structure Counted where
  at_ : Nat
  dst : Nat
  src : Nat
  launch : Nat := 0
  asid : Nat := 0
  body : Payload
  tries : Nat := 0
deriving DecidableEq, Repr, Inhabited

/-- A beacon (R372). -/
structure Beacon where
  grp : Nat
  hop : Nat
  sync : Nat
  ref : Nat
  epoch : Nat
deriving DecidableEq, Repr, Inhabited

/-- A map record (R380, R381). -/
structure MapRec where
  mapg : Nat
  mapt : Nat
  mapk : Nat
  epoch : Nat
  u : Nat
deriving DecidableEq, Repr, Inhabited

/-- A Sync exchange as the timing port reports it (R379, R389): whether it is accepted, what the servo measured. -/
structure PtpSync where
  accepted : Bool
  locked : Bool
  ptp : Nat
  k : Nat
  u : Nat
deriving DecidableEq, Repr, Inhabited

/-- The header of a host command (R434). -/
structure CmdHdr where
  tag : Nat
  asid : Nat
  die : Nat
  compl : Nat
deriving DecidableEq, Repr, Inhabited

/-- The scheduling parameters of a context (R284). -/
structure SchedParams where
  ageq : Nat
  draint : Nat
  killt : Nat
  pregap : Nat
deriving DecidableEq, Repr, Inhabited

/-- Where an SRAM error stands (R196, R254): the array, by UNIT code 0 to 6, the core, and the address in the array. -/
structure SramLoc where
  unit : Nat
  loc : Loc
  addr : Nat
deriving DecidableEq, Repr, Inhabited

/-- A long-haul data frame (R352, R355): its endpoint, transport sequence number, stream and units. -/
structure LhFrame where
  die : Nat
  port : Nat
  ep : Nat
  pn : Nat
  seq : Nat
  stream : Nat
  block : Nat
  intact : Bool
  compressed : Bool
  data : List (BitVec 8)
deriving DecidableEq, Repr, Inhabited

/-! ### The instructions and events -/

/-- The steps of the machine: one constructor for each row of the opcode table. Rows without data of their
own stand last. -/
inductive Instr where
  -- the issue and completion of work in a core
  | resultLanding (l : Loc) (r : Landing)
  | accessPerform (a : Access)
  -- S slots (R45 to R47)
  | add (p : Fin 16) (d a : Fin 32) (b : SSrc)
  | sub (p : Fin 16) (d a : Fin 32) (b : SSrc)
  | and (p : Fin 16) (d a : Fin 32) (b : SSrc)
  | or (p : Fin 16) (d a : Fin 32) (b : SSrc)
  | xor (p : Fin 16) (d a : Fin 32) (b : SSrc)
  | andn (p : Fin 16) (d a : Fin 32) (b : SSrc)
  | shl (p : Fin 16) (d a : Fin 32) (b : SSrc)
  | shr (p : Fin 16) (d a : Fin 32) (b : SSrc)
  | sar (p : Fin 16) (d a : Fin 32) (b : SSrc)
  | min (p : Fin 16) (d a : Fin 32) (b : SSrc)
  | max (p : Fin 16) (d a : Fin 32) (b : SSrc)
  | minu (p : Fin 16) (d a : Fin 32) (b : SSrc)
  | maxu (p : Fin 16) (d a : Fin 32) (b : SSrc)
  | mul (p : Fin 16) (d a : Fin 32) (b : SSrc)
  | mulh (p : Fin 16) (d a : Fin 32) (b : SSrc)
  | mulhu (p : Fin 16) (d a : Fin 32) (b : SSrc)
  | clz (p : Fin 16) (d a : Fin 32)
  | ctz (p : Fin 16) (d a : Fin 32)
  | popc (p : Fin 16) (d a : Fin 32)
  | sext (p : Fin 16) (d a : Fin 32) (w : SW)
  | zext (p : Fin 16) (d a : Fin 32) (w : SW)
  | addsh1 (p : Fin 16) (d a : Fin 32) (b : SSrc)
  | addsh2 (p : Fin 16) (d a : Fin 32) (b : SSrc)
  | addsh3 (p : Fin 16) (d a : Fin 32) (b : SSrc)
  | addsh4 (p : Fin 16) (d a : Fin 32) (b : SSrc)
  | addi (p : Fin 16) (d : Fin 32) (a : SSrc) (imm : BitVec 11)
  | andi (p : Fin 16) (d : Fin 32) (a : SSrc) (imm : BitVec 11)
  | ori (p : Fin 16) (d : Fin 32) (a : SSrc) (imm : BitVec 11)
  | xori (p : Fin 16) (d : Fin 32) (a : SSrc) (imm : BitVec 11)
  | shli (p : Fin 16) (d : Fin 32) (a : SSrc) (sh : Fin 64)
  | shri (p : Fin 16) (d : Fin 32) (a : SSrc) (sh : Fin 64)
  | sari (p : Fin 16) (d : Fin 32) (a : SSrc) (sh : Fin 64)
  | li (p : Fin 16) (d : Fin 32) (imm : BitVec 16)
  | lch (p : Fin 16) (d : Fin 32) (h : Fin 4) (imm : BitVec 16)
  | cmp (p : Fin 16) (q : Fin 16) (a : Fin 32) (b : SSrc) (cc : CC)
  | cmpi (p : Fin 16) (q : Fin 16) (a : SSrc) (cc : CC) (imm : BitVec 8)
  | pand (p : Fin 16) (q a b : Fin 16)
  | por (p : Fin 16) (q a b : Fin 16)
  | pxor (p : Fin 16) (q a b : Fin 16)
  | pnot (p : Fin 16) (q a : Fin 16)
  | br (p : Fin 16) (off : BitVec 22)
  | brp (p : Fin 16) (ps : Fin 16) (off : BitVec 18)
  | jmp (p : Fin 16) (a : Fin 32)
  | call (p : Fin 16) (off : BitVec 22)
  | ret (p : Fin 16)
  | exit (p : Fin 16)
  | trap (p : Fin 16) (code : BitVec 16)
  | yield (p : Fin 16)
  | loop (p : Fin 16) (lv : Fin 8) (xc xs : Fin 32) (stride : BitVec 9)
  | loopi (p : Fin 16) (lv : Fin 8) (count : BitVec 13) (stride : BitVec 6)
  | ntreq (p : Fin 16) (vd : Fin 64)
  | wfe (p : Fin 16) (ev : Fin 16)
  | sev (p : Fin 16) (ev : Fin 16) (a : Fin 32)
  | bar (p : Fin 16) (b : Fin 4)
  | align (p : Fin 16) (a : Fin 32)
  | tenter (p : Fin 16) (a : Fin 32)
  | texit (p : Fin 16)
  | rdc (p : Fin 16) (d : Fin 32) (creg : BitVec 12)
  | wrc (p : Fin 16) (creg : BitVec 12) (a : Fin 32)
  | stqp (p : Fin 16) (d : Fin 32)
  | lds (p : Fin 16) (d : Fin 32) (a : SSrc) (imm : BitVec 11)
  | sts (p : Fin 16) (s : Fin 32) (a : SSrc) (imm : BitVec 11)
  -- XB slot (R48)
  | xsv (vd : Fin 64) (xa : Fin 32)
  | xvs (xd : Fin 32) (va : Fin 64)
  | xpv (md : Fin 8) (pa : Fin 16)
  | xvp (pd : Fin 16) (ma : Fin 8)
  -- V slots (R49, R50)
  | vadd (h : VHdr) (t : FTy) (d : VDst) (a b : VSrc)
  | vsub (h : VHdr) (t : FTy) (d : VDst) (a b : VSrc)
  | vmul (h : VHdr) (t : FTy) (d : VDst) (a b : VSrc)
  | vfma (h : VHdr) (t : FTy) (d : VDst) (a b : VSrc) (c : Fin 64)
  | vfms (h : VHdr) (t : FTy) (d : VDst) (a b : VSrc) (c : Fin 64)
  | vfnma (h : VHdr) (t : FTy) (d : VDst) (a b : VSrc) (c : Fin 64)
  | vmin (h : VHdr) (t : FTy) (d : VDst) (a b : VSrc)
  | vmax (h : VHdr) (t : FTy) (d : VDst) (a b : VSrc)
  | vabs (h : VHdr) (t : FTy) (d : VDst) (a : VSrc)
  | vneg (h : VHdr) (t : FTy) (d : VDst) (a : VSrc)
  | vcps (h : VHdr) (t : FTy) (d : VDst) (a b : VSrc)
  | vrcp (h : VHdr) (t : FTy) (d : VDst) (a : VSrc)
  | vrsq (h : VHdr) (t : FTy) (d : VDst) (a : VSrc)
  | vsqrt (h : VHdr) (t : FTy) (d : VDst) (a : VSrc)
  | vexp2 (h : VHdr) (t : FTy) (d : VDst) (a : VSrc)
  | vlog2 (h : VHdr) (t : FTy) (d : VDst) (a : VSrc)
  | vtanh (h : VHdr) (t : FTy) (d : VDst) (a : VSrc)
  | viadd (h : VHdr) (w : IW) (d : VDst) (a b : VSrc)
  | visub (h : VHdr) (w : IW) (d : VDst) (a b : VSrc)
  | vimul (h : VHdr) (w : IW) (d : VDst) (a b : VSrc)
  | vimad (h : VHdr) (w : IW) (d : VDst) (a b : VSrc) (c : Fin 64)
  | vimin (h : VHdr) (w : IW) (u : Bool) (d : VDst) (a b : VSrc)
  | vimax (h : VHdr) (w : IW) (u : Bool) (d : VDst) (a b : VSrc)
  | vand (h : VHdr) (d : VDst) (a b : VSrc)
  | vor (h : VHdr) (d : VDst) (a b : VSrc)
  | vxor (h : VHdr) (d : VDst) (a b : VSrc)
  | vshl (h : VHdr) (w : IW) (d : VDst) (a b : VSrc)
  | vshr (h : VHdr) (w : IW) (d : VDst) (a b : VSrc)
  | vsar (h : VHdr) (w : IW) (d : VDst) (a b : VSrc)
  | vcmp (h : VHdr) (t : CmpTy) (cc : VCC) (md : Fin 8) (a b : VSrc)
  | vsel (h : VHdr) (d : VDst) (a b : VSrc) (mc : Fin 8)
  | vmov (h : VHdr) (d : VDst) (a : VSrc)
  | vsplat (h : VHdr) (w : IW) (d : VDst) (a : VSrc) (lane : Fin 256)
  | vli (h : VHdr) (k : VliKind) (d : VDst) (imm : BitVec 16)
  | viota (h : VHdr) (w : IW) (d : VDst)
  | vperm (h : VHdr) (w : IW) (d : VDst) (a b : VSrc)
  | vrot (h : VHdr) (w : IW) (d : VDst) (a : VSrc) (n : Fin 256)
  | vpack (h : VHdr) (w : IW) (u : Bool) (d : VDst) (a b : VSrc)
  | vunpk (h : VHdr) (w : IW) (u : Bool) (d : VDst) (a : VSrc)
  | vcvt (h : VHdr) (d : VDst) (a : VSrc) (src dst : Fmt) (rm : Rm)
  | vscl (h : VHdr) (t : FTy) (d : VDst) (a : VSrc) (s : BitVec 8)
  | vred (h : VHdr) (t : FTy) (op : RedOp) (d : VDst) (a : VSrc)
  | vscan (h : VHdr) (t : FTy) (op : RedOp) (d : VDst) (a : VSrc)
  | part (h : VHdr) (d : Fin 64) (a : VSrc) (n : Fin 4)
  | vrng (h : VHdr) (d : VDst) (a b : VSrc) (w : Fin 4)
  | vdrop (h : VHdr) (t : FTy) (d : VDst) (a : VSrc) (key : Fin 4) (theta : Fin 64)
  | mand (h : VHdr) (d a b : Fin 8)
  | mor (h : VHdr) (d a b : Fin 8)
  | mnot (h : VHdr) (d a : Fin 8)
  | mcnt (h : VHdr) (d : Fin 64) (a : Fin 8)
  -- M slot (R51)
  | mwldN (p : Fin 16) (k : Fin 128) (a : MSrc)
  | mwldW (p : Fin 16) (k : Fin 128) (a : MSrc)
  | mafmt (p : Fin 16) (f : Fmt)
  | mbeat (p : Fin 16) (a : Fin 1024) (set cb : Bool) (src : MSrc)
  | mbeatt (p : Fin 16) (a : Fin 1024) (set cb : Bool) (src : MSrc)
  | mbeat2 (p : Fin 16) (a : Fin 1024) (set cb : Bool) (src : MSrc)
  | mdrn (p : Fin 16) (a : Fin 1024) (q : Fin 4) (f : Fmt) (rm : Rm)
  | mclr (p : Fin 16) (a : Fin 1024) (n : Fin 8)
  | mgbeat (p : Fin 16) (a b : MSrc)
  | mgdrn (p : Fin 16) (row : Fin 128) (q : Fin 4)
  | mgclr (p : Fin 16)
  | aRowArrival (l : Loc) (row : Vec) (f : Fmt)
  -- LS slot (R52, R53)
  | ldv (h : VHdr) (d : VDst) (xa : Fin 32) (off : BitVec 16) (pi : Bool)
  | stv (h : VHdr) (s : MSrc) (xa : Fin 32) (off : BitVec 16) (pi : Bool)
  | ldvs (h : VHdr) (w : IW) (d : VDst) (xa xs : Fin 32) (off : BitVec 11) (pi : Bool)
  | stvs (h : VHdr) (w : IW) (s : MSrc) (xa xs : Fin 32) (off : BitVec 11) (pi : Bool)
  | gath (h : VHdr) (w : IW) (d : Fin 64) (xa : Fin 32) (vi : Fin 64)
  | scat (h : VHdr) (w : IW) (s : Fin 64) (xa : Fin 32) (vi : Fin 64)
  | scata (h : VHdr) (s : Fin 64) (xa : Fin 32) (vi : Fin 64)
  | atomv (h : VHdr) (op : Aop) (r : Fin 64) (xa : Fin 32) (vi : Fin 64)
  | ldb (h : VHdr) (d : VDst) (xa : Fin 32) (off : BitVec 16) (pi : Bool)
  | ldg (h : VHdr) (g : Fin 64) (xa : Fin 32) (off : BitVec 16) (pi : Bool)
  | stg (h : VHdr) (g : Fin 64) (xa : Fin 32) (off : BitVec 16) (pi : Bool)
  | sbind (h : VHdr) (z : Fin 8) (xa : Fin 32) (off : BitVec 16)
  | sunb (h : VHdr) (z : Fin 8)
  | qpop (h : VHdr) (d : Fin 64) (q : Fin 4)
  | qst (h : VHdr) (q : Fin 4) (xa : Fin 32) (off : BitVec 16) (pi : Bool)
  | streamFetch (l : Loc) (z : Fin 8)
  | muleStreamTransfer (l : Loc) (z : Fin 8)
  -- FB slot (R54, R55)
  | fsend (p : Fin 16) (dk : Dk) (xa xr : Fin 32) (cnt : Fin 4096) (stamp : BitVec 16)
  | fsenda (p : Fin 16) (dk : Dk) (xa xr : Fin 32) (cnt : Fin 4096) (stamp : BitVec 16)
  | fsendq (p : Fin 16) (dk : Dk) (q : Fin 4) (xr : Fin 32) (cnt : Fin 16) (stamp : BitVec 16)
  | frecv (p : Fin 16) (xa : Fin 32) (cnt : Fin 4096)
  | fld (p : Fin 16) (vd : Fin 64) (xa : Fin 32)
  | fst (p : Fin 16) (vs : Fin 64) (xa : Fin 32)
  | fatom (p : Fin 16) (op : Aop) (vr : Fin 64) (xa : Fin 32)
  | mcpy (h : FeHdr)
  | mbulk (h : FeHdr) (tag : Fin 64)
  | mclose (p : Fin 16) (st : Fin 4) (tag : Fin 64)
  | publ (p : Fin 16) (xa : Fin 32)
  | ttgo (p : Fin 16) (xa : Fin 32) (stamp : BitVec 16)
  | upd (h : FeHdr) (xv : Fin 32)
  | norm (h : FeHdr)
  | fars (h : FeHdr) (port : Fin 2)
  | farr (h : FeHdr) (port : Fin 2)
  | cwait (p : Fin 16) (cc : Fin 256) (xv : Fin 32)
  | cinc (p : Fin 16) (cc : Fin 256) (imm : BitVec 16)
  | fence (p : Fin 16) (kind : FKind) (scope : FScope)
  | psend (p : Fin 16) (ch : Fin 256) (vr : Fin 64) (g : Bool) (stamp : BitVec 16)
  | precv (p : Fin 16) (ch : Fin 256) (vr : Fin 64) (g : Bool)
  -- RP slot (R56)
  | rpush (p : Fin 16) (va : Fin 64) (g : Bool)
  | rpop (p : Fin 16) (vd : Fin 64) (g : Bool)
  | rspill (p : Fin 16) (n : Fin 4096)
  | rfill (p : Fin 16) (n : Fin 4096)
  | rdrop (p : Fin 16) (n : Fin 16)
  | blkBegin (p : Fin 16) (n : Fin 4096)
  | blkEnd (p : Fin 16) (n : Fin 4096)
  | blkRev (p : Fin 16) (n : Fin 4096)
  -- events of a core and its engines
  | eventFlagSet (t : TeamRef) (ix : Nat) (ev : Fin 16)
  | barrierComplete (t : TeamRef) (b : Fin 4)
  | cincApply (die : Nat) (cc : Nat) (n : Nat)
  | muleCommandComplete (die : Nat) (id : Nat)
  | zeroCountCompletion (die : Nat) (id : Nat)
  | mbulkBlock (die : Nat) (id : Nat) (k : Nat)
  | mcloseRelease (die : Nat) (stack tag : Nat)
  | segmentTransferComplete (l : Loc) (seg : Nat)
  | cxlFrameMove (l : Loc) (frame : Nat) (toCxl : Bool)
  | fabricDeparture (t : Transfer)
  | routerForward (die : Nat) (link : Nat) (t : Transfer)
  | fabricWordArrival (w : FabWord)
  | countedFlitArrival (c : Counted) (intact : Bool)
  | pairedVectorArrival (v : PairVec)
  | apertureRequest (r : ApReq)
  | killNotice (die : Nat) (asid : Nat) (launch : Nat)
  | linkTraining (die : Nat) (link : Nat) (lat : Nat)
  | linkDegrade (die : Nat) (link : Nat) (lat : Nat)
  | linkDown (die : Nat) (link : Nat)
  | relaunch (launch : Nat)
  | faultPropagation (launch : Nat)
  | beaconArrival (die : Nat) (link : Nat) (b : Beacon)
  | groupFormation (x y z : Nat)
  | mapRecordReceive (die : Nat) (r : MapRec)
  | ptpSyncReceive (die : Nat) (m : PtpSync)
  | readinessSend (die : Nat) (gid : Nat)
  | readinessReceive (die : Nat) (gid : Nat) (member : Nat) (bits : Nat) (free : Bool)
  | gangDecision (die : Nat) (gid : Nat)
  | abortReceive (die : Nat) (gid : Nat)
  | gangStart (die : Nat) (gid : Nat)
  | gangRetry (gid : Nat)
  | crossGroupPrepare (gid : Nat) (t : Nat)
  | crossGroupDecision (gid : Nat)
  | commitDeadline (gid : Nat)
  | drainHorizon (die : Nat) (gid : Nat)
  | drainDeadline (t : TeamRef)
  | clusterStart (t : TeamRef)
  | teamResume (t : TeamRef)
  | launchComplete (launch : Nat)
  | segmentReplay (launch : Nat)
  | uncorrectableSramError (a : SramLoc)
  | uncorrectableMemoryError (die : Nat) (dpa : Nat) (unit : Nat)
  | pseudoChannelRetirement (die : Nat) (stack pc : Nat)
  | longhaulFrameReceive (f : LhFrame)
  | longhaulAckSend (die : Nat) (port ep : Nat)
  | longhaulAckReceive (die : Nat) (port ep : Nat) (cum : Nat) (bitmap : Nat)
  | longhaulResendTimeout (die : Nat) (port ep : Nat) (seq : Nat)
  | endpointLoss (die : Nat) (port ep : Nat)
  -- the host interface (R433 to R445)
  | hostDoorbell (tail : Nat)
  | registerWrite (off : Nat) (val : Word)
  | junctionWarm (die : Nat) (temp : Int)
  | junctionHot (die : Nat) (temp : Int)
  | junctionCool (die : Nat) (temp : Int)
  | junctionTrip (die : Nat) (temp : Int)
  | gangProposalReceive (die : Nat) (gid : Nat) (c : Nat)
  | crossGroupCommitReceive (gid : Nat) (commit : Bool)
  | saveRecordWritten (l : Loc) (team : Nat)
  | patchImageLoad (digestOk sigOk : Bool) (digest : BitVec 256)
  -- the empty slots (R446)
  | sNop
  | xbNop
  | vNop
  | mNop
  | lsNop
  | fbNop
  | rpNop
  -- events of a core, at the core that the state names
  | bundleIssue
  | stallEnd
  | reversePosition
  | replayPosition
  | texitHoldEnd
  | alignWaitEnd
  | wfeWake
  | cwaitSatisfied
  | fenceComplete
  | commandAcceptance
  | residualControllerSpill
  | residualControllerFill
  | gangStop
  | taskFirstBundle
  | taskStop
  | saveStart
  | taskRetire
  | coreRetirement
  -- events of a unit of a die, on the die that the state names
  | beaconSend
  | mapRecordIssue
  | ptpHoldover
  | ppsOutEdge
  | ppsInEdge
  | referenceLoss
  | oxCommandStart
  | normResultWrite
  | updNormGate
  | updTileStart
  | updTilePublish
  | updCompletion
  | refreshWindow
  | placementPass
  | scrubStep
  | walkerDeparture
  -- commands of the host, whose fields stand in the ring entry that the state holds (R434)
  | undefinedCommand
  | contextCreate
  | contextDestroy
  | contextParameters
  | map
  | unmap
  | protect
  | pin
  | unpin
  | migrate
  | apertureWrite
  | apertureGrant
  | shadowMapWrite
  | shadowMapInvalidate
  | handle
  | drop
  | imageLoad
  | timetableLoad
  | timetableFree
  | counterAllocate
  | counterFree
  | enqueueLaunch
  | gangProposalLaunch
  | gangProposalPreemption
  | gangProposalResume
  | segmentMark
  | faultResolveResume
  | faultResolveEnd
  | cancelLaunch
  | recordRead
  | health
  | keyInstall
  | endpointWrite
  | endpointInvalidate
  | linkRetrain
  | linkTakeDown
  | cxlConfiguration
  | attest
  -- power and resets (R442, R445)
  | powerOn
  | functionLevelReset
  | conventionalReset
deriving DecidableEq, Repr, Inhabited

end Sys2Proof
end

