-- ==== Sys2Proof/WellFormed.lean ====
section
/-! DEFINITION. Which terms of the syntax the encoding can hold: the limits of R36 item 8 and of the opcode maps. -/

namespace Sys2Proof

/-- A loop index names a level 0 to 5 (R45). -/
def SSrc.wf : SSrc → Bool
  | .x _ => true
  | .li n => n.val < 6

/-- An instruction never writes p0 to p3 (R43). -/
def predDst (q : Fin 16) : Bool := 4 ≤ q.val

/-- `va` is a register or a popped stream, never the broadcast operand (R49). -/
def VSrc.isA : VSrc → Bool
  | .bcast => false
  | _ => true

/-- `vb` is a register or the broadcast operand, never a stream (R49). -/
def VSrc.isB : VSrc → Bool
  | .z _ => false
  | _ => true

/-- SK has no code for a pushed stream together with the broadcast operand (R49). -/
def VDst.okB : VDst → VSrc → Bool
  | .z _, .bcast => false
  | _, _ => true

/-- The operands of a two-source V form have an SK code (R49, R124). -/
def vab (d : VDst) (a b : VSrc) : Bool := a.isA && b.isB && d.okB b

/-- The lane count of an integer width (R128). -/
def IW.lanes : IW → Nat
  | .w32 => 128
  | .w16 => 256
  | .w8 => 512

/-- The legal kind and scope combinations of FENCE (R235). -/
def fenceLegal : FKind → FScope → Bool
  | .eng, _ => true
  | .pub, _ => true
  | .host, .system => true
  | .host, _ => false
  | .rem, .module => true
  | .rem, .group => true
  | .rem, .system => true
  | .rem, _ => false

/-- MGBEAT's two streams differ (R51). -/
def mgPair : MSrc → MSrc → Bool
  | .z m, .z n => m != n
  | _, _ => true

/-- The limits an instruction's operands keep (R36 item 8, R45 to R56, R124). -/
def Instr.wf : Instr → Bool
  | .add _ _ _ b => b.wf
  | .sub _ _ _ b => b.wf
  | .and _ _ _ b => b.wf
  | .or _ _ _ b => b.wf
  | .xor _ _ _ b => b.wf
  | .andn _ _ _ b => b.wf
  | .shl _ _ _ b => b.wf
  | .shr _ _ _ b => b.wf
  | .sar _ _ _ b => b.wf
  | .min _ _ _ b => b.wf
  | .max _ _ _ b => b.wf
  | .minu _ _ _ b => b.wf
  | .maxu _ _ _ b => b.wf
  | .mul _ _ _ b => b.wf
  | .mulh _ _ _ b => b.wf
  | .mulhu _ _ _ b => b.wf
  | .addsh1 _ _ _ b => b.wf
  | .addsh2 _ _ _ b => b.wf
  | .addsh3 _ _ _ b => b.wf
  | .addsh4 _ _ _ b => b.wf
  | .addi _ _ a _ => a.wf
  | .andi _ _ a _ => a.wf
  | .ori _ _ a _ => a.wf
  | .xori _ _ a _ => a.wf
  | .shli _ _ a _ => a.wf
  | .shri _ _ a _ => a.wf
  | .sari _ _ a _ => a.wf
  | .cmp _ q _ b _ => predDst q && b.wf
  | .cmpi _ q a _ _ => predDst q && a.wf
  | .pand _ q _ _ => predDst q
  | .por _ q _ _ => predDst q
  | .pxor _ q _ _ => predDst q
  | .pnot _ q _ => predDst q
  | .loop _ lv _ _ _ => lv.val < 6
  | .loopi _ lv _ _ => lv.val < 6
  | .ntreq _ vd => 32 ≤ vd.val
  | .lds _ _ a _ => a.wf
  | .sts _ _ a _ => a.wf
  | .xpv md _ => md.val != 0
  | .xvp pd _ => predDst pd
  | .vadd _ _ d a b => vab d a b
  | .vsub _ _ d a b => vab d a b
  | .vmul _ _ d a b => vab d a b
  | .vfma _ _ d a b _ => vab d a b
  | .vfms _ _ d a b _ => vab d a b
  | .vfnma _ _ d a b _ => vab d a b
  | .vmin _ _ d a b => vab d a b
  | .vmax _ _ d a b => vab d a b
  | .vabs _ _ _ a => a.isA
  | .vneg _ _ _ a => a.isA
  | .vcps _ _ d a b => vab d a b
  | .vrcp _ _ _ a => a.isA
  | .vrsq _ _ _ a => a.isA
  | .vsqrt _ _ _ a => a.isA
  | .vexp2 _ _ _ a => a.isA
  | .vlog2 _ _ _ a => a.isA
  | .vtanh _ _ _ a => a.isA
  | .viadd _ _ d a b => vab d a b
  | .visub _ _ d a b => vab d a b
  | .vimul _ _ d a b => vab d a b
  | .vimad _ _ d a b _ => vab d a b
  | .vimin _ _ _ d a b => vab d a b
  | .vimax _ _ _ d a b => vab d a b
  | .vand _ d a b => vab d a b
  | .vor _ d a b => vab d a b
  | .vxor _ d a b => vab d a b
  | .vshl _ _ d a b => vab d a b
  | .vshr _ _ d a b => vab d a b
  | .vsar _ _ d a b => vab d a b
  | .vcmp _ .i32 .ord _ _ _ => false
  | .vcmp _ .i32 .unord _ _ _ => false
  | .vcmp _ _ _ md a b => md.val != 0 && a.isA && b.isB
  | .vsel _ d a b _ => vab d a b
  | .vmov _ _ a => a.isA
  | .vsplat _ w _ a lane => a.isA && lane.val < w.lanes
  | .vperm _ _ d a b => vab d a b
  | .vrot _ w _ a n => a.isA && n.val < w.lanes
  | .vpack _ w _ d a b => w != .w32 && vab d a b
  | .vunpk _ w _ _ a => w != .w8 && a.isA
  | .vcvt _ _ a _ _ _ => a.isA
  | .vscl _ _ _ a _ => a.isA
  | .vred _ _ _ _ a => a.isA
  | .vscan _ _ _ _ a => a.isA
  | .part _ d a _ => d.val ≤ 59 && a.isA
  | .vrng _ d a b _ => vab d a b
  | .vdrop _ _ _ a _ _ => a.isA
  | .mand _ d _ _ => d.val != 0
  | .mor _ d _ _ => d.val != 0
  | .mnot _ d _ => d.val != 0
  | .mafmt _ f => f != .int32
  | .mbeat2 _ a _ _ _ => a.val % 2 == 0
  | .mdrn _ _ _ f rm => rm == .rne || match f with
    | .f32 | .int32 | .int8 | .uint8 | .int4 | .uint4 => false
    | _ => true
  | .mclr _ a n => a.val + n.val ≤ 1023
  | .mgbeat _ a b => mgPair a b
  | .fence _ k s => fenceLegal k s
  | .rspill _ n => n.val != 0
  | .rfill _ n => n.val != 0
  | .rdrop _ n => n.val != 0
  | _ => true

end Sys2Proof
end

