-- ==== Sys2Proof/Decode.lean ====
section
/-! DEFINITION. The decoder of every slot (R45 to R56), total on any bits and rejecting by name; the encoder written
from the same maps; the bundle decoder with the checks of R36; and the host's `decodeTableWord`. -/

namespace Sys2Proof

/-- Why bits are not an instruction (the items of R36). -/
inductive Bad where
  /-- item 1: an undefined opcode, or an undefined value in a function, condition, format, kind, scope or type field -/
  | undefined
  /-- item 2: a reserved bit, or a field that a format marks zero, is non-zero -/
  | reserved
  /-- item 3: port code 7, or a port count that differs from the read count -/
  | ports
  /-- item 4: the broadcast operand while BC = 0 -/
  | broadcast
  /-- item 5: LDS or STS in S0 -/
  | s0Access
  /-- item 6: two sequencer operations -/
  | twoSequencer
  /-- item 7: a sequencer operation with LE = 1 -/
  | closeSequencer
  /-- item 8: a field outside its listed limit -/
  | limit
  /-- item 9: one stream popped twice, or pushed twice -/
  | streamTwice
deriving DecidableEq, Repr, Inhabited

/-! ### Fields -/

/-- The fields of a word, least significant first, by their widths. -/
def unpack : List Nat → Nat → List Nat
  | [], _ => []
  | k :: ks, w => w % 2 ^ k :: unpack ks (w / 2 ^ k)

/-- The word whose fields, least significant first, have these widths and values. -/
def pack : List (Nat × Nat) → Nat
  | [] => 0
  | (k, v) :: fs => v % 2 ^ k + 2 ^ k * pack fs

/-- A one-bit field. -/
def bit (b : Bool) : Nat := if b then 1 else 0

def ssrc (l n : Nat) : SSrc := if l = 1 then .li (Fin.ofNat 32 n) else .x (Fin.ofNat 32 n)
def SSrc.flag : SSrc → Nat
  | .x _ => 0
  | .li _ => 1
def SSrc.num : SSrc → Nat
  | .x n => n.val
  | .li n => n.val

def CC.code : CC → Nat
  | .eq => 0 | .ne => 1 | .lt => 2 | .ge => 3 | .ltu => 4 | .geu => 5 | .le => 6 | .gt => 7 | .leu => 8 | .gtu => 9
def CC.ofCode : Nat → Option CC
  | 0 => some .eq | 1 => some .ne | 2 => some .lt | 3 => some .ge | 4 => some .ltu | 5 => some .geu
  | 6 => some .le | 7 => some .gt | 8 => some .leu | 9 => some .gtu | _ => none

def SW.code : SW → Nat
  | .w8 => 0 | .w16 => 1 | .w32 => 2
def SW.ofCode : Nat → Option SW
  | 0 => some .w8 | 1 => some .w16 | 2 => some .w32 | _ => none

/-- The format codes of R44. -/
def Fmt.code : Fmt → Nat
  | .f32 => 0 | .bf16 => 1 | .f16 => 2 | .int8 => 4 | .uint8 => 5 | .int4 => 6 | .uint4 => 7 | .int32 => 8
  | .fp8 k => 0x11 + k.val
  | .fp8inf k => 0x21 + k.val
  | .ufp8 k => 0x31 + k.val
def Fmt.ofCode (n : Nat) : Option Fmt :=
  if n = 0 then some .f32 else if n = 1 then some .bf16 else if n = 2 then some .f16
  else if n = 4 then some .int8 else if n = 5 then some .uint8 else if n = 6 then some .int4
  else if n = 7 then some .uint4 else if n = 8 then some .int32
  else if 0x11 ≤ n ∧ n ≤ 0x17 then some (.fp8 (Fin.ofNat 7 (n - 0x11)))
  else if 0x21 ≤ n ∧ n ≤ 0x27 then some (.fp8inf (Fin.ofNat 7 (n - 0x21)))
  else if 0x31 ≤ n ∧ n ≤ 0x37 then some (.ufp8 (Fin.ofNat 7 (n - 0x31)))
  else none

def Rm.code : Rm → Nat
  | .rne => 0 | .rtz => 1 | .sat => 2
def Rm.ofCode : Nat → Option Rm
  | 0 => some .rne | 1 => some .rtz | 2 => some .sat | _ => none
def FTy.code : FTy → Nat
  | .f32 => 0 | .bf16 => 1 | .f16 => 2
def FTy.ofCode : Nat → Option FTy
  | 0 => some .f32 | 1 => some .bf16 | 2 => some .f16 | _ => none
def IW.code : IW → Nat
  | .w32 => 0 | .w16 => 1 | .w8 => 2
def IW.ofCode : Nat → Option IW
  | 0 => some .w32 | 1 => some .w16 | 2 => some .w8 | _ => none
def CmpTy.code : CmpTy → Nat
  | .f t => t.code | .i32 => 3
def CmpTy.ofCode : Nat → Option CmpTy
  | 0 => some (.f .f32) | 1 => some (.f .bf16) | 2 => some (.f .f16) | 3 => some .i32 | _ => none
def VCC.code : VCC → Nat
  | .eq => 0 | .ne => 1 | .lt => 2 | .le => 3 | .gt => 4 | .ge => 5 | .ord => 6 | .unord => 7
def VCC.ofCode : Nat → Option VCC
  | 0 => some .eq | 1 => some .ne | 2 => some .lt | 3 => some .le | 4 => some .gt | 5 => some .ge
  | 6 => some .ord | 7 => some .unord | _ => none
def RedOp.code : RedOp → Nat
  | .sum => 0 | .max => 1 | .min => 2
def RedOp.ofCode : Nat → Option RedOp
  | 0 => some .sum | 1 => some .max | 2 => some .min | _ => none
def VliKind.code : VliKind → Nat
  | .i32 => 0 | .i16 => 1 | .hi => 2
def VliKind.ofCode : Nat → Option VliKind
  | 0 => some .i32 | 1 => some .i16 | 2 => some .hi | _ => none
def Aop.code : Aop → Nat
  | .addf => 0 | .addi => 1 | .maxf => 2 | .minf => 3 | .xchg => 4
def Aop.ofCode : Nat → Option Aop
  | 0 => some .addf | 1 => some .addi | 2 => some .maxf | 3 => some .minf | 4 => some .xchg | _ => none
def FKind.code : FKind → Nat
  | .eng => 0 | .pub => 1 | .host => 2 | .rem => 3
def FKind.ofCode : Nat → Option FKind
  | 0 => some .eng | 1 => some .pub | 2 => some .host | 3 => some .rem | _ => none
def FScope.code : FScope → Nat
  | .task => 0 | .team => 1 | .die => 2 | .module => 3 | .group => 4 | .system => 5
def FScope.ofCode : Nat → Option FScope
  | 0 => some .task | 1 => some .team | 2 => some .die | 3 => some .module | 4 => some .group | 5 => some .system
  | _ => none

/-- A decoded instruction, or the item of R36 it breaks. -/
abbrev Dec := Except Bad Instr

/-- The field is zero, or the bits are refused (R36 item 2). -/
def zeroed (z : Nat) (d : Dec) : Dec := if z = 0 then d else .error .reserved

/-- The code is defined, or the bits are refused (R36 item 1). -/
def defined {α : Type} (o : Option α) (k : α → Dec) : Dec :=
  match o with
  | some a => k a
  | none => .error .undefined

/-- The instruction keeps its operand limits, or the bits are refused (R36 item 8). -/
def limited (d : Dec) : Dec :=
  match d with
  | .ok i => if i.wf then .ok i else .error .limit
  | .error e => .error e

/-! ### S slots (R45 to R47) -/

/-- The three-register forms of opcode 0x01, by FN (R47). -/
def decALU (fn : Nat) (p : Fin 16) (d a : Fin 32) (lb b : Nat) : Dec :=
  let s := ssrc lb b
  match fn with
  | 0x00 => .ok (.add p d a s)
  | 0x01 => .ok (.sub p d a s)
  | 0x02 => .ok (.and p d a s)
  | 0x03 => .ok (.or p d a s)
  | 0x04 => .ok (.xor p d a s)
  | 0x05 => .ok (.andn p d a s)
  | 0x06 => .ok (.shl p d a s)
  | 0x07 => .ok (.shr p d a s)
  | 0x08 => .ok (.sar p d a s)
  | 0x09 => .ok (.min p d a s)
  | 0x0A => .ok (.max p d a s)
  | 0x0B => .ok (.minu p d a s)
  | 0x0C => .ok (.maxu p d a s)
  | 0x0D => .ok (.mul p d a s)
  | 0x0E => .ok (.mulh p d a s)
  | 0x0F => .ok (.mulhu p d a s)
  | 0x10 => zeroed (lb + b) (.ok (.clz p d a))
  | 0x11 => zeroed (lb + b) (.ok (.ctz p d a))
  | 0x12 => zeroed (lb + b) (.ok (.popc p d a))
  | 0x13 => zeroed lb (defined (SW.ofCode b) fun w => .ok (.sext p d a w))
  | 0x14 => zeroed lb (defined (SW.ofCode b) fun w => .ok (.zext p d a w))
  | 0x15 => .ok (.addsh1 p d a s)
  | 0x16 => .ok (.addsh2 p d a s)
  | 0x17 => .ok (.addsh3 p d a s)
  | 0x18 => .ok (.addsh4 p d a s)
  | _ => .error .undefined

/-- Opcodes 0x01 to 0x15: arithmetic, immediates, compares, predicates. -/
def decSArith (op : Nat) (p : Fin 16) (w : Nat) : Dec :=
  match unpack [6, 1, 5, 5, 5] w, unpack [11, 1, 5, 5] w, unpack [16, 1, 5] w with
  | [fn, lb, b, a, d], [imm, la, a', _], [imm16, z, _] =>
    let rd : Fin 32 := Fin.ofNat 32 d
    let ra : Fin 32 := Fin.ofNat 32 a
    let sa := ssrc la a'
    let i11 := BitVec.ofNat 11 imm
    let sh : Fin 64 := Fin.ofNat 64 imm
    let i16 := BitVec.ofNat 16 imm16
    match op with
    | 0x01 => decALU fn p rd ra lb b
    | 0x02 => .ok (.addi p rd sa i11)
    | 0x03 => .ok (.andi p rd sa i11)
    | 0x04 => .ok (.ori p rd sa i11)
    | 0x05 => .ok (.xori p rd sa i11)
    | 0x06 => zeroed (imm / 64) (.ok (.shli p rd sa sh))
    | 0x07 => zeroed (imm / 64) (.ok (.shri p rd sa sh))
    | 0x08 => zeroed (imm / 64) (.ok (.sari p rd sa sh))
    | 0x09 => zeroed z (.ok (.li p rd i16))
    | 0x0C => zeroed z (.ok (.lch p rd 0 i16))
    | 0x0D => zeroed z (.ok (.lch p rd 1 i16))
    | 0x0E => zeroed z (.ok (.lch p rd 2 i16))
    | 0x0F => zeroed z (.ok (.lch p rd 3 i16))
    | _ => .error .undefined
  | _, _, _ => .error .undefined

/-- Opcodes 0x10 to 0x15: compares and predicate logic. -/
def decSPred (op : Nat) (p : Fin 16) (w : Nat) : Dec :=
  match unpack [3, 4, 1, 5, 5, 4] w, unpack [8, 4, 1, 5, 4] w, unpack [10, 4, 4, 4] w with
  | [z3, cc, lb, b, a, q], [imm, cc', la, a', _], [z10, pb, pa, _] =>
    let qd : Fin 16 := Fin.ofNat 16 q
    match op with
    | 0x10 => zeroed z3 (defined (CC.ofCode cc) fun c => .ok (.cmp p qd (Fin.ofNat 32 a) (ssrc lb b) c))
    | 0x11 => defined (CC.ofCode cc') fun c => .ok (.cmpi p qd (ssrc la a') c (BitVec.ofNat 8 imm))
    | 0x12 => zeroed z10 (.ok (.pand p qd (Fin.ofNat 16 pa) (Fin.ofNat 16 pb)))
    | 0x13 => zeroed z10 (.ok (.por p qd (Fin.ofNat 16 pa) (Fin.ofNat 16 pb)))
    | 0x14 => zeroed z10 (.ok (.pxor p qd (Fin.ofNat 16 pa) (Fin.ofNat 16 pb)))
    | 0x15 => zeroed (z10 + pb) (.ok (.pnot p qd (Fin.ofNat 16 pa)))
    | _ => .error .undefined
  | _, _, _ => .error .undefined

/-- Opcodes 0x18 to 0x1F: branches and the task's end (R46). -/
def decSBranch (op : Nat) (p : Fin 16) (w : Nat) : Dec :=
  match unpack [22] w, unpack [18, 4] w, unpack [12, 5, 5] w, unpack [16, 6] w with
  | [o22], [o18, ps], [z12, a, z5], [i16, z6] =>
    match op with
    | 0x18 => .ok (.br p (BitVec.ofNat 22 o22))
    | 0x19 => .ok (.brp p (Fin.ofNat 16 ps) (BitVec.ofNat 18 o18))
    | 0x1A => zeroed (z12 + z5) (.ok (.jmp p (Fin.ofNat 32 a)))
    | 0x1B => .ok (.call p (BitVec.ofNat 22 o22))
    | 0x1C => zeroed o22 (.ok (.ret p))
    | 0x1D => zeroed o22 (.ok (.exit p))
    | 0x1E => zeroed z6 (.ok (.trap p (BitVec.ofNat 16 i16)))
    | 0x1F => zeroed o22 (.ok (.yield p))
    | _ => .error .undefined
  | _, _, _, _ => .error .undefined

/-- Opcodes 0x20 to 0x28: loops, dispenser, flags, barriers, alignment (R46). -/
def decSSeq (op : Nat) (p : Fin 16) (w : Nat) : Dec :=
  match unpack [9, 5, 5, 3] w, unpack [6, 13, 3] w, unpack [16, 6] w, unpack [18, 4] w with
  | [st, xs, xc, lv], [sti, cnt, lvi], [z16, vd], [z18, ev] =>
    match op, unpack [13, 5] w, unpack [20, 2] w, unpack [12, 5, 5] w with
    | 0x20, _, _, _ => .ok (.loop p (Fin.ofNat 8 lv) (Fin.ofNat 32 xc) (Fin.ofNat 32 xs) (BitVec.ofNat 9 st))
    | 0x21, _, _, _ => .ok (.loopi p (Fin.ofNat 8 lvi) (BitVec.ofNat 13 cnt) (BitVec.ofNat 6 sti))
    | 0x22, _, _, _ => zeroed z16 (.ok (.ntreq p (Fin.ofNat 64 vd)))
    | 0x23, _, _, _ => zeroed z18 (.ok (.wfe p (Fin.ofNat 16 ev)))
    | 0x24, [z13, a], _, _ => zeroed z13 (.ok (.sev p (Fin.ofNat 16 ev) (Fin.ofNat 32 a)))
    | 0x25, _, [z20, b], _ => zeroed z20 (.ok (.bar p (Fin.ofNat 4 b)))
    | 0x26, _, _, [z12, a, z5] => zeroed (z12 + z5) (.ok (.align p (Fin.ofNat 32 a)))
    | 0x27, _, _, [z12, a, z5] => zeroed (z12 + z5) (.ok (.tenter p (Fin.ofNat 32 a)))
    | 0x28, _, _, [z12, a, z5] => zeroed (z12 + a + z5) (.ok (.texit p))
    | _, _, _, _ => .error .undefined
  | _, _, _, _ => .error .undefined

/-- Opcodes 0x29 to 0x31: control registers, statistics, scalar memory (R46). -/
def decSMem (op : Nat) (p : Fin 16) (w : Nat) : Dec :=
  match unpack [12, 5, 5] w, unpack [17, 5] w, unpack [11, 1, 5, 5] w with
  | [cr, a, d], [z17, _], [imm, la, a', _] =>
    match op with
    | 0x29 => zeroed a (.ok (.rdc p (Fin.ofNat 32 d) (BitVec.ofNat 12 cr)))
    | 0x2A => zeroed d (.ok (.wrc p (BitVec.ofNat 12 cr) (Fin.ofNat 32 a)))
    | 0x2B => zeroed z17 (.ok (.stqp p (Fin.ofNat 32 d)))
    | 0x30 => .ok (.lds p (Fin.ofNat 32 d) (ssrc la a') (BitVec.ofNat 11 imm))
    | 0x31 => .ok (.sts p (Fin.ofNat 32 d) (ssrc la a') (BitVec.ofNat 11 imm))
    | _ => .error .undefined
  | _, _, _ => .error .undefined

/-- An S slot of 32 bits: OP at [31:26], PR at [25:22] (R45). -/
def decodeS (w : Nat) : Dec :=
  let op := bits w 31 26
  let p : Fin 16 := Fin.ofNat 16 (bits w 25 22)
  if op = 0 then zeroed (bits w 25 0) (.ok .sNop)
  else limited <|
    if op < 0x10 then decSArith op p w
    else if op < 0x18 then decSPred op p w
    else if op < 0x20 then decSBranch op p w
    else if op < 0x29 then decSSeq op p w
    else decSMem op p w

/-! ### XB slot (R48) -/

/-- The XB slot of 16 bits. -/
def decodeXB (w : Nat) : Dec :=
  match bits w 15 13, unpack [2, 5, 6] w, unpack [2, 6, 5] w, unpack [6, 4, 3] w, unpack [6, 3, 4] w with
  | 0, _, _, _, _ => zeroed (bits w 12 0) (.ok .xbNop)
  | 1, [z, xa, vd], _, _, _ => zeroed z (.ok (.xsv (Fin.ofNat 64 vd) (Fin.ofNat 32 xa)))
  | 2, _, [z, va, xd], _, _ => zeroed z (.ok (.xvs (Fin.ofNat 32 xd) (Fin.ofNat 64 va)))
  | 3, _, _, [z, pa, md], _ => zeroed z (limited (.ok (.xpv (Fin.ofNat 8 md) (Fin.ofNat 16 pa))))
  | 4, _, _, _, [z, ma, pd] => zeroed z (limited (.ok (.xvp (Fin.ofNat 16 pd) (Fin.ofNat 8 ma))))
  | _, _, _, _, _ => .error .undefined

/-! ### V slots (R49, R50) -/

/-- SK by bits: 1, 3 and 5 pop va, 2 and 3 broadcast vb, 4 and 5 push vd (R49). -/
def skA (sk : Nat) : Bool := sk = 1 ∨ sk = 3 ∨ sk = 5
def skB (sk : Nat) : Bool := sk = 2 ∨ sk = 3
def skD (sk : Nat) : Bool := sk = 4 ∨ sk = 5

def VSrc.regNum : VSrc → Nat
  | .v n => n.val
  | .z n => n.val
  | .bcast => 0
def VDst.regNum : VDst → Nat
  | .v n => n.val
  | .z n => n.val
def MSrc.regNum : MSrc → Nat
  | .v n => n.val
  | .z n => n.val
def VSrc.isZ : VSrc → Bool
  | .z _ => true
  | _ => false
def VSrc.isBcast : VSrc → Bool
  | .bcast => true
  | _ => false
def VDst.isZ : VDst → Bool
  | .z _ => true
  | .v _ => false
def MSrc.isZ : MSrc → Bool
  | .z _ => true
  | .v _ => false

/-- The SK code of a form's operands (R49). -/
def skOf (d : VDst) (a b : VSrc) : Nat :=
  match d.isZ, a.isZ, b.isBcast with
  | false, false, false => 0
  | false, true, false => 1
  | false, false, true => 2
  | false, true, true => 3
  | true, false, _ => 4
  | true, true, _ => 5

/-- The raw fields of a V slot. -/
structure VRaw where
  h : VHdr
  vd : Nat
  va : Nat
  vb : Nat
  vc : Nat
  sk : Nat
  mod : Nat
deriving DecidableEq, Repr

/-- A stream field has zero upper bits (R43, R36 item 8). -/
def vsrcA (r : VRaw) : Except Bad VSrc :=
  if skA r.sk then (if r.va < 8 then .ok (.z (Fin.ofNat 8 r.va)) else .error .limit) else .ok (.v (Fin.ofNat 64 r.va))
/-- The vb field is zero under the broadcast operand (R49). -/
def vsrcB (r : VRaw) : Except Bad VSrc :=
  if skB r.sk then (if r.vb = 0 then .ok .bcast else .error .reserved) else .ok (.v (Fin.ofNat 64 r.vb))
def vdstD (r : VRaw) : Except Bad VDst :=
  if skD r.sk then (if r.vd < 8 then .ok (.z (Fin.ofNat 8 r.vd)) else .error .limit) else .ok (.v (Fin.ofNat 64 r.vd))

/-- Which of va, vb and vd the opcode makes vector operands: SK may turn only those into streams or broadcasts (R124). -/
def skLegal (a b d : Bool) (sk : Nat) : Bool :=
  sk < 6 && (!skA sk || a) && (!skB sk || b) && (!skD sk || d)

/-- A form with sources va and vb and a vector destination. -/
def form2 (r : VRaw) (k : VDst → VSrc → VSrc → Dec) : Dec :=
  if skLegal true true true r.sk then
    match vdstD r, vsrcA r, vsrcB r with
    | .ok d, .ok a, .ok b => k d a b
    | .error e, _, _ => .error e
    | _, .error e, _ => .error e
    | _, _, .error e => .error e
  else .error .undefined
/-- A form with the one source va and a vector destination. -/
def form1 (r : VRaw) (k : VDst → VSrc → Dec) : Dec :=
  if skLegal true false true r.sk then
    match vdstD r, vsrcA r with
    | .ok d, .ok a => k d a
    | .error e, _ => .error e
    | _, .error e => .error e
  else .error .undefined
/-- A form with no vector source. -/
def form0 (r : VRaw) (k : VDst → Dec) : Dec :=
  if skLegal false false true r.sk then
    match vdstD r with
    | .ok d => k d
    | .error e => .error e
  else .error .undefined

/-- Floating: type in MOD[5:4], MOD[3:0] zero (R49). -/
def modF (r : VRaw) (k : FTy → Dec) : Dec := defined (FTy.ofCode (r.mod / 16)) fun t => zeroed (r.mod % 16) (k t)
/-- Integer: width in MOD[5:4], MOD[3:0] zero (R49, R128). -/
def modI (r : VRaw) (k : IW → Dec) : Dec := defined (IW.ofCode (r.mod / 16)) fun t => zeroed (r.mod % 16) (k t)
/-- Integer with signedness in MOD[3], MOD[2:0] zero (R49). -/
def modU (r : VRaw) (k : IW → Bool → Dec) : Dec :=
  defined (IW.ofCode (r.mod / 16)) fun t => zeroed (r.mod % 8) (k t (r.mod / 8 % 2 = 1))
/-- The 8-bit immediate at [16:9], with bits [20:17] zero (R49). -/
def imm8 (r : VRaw) (k : Nat → Dec) : Dec := zeroed (r.vb / 4) (k (r.vc + 64 * (r.vb % 4)))
/-- A mask field in the low bits of a 6-bit field (R43). -/
def maskF (n : Nat) (k : Fin 8 → Dec) : Dec := if n < 8 then k (Fin.ofNat 8 n) else .error .limit

/-- Floating arithmetic, opcodes 0x01 to 0x11. -/
def decVFloat (op : Nat) (r : VRaw) : Dec :=
  let h := r.h
  let c : Fin 64 := Fin.ofNat 64 r.vc
  match op with
  | 0x01 => modF r fun t => form2 r fun d a b => .ok (.vadd h t d a b)
  | 0x02 => modF r fun t => form2 r fun d a b => .ok (.vsub h t d a b)
  | 0x03 => modF r fun t => form2 r fun d a b => .ok (.vmul h t d a b)
  | 0x04 => modF r fun t => form2 r fun d a b => .ok (.vfma h t d a b c)
  | 0x05 => modF r fun t => form2 r fun d a b => .ok (.vfms h t d a b c)
  | 0x06 => modF r fun t => form2 r fun d a b => .ok (.vfnma h t d a b c)
  | 0x07 => modF r fun t => form2 r fun d a b => .ok (.vmin h t d a b)
  | 0x08 => modF r fun t => form2 r fun d a b => .ok (.vmax h t d a b)
  | 0x09 => modF r fun t => form1 r fun d a => .ok (.vabs h t d a)
  | 0x0A => modF r fun t => form1 r fun d a => .ok (.vneg h t d a)
  | 0x0B => modF r fun t => form2 r fun d a b => .ok (.vcps h t d a b)
  | 0x0C => modF r fun t => form1 r fun d a => .ok (.vrcp h t d a)
  | 0x0D => modF r fun t => form1 r fun d a => .ok (.vrsq h t d a)
  | 0x0E => modF r fun t => form1 r fun d a => .ok (.vsqrt h t d a)
  | 0x0F => modF r fun t => form1 r fun d a => .ok (.vexp2 h t d a)
  | 0x10 => modF r fun t => form1 r fun d a => .ok (.vlog2 h t d a)
  | 0x11 => modF r fun t => form1 r fun d a => .ok (.vtanh h t d a)
  | _ => .error .undefined

/-- Integer arithmetic, opcodes 0x20 to 0x2B. -/
def decVInt (op : Nat) (r : VRaw) : Dec :=
  let h := r.h
  match op with
  | 0x20 => modI r fun w => form2 r fun d a b => .ok (.viadd h w d a b)
  | 0x21 => modI r fun w => form2 r fun d a b => .ok (.visub h w d a b)
  | 0x22 => modI r fun w => form2 r fun d a b => .ok (.vimul h w d a b)
  | 0x23 => modI r fun w => form2 r fun d a b => .ok (.vimad h w d a b (Fin.ofNat 64 r.vc))
  | 0x24 => modU r fun w u => form2 r fun d a b => .ok (.vimin h w u d a b)
  | 0x25 => modU r fun w u => form2 r fun d a b => .ok (.vimax h w u d a b)
  | 0x26 => zeroed r.mod (form2 r fun d a b => .ok (.vand h d a b))
  | 0x27 => zeroed r.mod (form2 r fun d a b => .ok (.vor h d a b))
  | 0x28 => zeroed r.mod (form2 r fun d a b => .ok (.vxor h d a b))
  | 0x29 => modI r fun w => form2 r fun d a b => .ok (.vshl h w d a b)
  | 0x2A => modI r fun w => form2 r fun d a b => .ok (.vshr h w d a b)
  | 0x2B => modI r fun w => form2 r fun d a b => .ok (.vsar h w d a b)
  | _ => .error .undefined

/-- VCMP's sources: va and vb, and a mask destination (R129). -/
def formCmp (r : VRaw) (k : Fin 8 → VSrc → VSrc → Dec) : Dec :=
  if skLegal true true false r.sk then
    maskF r.vd fun md =>
      match vsrcA r, vsrcB r with
      | .ok a, .ok b => k md a b
      | .error e, _ => .error e
      | _, .error e => .error e
  else .error .undefined

/-- PART's source, with its plain register destination: no stream can be pushed (R136; DESIGN CHOICE, log entry 99). -/
def formPart (r : VRaw) (k : VSrc → Dec) : Dec :=
  if skLegal true false false r.sk then
    match vsrcA r with
    | .ok a => k a
    | .error e => .error e
  else .error .undefined

/-- Compare, select, move, permute and convert, opcodes 0x30 to 0x45. VROT and VLI have no unsigned form (R130, R131; DESIGN
CHOICE, log entry 99). -/
def decVMove (op : Nat) (r : VRaw) : Dec :=
  let h := r.h
  match op with
  | 0x30 => defined (CmpTy.ofCode (r.mod / 16)) fun t => defined (VCC.ofCode (r.mod % 16)) fun cc =>
      formCmp r fun md a b => .ok (.vcmp h t cc md a b)
  | 0x31 => zeroed r.mod (maskF r.vc fun mc => form2 r fun d a b => .ok (.vsel h d a b mc))
  | 0x32 => zeroed r.mod (form1 r fun d a => .ok (.vmov h d a))
  | 0x33 => modI r fun w => imm8 r fun n => form1 r fun d a => .ok (.vsplat h w d a (Fin.ofNat 256 n))
  | 0x34 => defined (VliKind.ofCode (r.mod / 16)) fun k => zeroed (r.mod % 16 + r.va / 16) (form0 r fun d =>
      .ok (.vli h k d (BitVec.ofNat 16 (r.vc + 64 * r.vb + 4096 * (r.va % 16)))))
  | 0x35 => modI r fun w => form0 r fun d => .ok (.viota h w d)
  | 0x40 => modI r fun w => form2 r fun d a b => .ok (.vperm h w d a b)
  | 0x41 => modI r fun w => imm8 r fun n => form1 r fun d a => .ok (.vrot h w d a (Fin.ofNat 256 n))
  | 0x42 => modU r fun w u => form2 r fun d a b => .ok (.vpack h w u d a b)
  | 0x43 => modU r fun w u => form1 r fun d a => .ok (.vunpk h w u d a)
  | 0x44 => defined (Fmt.ofCode r.vb) fun f => defined (Fmt.ofCode r.vc) fun g => defined (Rm.ofCode (r.mod % 4)) fun rm =>
      zeroed (r.mod / 4) (form1 r fun d a => .ok (.vcvt h d a f g rm))
  | 0x45 => modF r fun t => imm8 r fun n => form1 r fun d a => .ok (.vscl h t d a (BitVec.ofNat 8 n))
  | _ => .error .undefined

/-- Reductions, partition, random numbers and mask operations, opcodes 0x50 to 0x73. -/
def decVRed (op : Nat) (r : VRaw) : Dec :=
  let h := r.h
  match op with
  | 0x50 => defined (FTy.ofCode (r.mod / 16)) fun t => defined (RedOp.ofCode (r.mod % 16)) fun o =>
      form1 r fun d a => .ok (.vred h t o d a)
  | 0x51 => defined (FTy.ofCode (r.mod / 16)) fun t => defined (RedOp.ofCode (r.mod % 16)) fun o =>
      form1 r fun d a => .ok (.vscan h t o d a)
  | 0x60 => zeroed (r.mod / 4) (formPart r fun a => .ok (.part h (Fin.ofNat 64 r.vd) a (Fin.ofNat 4 r.mod)))
  | 0x61 => zeroed (r.mod / 4) (form2 r fun d a b => .ok (.vrng h d a b (Fin.ofNat 4 r.mod)))
  | 0x62 => modF r fun t => imm8 r fun n => form1 r fun d a =>
      .ok (.vdrop h t d a (Fin.ofNat 4 (n / 64)) (Fin.ofNat 64 n))
  | 0x70 => zeroed (r.vc + r.sk + r.mod) (maskF r.vd fun d => maskF r.va fun a => maskF r.vb fun b => .ok (.mand h d a b))
  | 0x71 => zeroed (r.vc + r.sk + r.mod) (maskF r.vd fun d => maskF r.va fun a => maskF r.vb fun b => .ok (.mor h d a b))
  | 0x72 => zeroed (r.vb + r.vc + r.sk + r.mod) (maskF r.vd fun d => maskF r.va fun a => .ok (.mnot h d a))
  | 0x73 => zeroed (r.vb + r.vc + r.sk + r.mod) (maskF r.va fun a => .ok (.mcnt h (Fin.ofNat 64 r.vd) a))
  | _ => .error .undefined

/-- A V slot of 48 bits (R49). Fields an operation does not use may hold anything. -/
def decodeV (w : Nat) : Dec :=
  match unpack [6, 3, 6, 6, 6, 6, 3, 4] w with
  | [mod, sk, vc, vb, va, vd, mk, pr] =>
    let op := bits w 47 40
    let r : VRaw := { h := { pr := Fin.ofNat 16 pr, msk := Fin.ofNat 8 mk }, vd, va, vb, vc, sk, mod }
    if op = 0 then zeroed (bits w 39 0) (.ok .vNop)
    else limited <|
      if op < 0x20 then decVFloat op r
      else if op < 0x30 then decVInt op r
      else if op < 0x50 then decVMove op r
      else decVRed op r
  | _ => .error .undefined

/-! ### M slot (R51) -/

/-- S makes the field name a stream, with zero upper bits (R51, R43). -/
def msrc (s n : Nat) (k : MSrc → Dec) : Dec :=
  if s = 1 then (if n < 8 then k (.z (Fin.ofNat 8 n)) else .error .limit) else k (.v (Fin.ofNat 64 n))

/-- The M slot of 32 bits. -/
def decodeM (w : Nat) : Dec :=
  let p : Fin 16 := Fin.ofNat 16 (bits w 26 23)
  match unpack [9, 6, 1, 7] w, unpack [4, 6, 1, 1, 1, 10] w, unpack [3, 2, 6, 2, 10] w, unpack [10, 3, 10] w with
  | [z9, va, s, k], [z4, va', s', cb, md, a], [z3, rm, fmt, q, a2], [z10, n, a3] =>
    let row : Fin 1024 := Fin.ofNat 1024 a
    match bits w 31 27, unpack [9, 1, 1, 6, 6] w, unpack [14, 2, 7] w, unpack [17, 6] w with
    | 0, _, _, _ => zeroed (bits w 26 0) (.ok .mNop)
    | 1, _, _, _ => zeroed z9 (msrc s va fun x => .ok (.mwldN p (Fin.ofNat 128 k) x))
    | 2, _, _, _ => zeroed z9 (msrc s va fun x => .ok (.mwldW p (Fin.ofNat 128 k) x))
    | 3, _, _, [z17, f] => zeroed z17 (defined (Fmt.ofCode f) fun f => limited (.ok (.mafmt p f)))
    | 4, _, _, _ => zeroed z4 (msrc s' va' fun x => .ok (.mbeat p row (md = 1) (cb = 1) x))
    | 5, _, _, _ => zeroed z4 (msrc s' va' fun x => .ok (.mbeatt p row (md = 1) (cb = 1) x))
    | 6, _, _, _ => zeroed z4 (msrc s' va' fun x => limited (.ok (.mbeat2 p row (md = 1) (cb = 1) x)))
    | 7, _, _, _ => zeroed z3 (defined (Fmt.ofCode fmt) fun f => defined (Rm.ofCode rm) fun m =>
        limited (.ok (.mdrn p (Fin.ofNat 1024 a2) (Fin.ofNat 4 q) f m)))
    | 8, _, _, _ => zeroed z10 (limited (.ok (.mclr p (Fin.ofNat 1024 a3) (Fin.ofNat 8 n))))
    | 9, [z, sb, sa, vb, va], _, _ => zeroed z (msrc sa va fun x => msrc sb vb fun y => limited (.ok (.mgbeat p x y)))
    | 10, _, [z, q, r], _ => zeroed z (.ok (.mgdrn p (Fin.ofNat 128 r) (Fin.ofNat 4 q)))
    | 11, _, _, _ => zeroed (bits w 22 0) (.ok (.mgclr p))
    | _, _, _, _ => .error .undefined
  | _, _, _, _ => .error .undefined

/-! ### LS slot (R52, R53) -/

/-- ZS makes vr name a stream (R52). -/
def zdst (s n : Nat) (k : VDst → Dec) : Dec :=
  if s = 1 then (if n < 8 then k (.z (Fin.ofNat 8 n)) else .error .limit) else k (.v (Fin.ofNat 64 n))

/-- The LF forms: LDV, STV, LDB, LDG, STG. -/
def decLF (op : Nat) (h : VHdr) (w : Nat) : Dec :=
  match unpack [6, 1, 1, 16, 5, 6] w with
  | [z6, zs, pi, off, xa, vr] =>
    let x : Fin 32 := Fin.ofNat 32 xa
    let o := BitVec.ofNat 16 off
    let b : Bool := pi = 1
    zeroed z6 <|
      match op with
      | 1 => zdst zs vr fun d => .ok (.ldv h d x o b)
      | 2 => msrc zs vr fun s => .ok (.stv h s x o b)
      | 9 => zdst zs vr fun d => .ok (.ldb h d x o b)
      | 10 => zeroed zs (.ok (.ldg h (Fin.ofNat 64 vr) x o b))
      | 11 => zeroed zs (.ok (.stg h (Fin.ofNat 64 vr) x o b))
      | _ => .error .undefined
  | _ => .error .undefined

/-- The LX forms: LDVS, STVS. -/
def decLX (op : Nat) (h : VHdr) (w : Nat) : Dec :=
  match unpack [4, 2, 1, 1, 11, 5, 5, 6] w with
  | [z4, wc, zs, pi, off, xs, xa, vr] =>
    let x : Fin 32 := Fin.ofNat 32 xa
    let y : Fin 32 := Fin.ofNat 32 xs
    let o := BitVec.ofNat 11 off
    let b : Bool := pi = 1
    zeroed z4 (defined (IW.ofCode wc) fun iw =>
      match op with
      | 3 => zdst zs vr fun d => .ok (.ldvs h iw d x y o b)
      | 4 => msrc zs vr fun s => .ok (.stvs h iw s x y o b)
      | _ => .error .undefined)
  | _ => .error .undefined

/-- The LG forms: GATH, SCAT, SCATA, ATOMV. -/
def decLG (op : Nat) (h : VHdr) (w : Nat) : Dec :=
  match unpack [13, 2, 3, 6, 5, 6] w with
  | [z13, wc, aop, vi, xa, vr] =>
    let x : Fin 32 := Fin.ofNat 32 xa
    let r : Fin 64 := Fin.ofNat 64 vr
    let i : Fin 64 := Fin.ofNat 64 vi
    zeroed z13 <|
      match op with
      | 5 => zeroed aop (defined (IW.ofCode wc) fun iw => .ok (.gath h iw r x i))
      | 6 => zeroed aop (defined (IW.ofCode wc) fun iw => .ok (.scat h iw r x i))
      | 7 => zeroed aop (if wc = 0 then .ok (.scata h r x i) else .error .undefined)
      | 8 => defined (Aop.ofCode aop) fun ao => if wc = 0 then .ok (.atomv h ao r x i) else .error .undefined
      | _ => .error .undefined
  | _ => .error .undefined

/-- The LB and LQ forms: SBIND, SUNB, QPOP, QST. -/
def decLQ (op : Nat) (h : VHdr) (w : Nat) : Dec :=
  match unpack [8, 16, 5, 3, 3] w, unpack [27, 2, 6] w, unpack [7, 1, 16, 5, 4, 2] w with
  | [z8, off, xa, z3, z], [z27, q, vd], [z7, pi, off', xa', z4, q'] =>
    match op with
    | 12 => zeroed (z8 + z3) (.ok (.sbind h (Fin.ofNat 8 z) (Fin.ofNat 32 xa) (BitVec.ofNat 16 off)))
    | 13 => zeroed (z8 + off + xa + z3) (.ok (.sunb h (Fin.ofNat 8 z)))
    | 14 => zeroed z27 (.ok (.qpop h (Fin.ofNat 64 vd) (Fin.ofNat 4 q)))
    | 15 => zeroed (z7 + z4) (.ok (.qst h (Fin.ofNat 4 q') (Fin.ofNat 32 xa') (BitVec.ofNat 16 off') (pi = 1)))
    | _ => .error .undefined
  | _, _, _ => .error .undefined

/-- The LS slot of 48 bits: OP [47:42], PR [41:38], MK [37:35] (R52). -/
def decodeLS (w : Nat) : Dec :=
  let op := bits w 47 42
  let h : VHdr := { pr := Fin.ofNat 16 (bits w 41 38), msk := Fin.ofNat 8 (bits w 37 35) }
  if op = 0 then zeroed (bits w 41 0) (.ok .lsNop)
  else if op = 3 ∨ op = 4 then decLX op h w
  else if 5 ≤ op ∧ op ≤ 8 then decLG op h w
  else if 12 ≤ op then decLQ op h w
  else decLF op h w

/-! ### FB slot (R54, R55) -/

/-- DK with xd: a neighbour with xd zero, or the routed form; code 7 is reserved (R54). -/
def dkOf (dk xd : Nat) (k : Dk → Dec) : Dec :=
  if dk < 6 then zeroed xd (k (.link (Fin.ofNat 6 dk)))
  else if dk = 6 then k (.routed (Fin.ofNat 32 xd))
  else .error .undefined

/-- The FT forms: FSEND, FSENDA, FSENDQ, FRECV. -/
def decFT (op : Nat) (p : Fin 16) (w : Nat) : Dec :=
  match unpack [8, 16, 12, 5, 5, 5, 3] w, unpack [8, 16, 4, 8, 5, 5, 3, 2, 3] w with
  | [z8, st, cnt, xd, xr, xa, dk], [_, _, cntq, zq, _, _, zq', q, _] =>
    let s := BitVec.ofNat 16 st
    let n : Fin 4096 := Fin.ofNat 4096 cnt
    zeroed z8 <|
      match op with
      | 1 => dkOf dk xd fun d => .ok (.fsend p d (Fin.ofNat 32 xa) (Fin.ofNat 32 xr) n s)
      | 2 => dkOf dk xd fun d => .ok (.fsenda p d (Fin.ofNat 32 xa) (Fin.ofNat 32 xr) n s)
      | 3 => zeroed (zq + zq') (dkOf dk xd fun d => .ok (.fsendq p d (Fin.ofNat 4 q) (Fin.ofNat 32 xr) (Fin.ofNat 16 cntq) s))
      | 4 => zeroed (st + xd + xr + dk) (.ok (.frecv p (Fin.ofNat 32 xa) n))
      | _ => .error .undefined
  | _, _ => .error .undefined

/-- The FR forms: FLD, FST, FATOM. -/
def decFR (op : Nat) (p : Fin 16) (w : Nat) : Dec :=
  match unpack [40, 3, 5, 6] w with
  | [z40, aop, xa, vr] =>
    let v : Fin 64 := Fin.ofNat 64 vr
    let x : Fin 32 := Fin.ofNat 32 xa
    zeroed z40 <|
      match op with
      | 5 => zeroed aop (.ok (.fld p v x))
      | 6 => zeroed aop (.ok (.fst p v x))
      | 7 => defined (Aop.ofCode aop) fun a => .ok (.fatom p a v x)
      | _ => .error .undefined
  | _ => .error .undefined

/-- The FE forms (R55). -/
def decFE (op : Nat) (p : Fin 16) (w : Nat) : Dec :=
  match unpack [25, 6, 8, 5, 5, 5] w, unpack [8, 16, 25] w, unpack [23, 2, 6] w with
  | [z25, ext, cc, xc, xg, xa], [z8, st, z25'], [z23, stk, _] =>
    let h : FeHdr := { pr := p, xa := Fin.ofNat 32 xa, xg := Fin.ofNat 32 xg, xc := Fin.ofNat 32 xc, cc := Fin.ofNat 256 cc }
    let x : Fin 32 := Fin.ofNat 32 xa
    match op with
    | 8 => zeroed (z25 + ext) (.ok (.mcpy h))
    | 9 => zeroed z25 (.ok (.mbulk h (Fin.ofNat 64 ext)))
    | 10 => zeroed (z23 + cc + xc + xg + xa) (.ok (.mclose p (Fin.ofNat 4 stk) (Fin.ofNat 64 ext)))
    | 11 => zeroed (z25 + ext + cc + xc + xg) (.ok (.publ p x))
    | 12 => zeroed (z8 + z25') (.ok (.ttgo p x (BitVec.ofNat 16 st)))
    | 13 => zeroed (z25 + ext % 2) (.ok (.upd h (Fin.ofNat 32 (ext / 2))))
    | 14 => zeroed (z25 + ext) (.ok (.norm h))
    | 15 => zeroed (z25 + ext % 32) (.ok (.fars h (Fin.ofNat 2 (ext / 32))))
    | 16 => zeroed (z25 + ext % 32) (.ok (.farr h (Fin.ofNat 2 (ext / 32))))
    | _ => .error .undefined
  | _, _, _ => .error .undefined

/-- The FC, FF and FP forms: CWAIT, CINC, FENCE, PSEND, PRECV. -/
def decFC (op : Nat) (p : Fin 16) (w : Nat) : Dec :=
  match unpack [8, 16, 7, 8, 10, 5] w, unpack [48, 3, 3] w, unpack [8, 16, 15, 1, 6, 8] w with
  | [z8, imm, z7, cc, z10, xv], [z48, sc, kd], [z8', st, z15, g, vr, ch] =>
    match op with
    | 17 => zeroed (z8 + imm + z7 + z10) (.ok (.cwait p (Fin.ofNat 256 cc) (Fin.ofNat 32 xv)))
    | 18 => zeroed (z8 + z7 + z10 + xv) (.ok (.cinc p (Fin.ofNat 256 cc) (BitVec.ofNat 16 imm)))
    | 19 => zeroed z48 (defined (FKind.ofCode kd) fun k => defined (FScope.ofCode sc) fun s => limited (.ok (.fence p k s)))
    | 20 => zeroed (z8' + z15) (.ok (.psend p (Fin.ofNat 256 ch) (Fin.ofNat 64 vr) (g = 1) (BitVec.ofNat 16 st)))
    | 21 => zeroed (z8' + st + z15) (.ok (.precv p (Fin.ofNat 256 ch) (Fin.ofNat 64 vr) (g = 1)))
    | _ => .error .undefined
  | _, _, _ => .error .undefined

/-- The FB slot of 64 bits: OP [63:58], PR [57:54] (R54). -/
def decodeFB (w : Nat) : Dec :=
  let op := bits w 63 58
  let p : Fin 16 := Fin.ofNat 16 (bits w 57 54)
  if op = 0 then zeroed (bits w 57 0) (.ok .fbNop)
  else if op < 5 then decFT op p w
  else if op < 8 then decFR op p w
  else if op < 17 then decFE op p w
  else decFC op p w

/-! ### RP slot (R56) -/

/-- The RP slot of 32 bits: OP [31:28], PR [27:24]. -/
def decodeRP (w : Nat) : Dec :=
  let p : Fin 16 := Fin.ofNat 16 (bits w 27 24)
  match unpack [17, 1, 6] w, unpack [12, 12] w, unpack [20, 4] w with
  | [z17, f, v], [z12, n], [z20, n4] =>
    match bits w 31 28 with
    | 0 => zeroed (bits w 27 0) (.ok .rpNop)
    | 1 => zeroed z17 (.ok (.rpush p (Fin.ofNat 64 v) (f = 1)))
    | 2 => zeroed z17 (.ok (.rpop p (Fin.ofNat 64 v) (f = 1)))
    | 3 => zeroed z12 (limited (.ok (.rspill p (Fin.ofNat 4096 n))))
    | 4 => zeroed z12 (limited (.ok (.rfill p (Fin.ofNat 4096 n))))
    | 5 => zeroed z20 (limited (.ok (.rdrop p (Fin.ofNat 16 n4))))
    | 6 => zeroed z12 (.ok (.blkBegin p (Fin.ofNat 4096 n)))
    | 7 => zeroed z12 (.ok (.blkEnd p (Fin.ofNat 4096 n)))
    | 8 => zeroed z12 (.ok (.blkRev p (Fin.ofNat 4096 n)))
    | _ => .error .undefined
  | _, _, _ => .error .undefined

/-! ### The encoder -/

def encSR (fn : Nat) (p : Fin 16) (d a : Fin 32) (b : SSrc) : Nat :=
  pack [(6, fn), (1, b.flag), (5, b.num), (5, a.val), (5, d.val), (4, p.val), (6, 1)]
def encSI (op : Nat) (p : Fin 16) (d : Fin 32) (a : SSrc) (imm : Nat) : Nat :=
  pack [(11, imm), (1, a.flag), (5, a.num), (5, d.val), (4, p.val), (6, op)]
def encSL (op : Nat) (p : Fin 16) (d : Nat) (imm : BitVec 16) : Nat :=
  pack [(16, imm.toNat), (1, 0), (5, d), (4, p.val), (6, op)]
def encSQ (op : Nat) (p : Fin 16) (q a b : Nat) : Nat :=
  pack [(10, 0), (4, b), (4, a), (4, q), (4, p.val), (6, op)]
def encSB (op : Nat) (p : Fin 16) (body : Nat) : Nat := pack [(22, body), (4, p.val), (6, op)]
def encSA (op : Nat) (p : Fin 16) (a : Fin 32) : Nat := pack [(12, 0), (5, a.val), (5, 0), (4, p.val), (6, op)]

def encV (op : Nat) (h : VHdr) (vd va vb vc sk mod : Nat) : Nat :=
  pack [(6, mod), (3, sk), (6, vc), (6, vb), (6, va), (6, vd), (3, h.msk.val), (4, h.pr.val), (8, op)]
def encV2 (op : Nat) (h : VHdr) (mod : Nat) (d : VDst) (a b : VSrc) (vc : Nat) : Nat :=
  encV op h d.regNum a.regNum b.regNum vc (skOf d a b) mod
def encV1 (op : Nat) (h : VHdr) (mod : Nat) (d : VDst) (a : VSrc) (vb vc : Nat) : Nat :=
  encV op h d.regNum a.regNum vb vc (skOf d a (.v 0)) mod
def encV0 (op : Nat) (h : VHdr) (mod : Nat) (d : VDst) (va vb vc : Nat) : Nat :=
  encV op h d.regNum va vb vc (skOf d (.v 0) (.v 0)) mod

def encLF (op : Nat) (h : VHdr) (vr : Nat) (zs pi : Bool) (xa : Fin 32) (off : BitVec 16) : Nat :=
  pack [(6, 0), (1, bit zs), (1, bit pi), (16, off.toNat), (5, xa.val), (6, vr), (3, h.msk.val), (4, h.pr.val), (6, op)]
def encLX (op : Nat) (h : VHdr) (w : IW) (vr : Nat) (zs pi : Bool) (xa xs : Fin 32) (off : BitVec 11) : Nat :=
  pack [(4, 0), (2, w.code), (1, bit zs), (1, bit pi), (11, off.toNat), (5, xs.val), (5, xa.val), (6, vr), (3, h.msk.val),
    (4, h.pr.val), (6, op)]
def encLG (op : Nat) (h : VHdr) (w aop : Nat) (vr : Fin 64) (xa : Fin 32) (vi : Fin 64) : Nat :=
  pack [(13, 0), (2, w), (3, aop), (6, vi.val), (5, xa.val), (6, vr.val), (3, h.msk.val), (4, h.pr.val), (6, op)]

def Dk.code : Dk → Nat
  | .link n => n.val
  | .routed _ => 6
def Dk.xd : Dk → Nat
  | .link _ => 0
  | .routed n => n.val
def encFT (op : Nat) (p : Fin 16) (dk : Dk) (xa xr : Fin 32) (cnt : Nat) (st : BitVec 16) : Nat :=
  pack [(8, 0), (16, st.toNat), (12, cnt), (5, dk.xd), (5, xr.val), (5, xa.val), (3, dk.code), (4, p.val), (6, op)]
def encFR (op : Nat) (p : Fin 16) (aop : Nat) (vr : Fin 64) (xa : Fin 32) : Nat :=
  pack [(40, 0), (3, aop), (5, xa.val), (6, vr.val), (4, p.val), (6, op)]
def encFE (op : Nat) (h : FeHdr) (ext : Nat) : Nat :=
  pack [(25, 0), (6, ext), (8, h.cc.val), (5, h.xc.val), (5, h.xg.val), (5, h.xa.val), (4, h.pr.val), (6, op)]
def encRPn (op : Nat) (p : Fin 16) (n : Fin 4096) : Nat := pack [(12, 0), (12, n.val), (4, p.val), (4, op)]
def encRPv (op : Nat) (p : Fin 16) (v : Fin 64) (g : Bool) : Nat := pack [(17, 0), (1, bit g), (6, v.val), (4, p.val), (4, op)]
def encMB (op : Nat) (p : Fin 16) (a : Fin 1024) (set cb : Bool) (s : MSrc) : Nat :=
  pack [(4, 0), (6, s.regNum), (1, bit s.isZ), (1, bit cb), (1, bit set), (10, a.val), (4, p.val), (5, op)]
def encMW (op : Nat) (p : Fin 16) (k : Fin 128) (s : MSrc) : Nat :=
  pack [(9, 0), (6, s.regNum), (1, bit s.isZ), (7, k.val), (4, p.val), (5, op)]

/-- The word of an S-slot operation. -/
def encS : Instr → Option Nat
  | .sNop => some 0
  | .add p d a b => some (encSR 0x00 p d a b)
  | .sub p d a b => some (encSR 0x01 p d a b)
  | .and p d a b => some (encSR 0x02 p d a b)
  | .or p d a b => some (encSR 0x03 p d a b)
  | .xor p d a b => some (encSR 0x04 p d a b)
  | .andn p d a b => some (encSR 0x05 p d a b)
  | .shl p d a b => some (encSR 0x06 p d a b)
  | .shr p d a b => some (encSR 0x07 p d a b)
  | .sar p d a b => some (encSR 0x08 p d a b)
  | .min p d a b => some (encSR 0x09 p d a b)
  | .max p d a b => some (encSR 0x0A p d a b)
  | .minu p d a b => some (encSR 0x0B p d a b)
  | .maxu p d a b => some (encSR 0x0C p d a b)
  | .mul p d a b => some (encSR 0x0D p d a b)
  | .mulh p d a b => some (encSR 0x0E p d a b)
  | .mulhu p d a b => some (encSR 0x0F p d a b)
  | .clz p d a => some (encSR 0x10 p d a (.x 0))
  | .ctz p d a => some (encSR 0x11 p d a (.x 0))
  | .popc p d a => some (encSR 0x12 p d a (.x 0))
  | .sext p d a w => some (encSR 0x13 p d a (.x (Fin.ofNat 32 w.code)))
  | .zext p d a w => some (encSR 0x14 p d a (.x (Fin.ofNat 32 w.code)))
  | .addsh1 p d a b => some (encSR 0x15 p d a b)
  | .addsh2 p d a b => some (encSR 0x16 p d a b)
  | .addsh3 p d a b => some (encSR 0x17 p d a b)
  | .addsh4 p d a b => some (encSR 0x18 p d a b)
  | .addi p d a i => some (encSI 0x02 p d a i.toNat)
  | .andi p d a i => some (encSI 0x03 p d a i.toNat)
  | .ori p d a i => some (encSI 0x04 p d a i.toNat)
  | .xori p d a i => some (encSI 0x05 p d a i.toNat)
  | .shli p d a s => some (encSI 0x06 p d a s.val)
  | .shri p d a s => some (encSI 0x07 p d a s.val)
  | .sari p d a s => some (encSI 0x08 p d a s.val)
  | .li p d i => some (encSL 0x09 p d.val i)
  | .lch p d h i => some (encSL (0x0C + h.val) p d.val i)
  | .cmp p q a b c => some (pack [(3, 0), (4, c.code), (1, b.flag), (5, b.num), (5, a.val), (4, q.val), (4, p.val), (6, 0x10)])
  | .cmpi p q a c i => some (pack [(8, i.toNat), (4, c.code), (1, a.flag), (5, a.num), (4, q.val), (4, p.val), (6, 0x11)])
  | .pand p q a b => some (encSQ 0x12 p q.val a.val b.val)
  | .por p q a b => some (encSQ 0x13 p q.val a.val b.val)
  | .pxor p q a b => some (encSQ 0x14 p q.val a.val b.val)
  | .pnot p q a => some (encSQ 0x15 p q.val a.val 0)
  | .br p o => some (encSB 0x18 p o.toNat)
  | .brp p s o => some (pack [(18, o.toNat), (4, s.val), (4, p.val), (6, 0x19)])
  | .jmp p a => some (encSA 0x1A p a)
  | .call p o => some (encSB 0x1B p o.toNat)
  | .ret p => some (encSB 0x1C p 0)
  | .exit p => some (encSB 0x1D p 0)
  | .trap p i => some (pack [(16, i.toNat), (6, 0), (4, p.val), (6, 0x1E)])
  | .yield p => some (encSB 0x1F p 0)
  | .loop p lv c s t => some (pack [(9, t.toNat), (5, s.val), (5, c.val), (3, lv.val), (4, p.val), (6, 0x20)])
  | .loopi p lv n t => some (pack [(6, t.toNat), (13, n.toNat), (3, lv.val), (4, p.val), (6, 0x21)])
  | .ntreq p v => some (pack [(16, 0), (6, v.val), (4, p.val), (6, 0x22)])
  | .wfe p e => some (pack [(18, 0), (4, e.val), (4, p.val), (6, 0x23)])
  | .sev p e a => some (pack [(13, 0), (5, a.val), (4, e.val), (4, p.val), (6, 0x24)])
  | .bar p b => some (pack [(20, 0), (2, b.val), (4, p.val), (6, 0x25)])
  | .align p a => some (encSA 0x26 p a)
  | .tenter p a => some (encSA 0x27 p a)
  | .texit p => some (encSB 0x28 p 0)
  | .rdc p d c => some (pack [(12, c.toNat), (5, 0), (5, d.val), (4, p.val), (6, 0x29)])
  | .wrc p c a => some (pack [(12, c.toNat), (5, a.val), (5, 0), (4, p.val), (6, 0x2A)])
  | .stqp p d => some (pack [(17, 0), (5, d.val), (4, p.val), (6, 0x2B)])
  | .lds p d a i => some (encSI 0x30 p d a i.toNat)
  | .sts p s a i => some (encSI 0x31 p s a i.toNat)
  | _ => none

/-- The word of an XB-slot operation. -/
def encXB : Instr → Option Nat
  | .xbNop => some 0
  | .xsv vd xa => some (pack [(2, 0), (5, xa.val), (6, vd.val), (3, 1)])
  | .xvs xd va => some (pack [(2, 0), (6, va.val), (5, xd.val), (3, 2)])
  | .xpv md pa => some (pack [(6, 0), (4, pa.val), (3, md.val), (3, 3)])
  | .xvp pd ma => some (pack [(6, 0), (3, ma.val), (4, pd.val), (3, 4)])
  | _ => none

/-- The word of a V-slot operation, its unused fields zero. -/
def encVSlot : Instr → Option Nat
  | .vNop => some 0
  | .vadd h t d a b => some (encV2 0x01 h (16 * t.code) d a b 0)
  | .vsub h t d a b => some (encV2 0x02 h (16 * t.code) d a b 0)
  | .vmul h t d a b => some (encV2 0x03 h (16 * t.code) d a b 0)
  | .vfma h t d a b c => some (encV2 0x04 h (16 * t.code) d a b c.val)
  | .vfms h t d a b c => some (encV2 0x05 h (16 * t.code) d a b c.val)
  | .vfnma h t d a b c => some (encV2 0x06 h (16 * t.code) d a b c.val)
  | .vmin h t d a b => some (encV2 0x07 h (16 * t.code) d a b 0)
  | .vmax h t d a b => some (encV2 0x08 h (16 * t.code) d a b 0)
  | .vabs h t d a => some (encV1 0x09 h (16 * t.code) d a 0 0)
  | .vneg h t d a => some (encV1 0x0A h (16 * t.code) d a 0 0)
  | .vcps h t d a b => some (encV2 0x0B h (16 * t.code) d a b 0)
  | .vrcp h t d a => some (encV1 0x0C h (16 * t.code) d a 0 0)
  | .vrsq h t d a => some (encV1 0x0D h (16 * t.code) d a 0 0)
  | .vsqrt h t d a => some (encV1 0x0E h (16 * t.code) d a 0 0)
  | .vexp2 h t d a => some (encV1 0x0F h (16 * t.code) d a 0 0)
  | .vlog2 h t d a => some (encV1 0x10 h (16 * t.code) d a 0 0)
  | .vtanh h t d a => some (encV1 0x11 h (16 * t.code) d a 0 0)
  | .viadd h w d a b => some (encV2 0x20 h (16 * w.code) d a b 0)
  | .visub h w d a b => some (encV2 0x21 h (16 * w.code) d a b 0)
  | .vimul h w d a b => some (encV2 0x22 h (16 * w.code) d a b 0)
  | .vimad h w d a b c => some (encV2 0x23 h (16 * w.code) d a b c.val)
  | .vimin h w u d a b => some (encV2 0x24 h (16 * w.code + 8 * bit u) d a b 0)
  | .vimax h w u d a b => some (encV2 0x25 h (16 * w.code + 8 * bit u) d a b 0)
  | .vand h d a b => some (encV2 0x26 h 0 d a b 0)
  | .vor h d a b => some (encV2 0x27 h 0 d a b 0)
  | .vxor h d a b => some (encV2 0x28 h 0 d a b 0)
  | .vshl h w d a b => some (encV2 0x29 h (16 * w.code) d a b 0)
  | .vshr h w d a b => some (encV2 0x2A h (16 * w.code) d a b 0)
  | .vsar h w d a b => some (encV2 0x2B h (16 * w.code) d a b 0)
  | .vcmp h t cc md a b => some (encV 0x30 h md.val a.regNum b.regNum 0 (skOf (.v 0) a b) (16 * t.code + cc.code))
  | .vsel h d a b mc => some (encV2 0x31 h 0 d a b mc.val)
  | .vmov h d a => some (encV1 0x32 h 0 d a 0 0)
  | .vsplat h w d a n => some (encV1 0x33 h (16 * w.code) d a (n.val / 64) n.val)
  | .vli h k d i => some (encV0 0x34 h (16 * k.code) d (i.toNat / 4096) (i.toNat / 64) i.toNat)
  | .viota h w d => some (encV0 0x35 h (16 * w.code) d 0 0 0)
  | .vperm h w d a b => some (encV2 0x40 h (16 * w.code) d a b 0)
  | .vrot h w d a n => some (encV1 0x41 h (16 * w.code) d a (n.val / 64) n.val)
  | .vpack h w u d a b => some (encV2 0x42 h (16 * w.code + 8 * bit u) d a b 0)
  | .vunpk h w u d a => some (encV1 0x43 h (16 * w.code + 8 * bit u) d a 0 0)
  | .vcvt h d a f g rm => some (encV1 0x44 h rm.code d a f.code g.code)
  | .vscl h t d a s => some (encV1 0x45 h (16 * t.code) d a (s.toNat / 64) s.toNat)
  | .vred h t o d a => some (encV1 0x50 h (16 * t.code + o.code) d a 0 0)
  | .vscan h t o d a => some (encV1 0x51 h (16 * t.code + o.code) d a 0 0)
  | .part h d a n => some (encV 0x60 h d.val a.regNum 0 0 (skOf (.v 0) a (.v 0)) n.val)
  | .vrng h d a b n => some (encV2 0x61 h n.val d a b 0)
  | .vdrop h t d a k th => some (encV1 0x62 h (16 * t.code) d a k.val th.val)
  | .mand h d a b => some (encV 0x70 h d.val a.val b.val 0 0 0)
  | .mor h d a b => some (encV 0x71 h d.val a.val b.val 0 0 0)
  | .mnot h d a => some (encV 0x72 h d.val a.val 0 0 0 0)
  | .mcnt h d a => some (encV 0x73 h d.val a.val 0 0 0 0)
  | _ => none

/-- The word of an M-slot operation. -/
def encM : Instr → Option Nat
  | .mNop => some 0
  | .mwldN p k a => some (encMW 1 p k a)
  | .mwldW p k a => some (encMW 2 p k a)
  | .mafmt p f => some (pack [(17, 0), (6, f.code), (4, p.val), (5, 3)])
  | .mbeat p a s c v => some (encMB 4 p a s c v)
  | .mbeatt p a s c v => some (encMB 5 p a s c v)
  | .mbeat2 p a s c v => some (encMB 6 p a s c v)
  | .mdrn p a q f rm => some (pack [(3, 0), (2, rm.code), (6, f.code), (2, q.val), (10, a.val), (4, p.val), (5, 7)])
  | .mclr p a n => some (pack [(10, 0), (3, n.val), (10, a.val), (4, p.val), (5, 8)])
  | .mgbeat p a b => some (pack [(9, 0), (1, bit b.isZ), (1, bit a.isZ), (6, b.regNum), (6, a.regNum), (4, p.val), (5, 9)])
  | .mgdrn p r q => some (pack [(14, 0), (2, q.val), (7, r.val), (4, p.val), (5, 10)])
  | .mgclr p => some (pack [(23, 0), (4, p.val), (5, 11)])
  | _ => none

/-- The word of an LS-slot operation. -/
def encLS : Instr → Option Nat
  | .lsNop => some 0
  | .ldv h d x o pi => some (encLF 1 h d.regNum d.isZ pi x o)
  | .stv h s x o pi => some (encLF 2 h s.regNum s.isZ pi x o)
  | .ldvs h w d x y o pi => some (encLX 3 h w d.regNum d.isZ pi x y o)
  | .stvs h w s x y o pi => some (encLX 4 h w s.regNum s.isZ pi x y o)
  | .gath h w d x i => some (encLG 5 h w.code 0 d x i)
  | .scat h w d x i => some (encLG 6 h w.code 0 d x i)
  | .scata h d x i => some (encLG 7 h 0 0 d x i)
  | .atomv h o d x i => some (encLG 8 h 0 o.code d x i)
  | .ldb h d x o pi => some (encLF 9 h d.regNum d.isZ pi x o)
  | .ldg h g x o pi => some (encLF 10 h g.val false pi x o)
  | .stg h g x o pi => some (encLF 11 h g.val false pi x o)
  | .sbind h z x o => some (pack [(8, 0), (16, o.toNat), (5, x.val), (3, 0), (3, z.val), (3, h.msk.val), (4, h.pr.val), (6, 12)])
  | .sunb h z => some (pack [(8, 0), (16, 0), (5, 0), (3, 0), (3, z.val), (3, h.msk.val), (4, h.pr.val), (6, 13)])
  | .qpop h d q => some (pack [(27, 0), (2, q.val), (6, d.val), (3, h.msk.val), (4, h.pr.val), (6, 14)])
  | .qst h q x o pi =>
    some (pack [(7, 0), (1, bit pi), (16, o.toNat), (5, x.val), (4, 0), (2, q.val), (3, h.msk.val), (4, h.pr.val), (6, 15)])
  | _ => none

/-- The word of an FB-slot operation. -/
def encFB : Instr → Option Nat
  | .fbNop => some 0
  | .fsend p k a r n s => some (encFT 1 p k a r n.val s)
  | .fsenda p k a r n s => some (encFT 2 p k a r n.val s)
  | .fsendq p k q r n s => some (pack [(8, 0), (16, s.toNat), (4, n.val), (8, 0), (5, k.xd), (5, r.val), (3, 0), (2, q.val),
      (3, k.code), (4, p.val), (6, 3)])
  | .frecv p a n => some (pack [(8, 0), (16, 0), (12, n.val), (5, 0), (5, 0), (5, a.val), (3, 0), (4, p.val), (6, 4)])
  | .fld p v x => some (encFR 5 p 0 v x)
  | .fst p v x => some (encFR 6 p 0 v x)
  | .fatom p o v x => some (encFR 7 p o.code v x)
  | .mcpy h => some (encFE 8 h 0)
  | .mbulk h t => some (encFE 9 h t.val)
  | .mclose p s t => some (pack [(23, 0), (2, s.val), (6, t.val), (8, 0), (5, 0), (5, 0), (5, 0), (4, p.val), (6, 10)])
  | .publ p x => some (encFE 11 { pr := p, xa := x, xg := 0, xc := 0, cc := 0 } 0)
  | .ttgo p x s => some (pack [(8, 0), (16, s.toNat), (25, 0), (5, x.val), (4, p.val), (6, 12)])
  | .upd h x => some (encFE 13 h (2 * x.val))
  | .norm h => some (encFE 14 h 0)
  | .fars h q => some (encFE 15 h (32 * q.val))
  | .farr h q => some (encFE 16 h (32 * q.val))
  | .cwait p c x => some (pack [(8, 0), (16, 0), (7, 0), (8, c.val), (10, 0), (5, x.val), (4, p.val), (6, 17)])
  | .cinc p c i => some (pack [(8, 0), (16, i.toNat), (7, 0), (8, c.val), (10, 0), (5, 0), (4, p.val), (6, 18)])
  | .fence p k s => some (pack [(48, 0), (3, s.code), (3, k.code), (4, p.val), (6, 19)])
  | .psend p c v g s => some (pack [(8, 0), (16, s.toNat), (15, 0), (1, bit g), (6, v.val), (8, c.val), (4, p.val), (6, 20)])
  | .precv p c v g => some (pack [(8, 0), (16, 0), (15, 0), (1, bit g), (6, v.val), (8, c.val), (4, p.val), (6, 21)])
  | _ => none

/-- The word of an RP-slot operation. -/
def encRP : Instr → Option Nat
  | .rpNop => some 0
  | .rpush p v g => some (encRPv 1 p v g)
  | .rpop p v g => some (encRPv 2 p v g)
  | .rspill p n => some (encRPn 3 p n)
  | .rfill p n => some (encRPn 4 p n)
  | .rdrop p n => some (pack [(20, 0), (4, n.val), (4, p.val), (4, 5)])
  | .blkBegin p n => some (encRPn 6 p n)
  | .blkEnd p n => some (encRPn 7 p n)
  | .blkRev p n => some (encRPn 8 p n)
  | _ => none

/-- The nine slot fields of a bundle, in ascending position (R29, R92). -/
inductive Slot where
  | s0 | s1 | xb | v0 | v1 | m | ls | fb | rp
deriving DecidableEq, Repr, Inhabited

/-- Slot numbers as statistics records and notices give them (R248). -/
def Slot.code : Slot → Nat
  | .s0 => 0 | .s1 => 1 | .xb => 2 | .v0 => 3 | .v1 => 4 | .m => 5 | .ls => 6 | .fb => 7 | .rp => 8

/-- The lowest bit and the width of a slot's field in the bundle (R29). -/
def Slot.field : Slot → Nat × Nat
  | .s0 => (32, 32) | .s1 => (64, 32) | .xb => (96, 16) | .v0 => (112, 48) | .v1 => (160, 48)
  | .m => (208, 32) | .ls => (240, 48) | .fb => (288, 64) | .rp => (352, 32)

def Slot.all : List Slot := [.s0, .s1, .xb, .v0, .v1, .m, .ls, .fb, .rp]

/-- The decoder of a slot. -/
def decodeSlot : Slot → Nat → Dec
  | .s0, w => decodeS w
  | .s1, w => decodeS w
  | .xb, w => decodeXB w
  | .v0, w => decodeV w
  | .v1, w => decodeV w
  | .m, w => decodeM w
  | .ls, w => decodeLS w
  | .fb, w => decodeFB w
  | .rp, w => decodeRP w

/-- The encoder of a slot: none for a term that is no operation of that slot. -/
def encodeSlot : Slot → Instr → Option Nat
  | .s0, i => encS i
  | .s1, i => encS i
  | .xb, i => encXB i
  | .v0, i => encVSlot i
  | .v1, i => encVSlot i
  | .m, i => encM i
  | .ls, i => encLS i
  | .fb, i => encFB i
  | .rp, i => encRP i

/-! ### Bundles (R29 to R36) -/

/-- The header of a bundle (R30). -/
structure Header where
  ck : Bool
  eq : Bool
  le : Bool
  lv : Nat
  rt : Bool
  ports : List Nat
  bc : Bool
  bs : Nat
deriving DecidableEq, Repr, Inhabited

/-- A decoded bundle: its header and the operation of each slot. -/
structure Bundled where
  hdr : Header
  ops : List (Slot × Instr)
deriving DecidableEq, Repr, Inhabited

/-- The header's fields, or the item of R36 they break (R30, R31). -/
def decodeHeader (w : Nat) : Except Bad Header :=
  match unpack [1, 1, 1, 3, 1, 3, 3, 3, 3, 3, 3, 1, 5, 1] w with
  | [ck, eq, le, lv, rt, p0, p1, p2, p3, p4, p5, bc, bs, z] =>
    if z ≠ 0 ∨ (bc = 0 ∧ bs ≠ 0) ∨ (le = 0 ∧ (lv ≠ 0 ∨ rt ≠ 0)) then .error .reserved
    else if lv > 5 then .error .limit
    else if [p0, p1, p2, p3, p4, p5].contains 7 then .error .ports
    else .ok { ck := ck = 1, eq := eq = 1, le := le = 1, lv, rt := rt = 1, ports := [p0, p1, p2, p3, p4, p5], bc := bc = 1, bs }
  | _ => .error .undefined

/-- The vector-file reads of a source (R32). -/
def VSrc.reads : VSrc → Nat
  | .v _ => 1
  | _ => 0
def MSrc.reads : MSrc → Nat
  | .v _ => 1
  | .z _ => 0

/-- The vector-file read count of an operation: the VR column of the opcode maps (R32, R50 to R56). -/
def Instr.reads : Instr → Nat
  | .vadd _ _ _ a b => a.reads + b.reads
  | .vsub _ _ _ a b => a.reads + b.reads
  | .vmul _ _ _ a b => a.reads + b.reads
  | .vfma _ _ _ a b _ => a.reads + b.reads + 1
  | .vfms _ _ _ a b _ => a.reads + b.reads + 1
  | .vfnma _ _ _ a b _ => a.reads + b.reads + 1
  | .vmin _ _ _ a b => a.reads + b.reads
  | .vmax _ _ _ a b => a.reads + b.reads
  | .vabs _ _ _ a => a.reads
  | .vneg _ _ _ a => a.reads
  | .vcps _ _ _ a b => a.reads + b.reads
  | .vrcp _ _ _ a => a.reads
  | .vrsq _ _ _ a => a.reads
  | .vsqrt _ _ _ a => a.reads
  | .vexp2 _ _ _ a => a.reads
  | .vlog2 _ _ _ a => a.reads
  | .vtanh _ _ _ a => a.reads
  | .viadd _ _ _ a b => a.reads + b.reads
  | .visub _ _ _ a b => a.reads + b.reads
  | .vimul _ _ _ a b => a.reads + b.reads
  | .vimad _ _ _ a b _ => a.reads + b.reads + 1
  | .vimin _ _ _ _ a b => a.reads + b.reads
  | .vimax _ _ _ _ a b => a.reads + b.reads
  | .vand _ _ a b => a.reads + b.reads
  | .vor _ _ a b => a.reads + b.reads
  | .vxor _ _ a b => a.reads + b.reads
  | .vshl _ _ _ a b => a.reads + b.reads
  | .vshr _ _ _ a b => a.reads + b.reads
  | .vsar _ _ _ a b => a.reads + b.reads
  | .vcmp _ _ _ _ a b => a.reads + b.reads
  | .vsel _ _ a b _ => a.reads + b.reads
  | .vmov _ _ a => a.reads
  | .vsplat _ _ _ a _ => a.reads
  | .vperm _ _ _ a b => a.reads + b.reads
  | .vrot _ _ _ a _ => a.reads
  | .vpack _ _ _ _ a b => a.reads + b.reads
  | .vunpk _ _ _ _ a => a.reads
  | .vcvt _ _ a _ _ _ => a.reads
  | .vscl _ _ _ a _ => a.reads
  | .vred _ _ _ _ a => a.reads
  | .vscan _ _ _ _ a => a.reads
  | .part _ _ a _ => a.reads
  | .vrng _ _ a b _ => a.reads + b.reads
  | .vdrop _ _ _ a _ _ => a.reads + 1
  | .mwldN _ _ a => a.reads
  | .mwldW _ _ a => a.reads
  | .mbeat _ _ _ _ a => a.reads
  | .mbeatt _ _ _ _ a => a.reads
  | .mbeat2 _ _ _ _ a => a.reads
  | .mgbeat _ a b => a.reads + b.reads
  | .stv _ s _ _ _ => s.reads
  | .stvs _ _ s _ _ _ _ => s.reads
  | .gath _ _ _ _ _ => 1
  | .scat _ _ _ _ _ => 2
  | .scata _ _ _ _ => 2
  | .atomv _ _ _ _ _ => 2
  | .fst _ _ _ => 1
  | .fatom _ _ _ _ => 1
  | .psend _ _ _ g _ => if g then 0 else 1
  | .rpush _ _ g => if g then 0 else 1
  | _ => 0

/-- The streams an operation pops. -/
def Instr.pops : Instr → List (Fin 8)
  | .mwldN _ _ (.z n) => [n]
  | .mwldW _ _ (.z n) => [n]
  | .mbeat _ _ _ _ (.z n) => [n]
  | .mbeatt _ _ _ _ (.z n) => [n]
  | .mbeat2 _ _ _ _ (.z n) => [n]
  | .mgbeat _ (.z m) (.z n) => [m, n]
  | .mgbeat _ (.z m) _ => [m]
  | .mgbeat _ _ (.z n) => [n]
  | .stv _ (.z n) _ _ _ => [n]
  | .stvs _ _ (.z n) _ _ _ _ => [n]
  | .vadd _ _ _ (.z n) _ => [n]
  | .vsub _ _ _ (.z n) _ => [n]
  | .vmul _ _ _ (.z n) _ => [n]
  | .vfma _ _ _ (.z n) _ _ => [n]
  | .vfms _ _ _ (.z n) _ _ => [n]
  | .vfnma _ _ _ (.z n) _ _ => [n]
  | .vmin _ _ _ (.z n) _ => [n]
  | .vmax _ _ _ (.z n) _ => [n]
  | .vabs _ _ _ (.z n) => [n]
  | .vneg _ _ _ (.z n) => [n]
  | .vcps _ _ _ (.z n) _ => [n]
  | .vrcp _ _ _ (.z n) => [n]
  | .vrsq _ _ _ (.z n) => [n]
  | .vsqrt _ _ _ (.z n) => [n]
  | .vexp2 _ _ _ (.z n) => [n]
  | .vlog2 _ _ _ (.z n) => [n]
  | .vtanh _ _ _ (.z n) => [n]
  | .viadd _ _ _ (.z n) _ => [n]
  | .visub _ _ _ (.z n) _ => [n]
  | .vimul _ _ _ (.z n) _ => [n]
  | .vimad _ _ _ (.z n) _ _ => [n]
  | .vimin _ _ _ _ (.z n) _ => [n]
  | .vimax _ _ _ _ (.z n) _ => [n]
  | .vand _ _ (.z n) _ => [n]
  | .vor _ _ (.z n) _ => [n]
  | .vxor _ _ (.z n) _ => [n]
  | .vshl _ _ _ (.z n) _ => [n]
  | .vshr _ _ _ (.z n) _ => [n]
  | .vsar _ _ _ (.z n) _ => [n]
  | .vcmp _ _ _ _ (.z n) _ => [n]
  | .vsel _ _ (.z n) _ _ => [n]
  | .vmov _ _ (.z n) => [n]
  | .vsplat _ _ _ (.z n) _ => [n]
  | .vperm _ _ _ (.z n) _ => [n]
  | .vrot _ _ _ (.z n) _ => [n]
  | .vpack _ _ _ _ (.z n) _ => [n]
  | .vunpk _ _ _ _ (.z n) => [n]
  | .vcvt _ _ (.z n) _ _ _ => [n]
  | .vscl _ _ _ (.z n) _ => [n]
  | .vred _ _ _ _ (.z n) => [n]
  | .vscan _ _ _ _ (.z n) => [n]
  | .part _ _ (.z n) _ => [n]
  | .vrng _ _ (.z n) _ _ => [n]
  | .vdrop _ _ _ (.z n) _ _ => [n]
  | _ => []

/-- The streams an operation pushes. -/
def Instr.pushes : Instr → List (Fin 8)
  | .ldv _ (.z n) _ _ _ => [n]
  | .ldvs _ _ (.z n) _ _ _ _ => [n]
  | .ldb _ (.z n) _ _ _ => [n]
  | .vadd _ _ (.z n) _ _ => [n]
  | .vsub _ _ (.z n) _ _ => [n]
  | .vmul _ _ (.z n) _ _ => [n]
  | .vfma _ _ (.z n) _ _ _ => [n]
  | .vfms _ _ (.z n) _ _ _ => [n]
  | .vfnma _ _ (.z n) _ _ _ => [n]
  | .vmin _ _ (.z n) _ _ => [n]
  | .vmax _ _ (.z n) _ _ => [n]
  | .vabs _ _ (.z n) _ => [n]
  | .vneg _ _ (.z n) _ => [n]
  | .vcps _ _ (.z n) _ _ => [n]
  | .vrcp _ _ (.z n) _ => [n]
  | .vrsq _ _ (.z n) _ => [n]
  | .vsqrt _ _ (.z n) _ => [n]
  | .vexp2 _ _ (.z n) _ => [n]
  | .vlog2 _ _ (.z n) _ => [n]
  | .vtanh _ _ (.z n) _ => [n]
  | .viadd _ _ (.z n) _ _ => [n]
  | .visub _ _ (.z n) _ _ => [n]
  | .vimul _ _ (.z n) _ _ => [n]
  | .vimad _ _ (.z n) _ _ _ => [n]
  | .vimin _ _ _ (.z n) _ _ => [n]
  | .vimax _ _ _ (.z n) _ _ => [n]
  | .vand _ (.z n) _ _ => [n]
  | .vor _ (.z n) _ _ => [n]
  | .vxor _ (.z n) _ _ => [n]
  | .vshl _ _ (.z n) _ _ => [n]
  | .vshr _ _ (.z n) _ _ => [n]
  | .vsar _ _ (.z n) _ _ => [n]
  | .vsel _ (.z n) _ _ _ => [n]
  | .vmov _ (.z n) _ => [n]
  | .vsplat _ _ (.z n) _ _ => [n]
  | .vli _ _ (.z n) _ => [n]
  | .viota _ _ (.z n) => [n]
  | .vperm _ _ (.z n) _ _ => [n]
  | .vrot _ _ (.z n) _ _ => [n]
  | .vpack _ _ _ (.z n) _ _ => [n]
  | .vunpk _ _ _ (.z n) _ => [n]
  | .vcvt _ (.z n) _ _ _ _ => [n]
  | .vscl _ _ (.z n) _ _ => [n]
  | .vred _ _ _ (.z n) _ => [n]
  | .vscan _ _ _ (.z n) _ => [n]
  | .vrng _ (.z n) _ _ _ => [n]
  | .vdrop _ _ (.z n) _ _ _ => [n]
  | _ => []

/-- The operation reads the broadcast operand (R33). -/
def Instr.bcasts : Instr → Bool
  | .vadd _ _ _ _ .bcast => true
  | .vsub _ _ _ _ .bcast => true
  | .vmul _ _ _ _ .bcast => true
  | .vfma _ _ _ _ .bcast _ => true
  | .vfms _ _ _ _ .bcast _ => true
  | .vfnma _ _ _ _ .bcast _ => true
  | .vmin _ _ _ _ .bcast => true
  | .vmax _ _ _ _ .bcast => true
  | .vcps _ _ _ _ .bcast => true
  | .viadd _ _ _ _ .bcast => true
  | .visub _ _ _ _ .bcast => true
  | .vimul _ _ _ _ .bcast => true
  | .vimad _ _ _ _ .bcast _ => true
  | .vimin _ _ _ _ _ .bcast => true
  | .vimax _ _ _ _ _ .bcast => true
  | .vand _ _ _ .bcast => true
  | .vor _ _ _ .bcast => true
  | .vxor _ _ _ .bcast => true
  | .vshl _ _ _ _ .bcast => true
  | .vshr _ _ _ _ .bcast => true
  | .vsar _ _ _ _ .bcast => true
  | .vcmp _ _ _ _ _ .bcast => true
  | .vsel _ _ _ .bcast _ => true
  | .vperm _ _ _ _ .bcast => true
  | .vpack _ _ _ _ _ .bcast => true
  | .vrng _ _ _ .bcast _ => true
  | _ => false

/-- The sequencer operations (R39). -/
def Instr.isSeq : Instr → Bool
  | .br _ _ => true
  | .brp _ _ _ => true
  | .jmp _ _ => true
  | .call _ _ => true
  | .ret _ => true
  | .loop _ _ _ _ _ => true
  | .loopi _ _ _ _ => true
  | .exit _ => true
  | .trap _ _ => true
  | .yield _ => true
  | .wfe _ _ => true
  | .bar _ _ => true
  | .align _ _ => true
  | .tenter _ _ => true
  | .texit _ => true
  | _ => false

/-- LDS and STS stand only in S1 (R36 item 5). -/
def Instr.isLdsSts : Instr → Bool
  | .lds _ _ _ _ => true
  | .sts _ _ _ _ => true
  | _ => false

/-- An all-zero slot. -/
def Instr.isNop : Instr → Bool
  | .sNop => true
  | .xbNop => true
  | .vNop => true
  | .mNop => true
  | .lsNop => true
  | .fbNop => true
  | .rpNop => true
  | _ => false

/-- The port code that names a slot (R31). -/
def Slot.port : Slot → Option Nat
  | .v0 => some 1
  | .v1 => some 2
  | .ls => some 3
  | .fb => some 4
  | .m => some 5
  | .rp => some 6
  | _ => none

/-- Every port that names the slot is one of its reads (R32). -/
def portsOk (h : Header) (o : Slot × Instr) : Bool :=
  match o.1.port with
  | some c => h.ports.count c == o.2.reads
  | none => true

/-- The slots' operations, or the first item of R36 a slot breaks. -/
def decodeSlots (w : Nat) : List Slot → Except Bad (List (Slot × Instr))
  | [] => .ok []
  | s :: ss =>
    match decodeSlot s (w / 2 ^ s.field.1 % 2 ^ s.field.2), decodeSlots w ss with
    | .ok i, .ok r => .ok ((s, i) :: r)
    | .error e, _ => .error e
    | _, .error e => .error e

def hasDup : List (Fin 8) → Bool
  | [] => false
  | x :: xs => xs.contains x || hasDup xs

/-- The checks of R36 that take the whole bundle, items 3 to 7 and 9. -/
def bundleCheck (h : Header) (ops : List (Slot × Instr)) : Option Bad :=
  let seqs := (ops.filter fun o => o.2.isSeq).length
  if !ops.all (portsOk h) then some .ports
  else if !h.bc && ops.any (fun o => o.2.bcasts) then some .broadcast
  else if ops.any (fun o => o.1 == .s0 && o.2.isLdsSts) then some .s0Access
  else if seqs > 1 then some .twoSequencer
  else if h.le && seqs > 0 then some .closeSequencer
  else if hasDup (ops.flatMap fun o => o.2.pops) || hasDup (ops.flatMap fun o => o.2.pushes) then some .streamTwice
  else none

/-- A bundle of 384 bits, decoded and checked whole (R29, R36). -/
def decodeBundle (w : Nat) : Except Bad Bundled :=
  match decodeHeader (w % 2 ^ 32), decodeSlots w Slot.all with
  | .ok h, .ok ops =>
    match bundleCheck h ops with
    | some e => .error e
    | none => .ok { hdr := h, ops }
  | .error e, _ => .error e
  | _, .error e => .error e

/-! ### One operation as a bundle -/

/-- The instruction a word of a slot's width stands for, and the slot that holds it. A 32-bit word is read as an S
slot first (in S1, the only slot of LDS and STS), then as an M slot, then as an RP slot; a 48-bit word as a V slot,
then as an LS slot. The word alone does not name its slot (R29). -/
def decodeWord (nbits w : Nat) : Option (Slot × Instr) :=
  let first (l : List Slot) : Option (Slot × Instr) :=
    l.findSome? fun s => match decodeSlot s w with
      | .ok i => some (s, i)
      | .error _ => none
  if nbits = 16 then first [.xb]
  else if nbits = 32 then first [.s1, .m, .rp]
  else if nbits = 48 then first [.v0, .ls]
  else if nbits = 64 then first [.fb]
  else none

/-- The instruction this decoder reads from a word numbered as the opcode table numbers it. -/
def decodeTableWord (nbits w : Nat) : Option Instr := (decodeWord nbits w).map (·.2)

/-- The word of a well-formed operation with its width in bits, by the first slot that encodes it. -/
def encode (i : Instr) : Option (Nat × Nat) :=
  match encS i, encXB i, encVSlot i, encM i, encLS i with
  | some w, _, _, _, _ => some (32, w)
  | _, some w, _, _, _ => some (16, w)
  | _, _, some w, _, _ => some (48, w)
  | _, _, _, some w, _ => some (32, w)
  | _, _, _, _, some w => some (48, w)
  | _, _, _, _, _ =>
    match encFB i, encRP i with
    | some w, _ => some (64, w)
    | _, some w => some (32, w)
    | _, _ => none

/-- The bundle that holds one operation in its slot, with the ports R57 allots and BC set when it broadcasts x0. -/
def soloBundle (s : Slot) (i : Instr) (w : Nat) : Nat :=
  let ports := match s.port with
    | some c => pack ((List.replicate i.reads (3, c)))
    | none => 0
  w * 2 ^ s.field.1 + ports * 2 ^ 7 + bit i.bcasts * 2 ^ 25

end Sys2Proof
end

