-- ==== Sys2Proof/Config.lean ====
section
/-! DEFINITION. What the manual leaves open: the free values, as constants without a body, and the choices that a log
entry names. Nothing in Lean can evaluate a free value, so a claim about one holds for every value. -/

namespace Sys2Proof.Config

/-- A free 64-bit value, applied to the model's counter State.free (log entry 2). -/
opaque freeWord : Nat → BitVec 64
/-- A free vector value, applied to the model's counter State.free (log entry 2). -/
opaque freeVec : Nat → BitVec 4096
/-- A free number: a delay, an order or an identifier the manual does not fix (log entry 2). -/
opaque freeNat : Nat → Nat
/-- A free yes or no (log entry 2). -/
opaque freeBool : Nat → Bool
/-- The SHA-256 digest of a byte string, which the manual names and does not define (R441; log entry 9). -/
opaque digest : List (BitVec 8) → BitVec 256
/-- The 1,452 bytes of the signature under leaf q of the identity key over a digest (R440, R441; log entry 9). -/
opaque attestSign : Nat → BitVec 256 → BitVec 11616
/-- The digest of the ROM (R441; log entry 9). -/
opaque romDigest : BitVec 256
/-- The compressed form of a byte string in the CXL tier, whose format the manual does not give (log entry 9). -/
opaque compress : List (BitVec 8) → List (BitVec 8)

/-- By how many cycles Ebile's preparation of the slices of a die's dispatch wave, made in a cycle, exceeds 4,096 (R27; log
entry 94). -/
opaque prepExcess : Nat → Nat → Nat

/-- How many records more than 1,024 the replay log of a context holds (R284, R308; log entry 60). -/
opaque replayLog : Nat → Nat

/-- The outcome byte by which a launch record notes a kill, for which R253 has no code (R298; log entry 95). -/
opaque killNote : BitVec 8

/-- The half-width of the fabric's arrival window, 32 cycles (R230). -/
def jitter : Nat := 32
/-- The unlisted byte of every memory (log entry 1). -/
def emptyByte : Byte := 0

end Sys2Proof.Config
end

