-- ==== Sys2Proof/Machine/Numbers.lean ====
section
/-! DEFINITION. The formats of R63 to R69, conversion and rounding (R71 to R74), the exact arithmetic of R77 to R85 and
the helper functions of R89. A finite value is exact: a sign, a mantissa and a power of two. -/

namespace Sys2Proof.Machine

/-- An exact value of a format (R89): a NaN, an infinity, or (−1)^neg × m × 2^e. -/
inductive FV where
  | nan
  | inf (neg : Bool)
  | fin (neg : Bool) (m : Nat) (e : Int)
deriving DecidableEq, Repr, Inhabited

/-- The events of one computation, one bit a kind: 1 INV, 2 DIVZ, 4 OVF, 8 UNF, 16 ISAT, 32 ASAT (R87). -/
abbrev Evs := Nat
def evINV : Evs := 1
def evDIVZ : Evs := 2
def evOVF : Evs := 4
def evUNF : Evs := 8
def evISAT : Evs := 16
def evASAT : Evs := 32

/-! ### Format parameters -/

def isFloat : Fmt → Bool
  | .int8 => false | .uint8 => false | .int4 => false | .uint4 => false | .int32 => false
  | _ => true

/-- Width in bits (R63). -/
def fwidth : Fmt → Nat
  | .f32 => 32 | .bf16 => 16 | .f16 => 16 | .int32 => 32 | .int4 => 4 | .uint4 => 4
  | _ => 8

/-- The precision p (R71). -/
def fprec : Fmt → Nat
  | .f32 => 24 | .bf16 => 8 | .f16 => 11
  | .fp8 k => k.val + 1 | .fp8inf k => k.val + 1 | .ufp8 k => k.val + 1
  | _ => 1

/-- The exponent bias (R64, R65, R67). -/
def fbias : Fmt → Nat
  | .f32 => 127 | .bf16 => 127 | .f16 => 15
  | .fp8 k => 2 ^ (6 - k.val) | .fp8inf k => 2 ^ (6 - k.val) | .ufp8 k => 2 ^ (7 - k.val)
  | _ => 0

/-- The smallest normal exponent (R71). -/
def femin (f : Fmt) : Int := 1 - (fbias f : Int)

/-- The format has a sign bit. -/
def fsigned : Fmt → Bool
  | .ufp8 _ => false
  | _ => true

/-- The bits below the sign bit. -/
def fmag (f : Fmt) : Nat := if fsigned f then fwidth f - 1 else fwidth f

/-- The code of the largest finite magnitude (R64 to R68). -/
def fmaxCode : Fmt → Nat
  | .f32 => 0x7F7FFFFF | .bf16 => 0x7F7F | .f16 => 0x7BFF
  | .fp8 _ => 0x7F | .fp8inf _ => 0x7E | .ufp8 _ => 0xFE
  | _ => 0

/-- The code of +∞, where the format has one. -/
def finfCode : Fmt → Option Nat
  | .f32 => some 0x7F800000 | .bf16 => some 0x7F80 | .f16 => some 0x7C00
  | .fp8inf _ => some 0x7F
  | _ => none

/-- The canonical NaN (R64). -/
def fnan : Fmt → Nat
  | .f32 => 0x7FC00000 | .bf16 => 0x7FC0 | .f16 => 0x7E00
  | .fp8 _ => 0x80 | .fp8inf _ => 0x80 | .ufp8 _ => 0xFF
  | _ => 0

/-- The wide formats, which have a negative zero (R64). -/
def fwide : Fmt → Bool
  | .f32 => true | .bf16 => true | .f16 => true
  | _ => false

/-- The range of an integer format (R69). -/
def irange : Fmt → Int × Int
  | .int8 => (-128, 127) | .uint8 => (0, 255) | .int4 => (-8, 7) | .uint4 => (0, 15)
  | _ => (-2147483648, 2147483647)

/-- `sat` of R89. -/
def sat (x : Int) (f : Fmt) : Int :=
  let (lo, hi) := irange f
  if x < lo then lo else if x > hi then hi else x

/-- An integer as an exact value. -/
def fvInt (i : Int) : FV := .fin (i < 0) i.natAbs 0

/-- `val` of R89: what a code denotes. -/
def fval (f : Fmt) (c : Nat) : FV :=
  match f with
  | .int8 => fvInt (sextNat 8 c)
  | .int4 => fvInt (sextNat 4 c)
  | .int32 => fvInt (sextNat 32 c)
  | .uint8 => fvInt (c % 256)
  | .uint4 => fvInt (c % 16)
  | _ =>
    let c := c % 2 ^ fwidth f
    let mag := c % 2 ^ fmag f
    let neg := fsigned f && c ≥ 2 ^ fmag f
    let p := fprec f
    let e := mag >>> (p - 1)
    let t := mag % 2 ^ (p - 1)
    if fwide f then
      if mag > fmaxCode f then (if (some mag) = finfCode f then .inf neg else .nan)
      else if e = 0 then .fin neg t (femin f - (p - 1 : Nat))
      else .fin neg (2 ^ (p - 1) + t) ((e : Int) - fbias f - (p - 1 : Nat))
    else if c = fnan f then .nan
    else if (some mag) = finfCode f then .inf neg
    else if e = 0 then .fin neg t (femin f - (p - 1 : Nat))
    else .fin neg (2 ^ (p - 1) + t) ((e : Int) - fbias f - (p - 1 : Nat))

/-! ### Rounding and conversion -/

/-- `m × 2^s` for a possibly negative s: the quotient, and whether a remainder is lost, below and at half. -/
def shiftRne (m : Nat) (s : Int) (rtz : Bool) : Nat × Bool :=
  match s with
  | .ofNat k => (m <<< k, false)
  | .negSucc k =>
    let d := k + 1
    let q := m >>> d
    let r := m % 2 ^ d
    let half := 2 ^ (d - 1)
    let up := !rtz && (r > half || (r = half && q % 2 = 1))
    (if up then q + 1 else q, r ≠ 0)

def signBit (f : Fmt) (neg : Bool) : Nat := if neg && fsigned f then 2 ^ fmag f else 0

/-- The zero of a format with a sign (R71). -/
def fzero (f : Fmt) (neg : Bool) : Nat := if fwide f then signBit f neg else 0

/-- The largest finite code of a sign, where the format saturates (R72). -/
def fsatCode (f : Fmt) (neg : Bool) : Nat := signBit f neg + fmaxCode f

/-- The result beyond max (R72). -/
def foverflow (f : Fmt) (rm : Rm) (neg : Bool) : Nat :=
  match finfCode f, rm with
  | some i, .rne => signBit f neg + i
  | _, _ => fsatCode f neg

/-- `cvt_fin` of R71 for m ≠ 0: the code, and the events OVF and UNF. -/
def cvtFin (f : Fmt) (rm : Rm) (neg : Bool) (m : Nat) (ex : Int) : Nat × Evs :=
  let p := fprec f
  let lg : Int := (Nat.log2 m : Int) + ex
  let e := if lg < femin f then femin f else lg
  let q := e - (p - 1 : Nat)
  let (n, inexact) := shiftRne m (ex - q) (rm == .rtz)
  -- a carry to 2^p gives the next exponent with a zero trailing field, which the sum below encodes
  let mag : Nat :=
    if n < 2 ^ (p - 1) then n
    else (e + fbias f).toNat * 2 ^ (p - 1) + (n - 2 ^ (p - 1))
  if mag > fmaxCode f then (foverflow f rm neg, evOVF)
  else
    let unf := if inexact && lg < femin f then evUNF else 0
    if mag = 0 then (fzero f neg, unf) else (signBit f neg + mag, unf)

/-- Conversion to an integer format (R73). -/
def cvtInt (f : Fmt) (rm : Rm) (x : FV) : Nat × Evs :=
  let enc (i : Int) : Nat := (i % (2 ^ fwidth f : Nat)).toNat
  match x with
  | .nan => (0, evINV)
  | .inf neg => (enc (if neg then (irange f).1 else (irange f).2), evISAT)
  | .fin neg m e =>
    let (n, _) := shiftRne m e (rm == .rtz)
    let i : Int := if neg then -(n : Int) else n
    (enc (sat i f), if sat i f = i then 0 else evISAT)

/-- `cvt` of R89 with every event of R72 to R74 and R79, as for a destination of vector arithmetic. A tiny negative value for
ufp8 raises ISAT alone, and SAT clamps an infinity of the same format too (DESIGN CHOICE, log entry 100). -/
def cvt (f : Fmt) (rm : Rm) (x : FV) : Nat × Evs :=
  if !isFloat f then cvtInt f rm x
  else match x with
    | .nan => (fnan f, 0)
    | .inf neg =>
      if neg && !fsigned f then (0, evISAT)
      else match finfCode f, rm with
        | some _, .sat => (fsatCode f neg, evOVF)
        | some i, _ => (signBit f neg + i, 0)
        | none, _ => (fsatCode f neg, evOVF)
    | .fin neg m e =>
      if m = 0 then (fzero f neg, 0)
      else if neg && !fsigned f then (0, evISAT)
      else cvtFin f rm neg m e

/-- A conversion between formats raises UNF only into an 8-bit format, or from f32 into bf16 or f16 (R74). -/
def cvtFmt (src dst : Fmt) (rm : Rm) (c : Nat) : Nat × Evs :=
  let (r, ev) := cvt dst rm (fval src c)
  let keep := isFloat dst && (!fwide dst || src == .f32)
  (r, if keep then ev else ev &&& (255 - evUNF))

/-- `round_rne` of R89: the rounded code with its events. -/
def rne (f : Fmt) (x : FV) : Nat × Evs := cvt f .rne x

/-- `to_f32` of R89. -/
def toF32 (src : Fmt) (c : Nat) : Nat := (cvt .f32 .rne (fval src c)).1

def isNaN (f : Fmt) (c : Nat) : Bool := fval f c == .nan

/-! ### Exact arithmetic -/

def FV.neg : FV → FV
  | .nan => .nan
  | .inf n => .inf (!n)
  | .fin n m e => .fin (!n) m e

def signed (neg : Bool) (m : Nat) : Int := if neg then -(m : Int) else m

/-- Exact sum of two finite values, on the smaller exponent; an exact zero is +0 unless both addends are −0 (R77). -/
def addFin (n1 : Bool) (m1 : Nat) (e1 : Int) (n2 : Bool) (m2 : Nat) (e2 : Int) : FV :=
  let e := if e1 < e2 then e1 else e2
  let s := signed n1 (m1 <<< (e1 - e).toNat) + signed n2 (m2 <<< (e2 - e).toNat)
  if s = 0 then .fin (n1 && n2 && m1 = 0 && m2 = 0) 0 0 else .fin (s < 0) s.natAbs e

/-- Exact sum with the special cases of R79. -/
def FV.add (a b : FV) : FV × Evs :=
  match a, b with
  | .nan, _ => (.nan, 0)
  | _, .nan => (.nan, 0)
  | .inf n, .inf k => if n = k then (.inf n, 0) else (.nan, evINV)
  | .inf n, _ => (.inf n, 0)
  | _, .inf n => (.inf n, 0)
  | .fin n1 m1 e1, .fin n2 m2 e2 => (addFin n1 m1 e1 n2 m2 e2, 0)

/-- Exact product with the special cases of R79. -/
def FV.mul (a b : FV) : FV × Evs :=
  match a, b with
  | .nan, _ => (.nan, 0)
  | _, .nan => (.nan, 0)
  | .inf n, .inf k => (.inf (n != k), 0)
  | .inf n, .fin k m _ => if m = 0 then (.nan, evINV) else (.inf (n != k), 0)
  | .fin k m _, .inf n => if m = 0 then (.nan, evINV) else (.inf (n != k), 0)
  | .fin n1 m1 e1, .fin n2 m2 e2 => (.fin (n1 != n2) (m1 * m2) (e1 + e2), 0)

/-- A rounded computation: its events are those of the exact result and of the rounding. -/
def rounded (f : Fmt) (r : FV × Evs) : Nat × Evs :=
  let (c, ev) := rne f r.1
  (c, ev ||| r.2)

def fadd (f : Fmt) (a b : Nat) : Nat × Evs := rounded f ((fval f a).add (fval f b))
def fsub (f : Fmt) (a b : Nat) : Nat × Evs := rounded f ((fval f a).add (fval f b).neg)
def fmul (f : Fmt) (a b : Nat) : Nat × Evs := rounded f ((fval f a).mul (fval f b))

/-- (±a × b) ± c with one rounding (R77). A NaN addend beside 0 × ∞ still records INV: the product is NaN from
non-NaN operands (R79; DEDUCED, log entry 14). -/
def ffma (f : Fmt) (np nc : Bool) (a b c : Nat) : Nat × Evs :=
  let (p, e1) := (fval f a).mul (fval f b)
  let p := if np then p.neg else p
  let c := if nc then (fval f c).neg else fval f c
  let (s, e2) := p.add c
  rounded f (s, e1 ||| e2)

/-- Order of two non-NaN values, with −0 below +0 (R79). -/
def FV.lt (a b : FV) : Bool :=
  match a, b with
  | .nan, _ => false
  | _, .nan => false
  | .inf n, .inf k => n && !k
  | .inf n, .fin .. => n
  | .fin .., .inf k => !k
  | .fin n1 m1 e1, .fin n2 m2 e2 =>
    let e := if e1 < e2 then e1 else e2
    let x := signed n1 (m1 <<< (e1 - e).toNat)
    let y := signed n2 (m2 <<< (e2 - e).toNat)
    if m1 = 0 && m2 = 0 then n1 && !n2 else x < y

/-- VMIN and VMAX (R79). -/
def fmin (f : Fmt) (a b : Nat) : Nat :=
  if isNaN f a || isNaN f b then fnan f else if (fval f b).lt (fval f a) then b else a
def fmax (f : Fmt) (a b : Nat) : Nat :=
  if isNaN f a || isNaN f b then fnan f else if (fval f a).lt (fval f b) then b else a

/-- Equality and order of the comparisons of R129, where −0 equals +0. -/
def feq (f : Fmt) (a b : Nat) : Bool :=
  match fval f a, fval f b with
  | .nan, _ => false
  | _, .nan => false
  | .fin n1 m1 e1, .fin n2 m2 e2 =>
    if m1 = 0 || m2 = 0 then m1 = 0 && m2 = 0
    else !(FV.fin n1 m1 e1).lt (.fin n2 m2 e2) && !(FV.fin n2 m2 e2).lt (.fin n1 m1 e1)
  | x, y => x == y
def flt (f : Fmt) (a b : Nat) : Bool := (fval f a).lt (fval f b) && !feq f a b

/-! ### Exact sums and beats (R81) -/

/-- The state of an exact sum of products: a finite part on exponent `e`, the infinities seen, INV, and whether every
term so far is −0. -/
structure DotAcc where
  s : Int := 0
  e : Int := 0
  pinf : Bool := false
  ninf : Bool := false
  nan : Bool := false
  inv : Bool := false
  any : Bool := false
  allNegZero : Bool := true
deriving DecidableEq, Repr, Inhabited

def DotAcc.addTerm (d : DotAcc) (a b : FV) : DotAcc :=
  match a, b with
  | .nan, _ => { d with nan := true, any := true }
  | _, .nan => { d with nan := true, any := true }
  | _, _ =>
    match (a.mul b).1 with
    | .nan => { d with inv := true, any := true }
    | .inf true => { d with ninf := true, any := true, allNegZero := false }
    | .inf false => { d with pinf := true, any := true, allNegZero := false }
    | .fin n m e =>
      let z := d.allNegZero && n && m = 0
      if m = 0 then { d with any := true, allNegZero := z }
      else
        let lo := if d.s = 0 then e else if e < d.e then e else d.e
        { d with s := d.s <<< (d.e - lo).toNat + (signed n m) <<< (e - lo).toNat, e := lo, any := true,
                 allNegZero := false }

/-- The dot product d of R81 with its special cases. -/
def DotAcc.value (d : DotAcc) : FV × Evs :=
  if d.nan then (.nan, 0)
  else if d.inv || (d.pinf && d.ninf) then (.nan, evINV)
  else if d.pinf then (.inf false, 0)
  else if d.ninf then (.inf true, 0)
  else if d.s = 0 then (.fin (d.any && d.allNegZero) 0 0, 0)
  else (.fin (d.s < 0) d.s.natAbs d.e, 0)

/-- t of `beat_f32` (R81). -/
def dotF32 (terms : List (FV × FV)) : Nat × Evs :=
  rounded .f32 ((terms.foldl (fun (d : DotAcc) t => d.addTerm t.1 t.2) {}).value)

/-- The accumulating add of R81. -/
def accF32 (acc t : Nat) : Nat × Evs := fadd .f32 acc t

/-- The exact integer sum of R81. -/
def dotInt (terms : List (FV × FV)) : Int :=
  let i : FV → Int
    | .fin n m e => signed n (m <<< e.toNat)
    | _ => 0
  terms.foldl (fun s t => s + i t.1 * i t.2) 0

/-- An int32 code of an integer. -/
def int32 (i : Int) : Nat := (i % (2 ^ 32 : Nat)).toNat

/-- `sat(old + v, int32)` with whether it clamped (R81, R85, R189). -/
def addSat32 (a b : Nat) : Nat × Evs :=
  let s := sextNat 32 a + sextNat 32 b
  (int32 (sat s .int32), if sat s .int32 = s then 0 else evISAT)

/-! ### tree_sum and scan_sum (R83, R84, R89) -/

/-- One level of a tree: neighbours combined. -/
def treeLevel {α : Type} (op : α → α → α) : List α → List α
  | a :: b :: r => op a b :: treeLevel op r
  | l => l

/-- A tree of `k` levels. -/
def tree {α : Type} (op : α → α → α) : Nat → List α → List α
  | 0, l => l
  | k + 1, l => tree op k (treeLevel op l)

/-- One step of a scan at distance `d`: lane i takes lane i combined with lane i − d. -/
def scanStep {α : Type} (op : α → α → α) (d : Nat) (l : List α) : List α :=
  l.take d ++ List.zipWith op (l.drop d) l

/-- A scan of `k` steps from distance `d`. -/
def scan {α : Type} (op : α → α → α) : Nat → Nat → List α → List α
  | 0, _, l => l
  | k + 1, d, l => scan op k (2 * d) (scanStep op d l)

/-- An f32 code carried with the events raised on its path. -/
abbrev CE := Nat × Evs
def addCE (a b : CE) : CE :=
  let (c, e) := fadd .f32 a.1 b.1
  (c, a.2 ||| b.2 ||| e)

def treeSum (k : Nat) (l : List CE) : CE := ((tree addCE k l).head?).getD (0, 0)

/-- The largest value of a format, integers included. -/
def fmaxVal (f : Fmt) : FV := if isFloat f then fval f (fmaxCode f) else fvInt (irange f).2

/-- The smallest k, from the one given upwards, with m × 2^e ≤ mx × 2^k, by fuel. -/
def scaleGo (mx : FV) (m : Nat) (e : Int) : Nat → Int → Int
  | 0, k => k
  | n + 1, k =>
    match mx with
    | .fin _ mm me => if (FV.fin false mm (me + k)).lt (.fin false m e) then scaleGo mx m e n (k + 1) else k
    | _ => k

/-- `scale_exp` of R89 (R76). -/
def scaleExp (x : FV) (f : Fmt) : Int :=
  match x with
  | .fin _ m e => if m = 0 then 0 else scaleGo (fmaxVal f) m e 255 (-128)
  | _ => 127

/-! ### Correctly rounded functions (R77, R78)

Each gives an exact value, or one whose last mantissa bit is a sticky bit of a truncated expansion: it rounds as the
exact result does as long as the expansion is longer than the precision by the margin used here (log entry 15). -/

/-- The integer square root by `k` bits, from the top. -/
def isqrtGo : Nat → Nat → Nat → Nat
  | 0, _, r => r
  | k + 1, n, r =>
    let t := r + 2 ^ k
    isqrtGo k n (if t * t ≤ n then t else r)
def isqrt (n : Nat) : Nat := isqrtGo (Nat.log2 n / 2 + 1) n 0

/-- A truncated quotient with a sticky last bit. -/
def divSticky (neg : Bool) (n : Nat) (en : Int) (d : Nat) (ed : Int) : FV :=
  if n = 0 then .fin neg 0 0
  else
    let k := Nat.log2 d + 96
    let q := (n <<< k) / d
    let r := (n <<< k) % d
    .fin neg (2 * q + (if r = 0 then 0 else 1)) (en - ed - k - 1)

/-- A quotient with the special cases of R79 and R145: x / 0 is an infinity with DIVZ, 0 / 0 is NaN with INV. -/
def FV.div (a b : FV) : FV × Evs :=
  match a, b with
  | .nan, _ => (.nan, 0)
  | _, .nan => (.nan, 0)
  | .inf _, .inf _ => (.nan, evINV)
  | .inf n, .fin k _ _ => (.inf (n != k), 0)
  | .fin n _ _, .inf k => (.fin (n != k) 0 0, 0)
  | .fin n m e, .fin k d ed =>
    if d = 0 then (if m = 0 then (.nan, evINV) else (.inf (n != k), evDIVZ))
    else (divSticky (n != k) m e d ed, 0)

def rcpV : FV → FV × Evs
  | .nan => (.nan, 0)
  | .inf n => (.fin n 0 0, 0)
  | .fin n m e => if m = 0 then (.inf n, evDIVZ) else (divSticky n 1 0 m e, 0)

/-- √(m × 2^e) with e made even and a sticky bit. -/
def sqrtFin (m : Nat) (e : Int) : FV :=
  let odd := e % 2 ≠ 0
  let m := if odd then 2 * m else m
  let e := if odd then e - 1 else e
  let n := m <<< 128
  let r := isqrt n
  .fin false (2 * r + (if r * r = n then 0 else 1)) (e / 2 - 65)

def sqrtV : FV → FV × Evs
  | .nan => (.nan, 0)
  | .inf n => if n then (.nan, evINV) else (.inf false, 0)
  | .fin n m e => if m = 0 then (.fin n 0 0, 0) else if n then (.nan, evINV) else (sqrtFin m e, 0)

/-- 1/√(m × 2^e). -/
def rsqFin (m : Nat) (e : Int) : FV :=
  let odd := e % 2 ≠ 0
  let m := if odd then 2 * m else m
  let e := if odd then e - 1 else e
  let k := Nat.log2 m / 2 + 96
  let y := 2 ^ (2 * k) / m
  let r := isqrt y
  .fin false (2 * r + (if r * r * m = 2 ^ (2 * k) then 0 else 1)) (-(e / 2) - k - 1)

def rsqV : FV → FV × Evs
  | .nan => (.nan, 0)
  | .inf n => if n then (.nan, evINV) else (.fin false 0 0, 0)
  | .fin n m e => if m = 0 then (.inf n, evDIVZ) else if n then (.nan, evINV) else (rsqFin m e, 0)

/-- The fraction bits of the fixed-point expansions. -/
def fixP : Nat := 384
/-- Σ y^k / k! from term k with `n` terms left, in fixed point: `t` is the current term. -/
def expSeries (y : Nat) : Nat → Nat → Nat → Nat → Nat
  | 0, _, _, s => s
  | n + 1, k, t, s =>
    let t' := ((t * y) >>> fixP) / k
    expSeries y n (k + 1) t' (s + t')
/-- e^y for a fixed-point y below 1. -/
def expFix (y : Nat) : Nat := expSeries y 90 1 (2 ^ fixP) (2 ^ fixP)

/-- ln 2 = Σ 1 / (k 2^k), in fixed point. -/
def ln2Go : Nat → Nat → Nat → Nat
  | 0, _, s => s
  | n + 1, k, s => ln2Go n (k + 1) (s + 2 ^ fixP / (k * 2 ^ k))
def ln2Fix : Nat := ln2Go fixP 1 0
/-- ln 2 as an exact value with a sticky last bit. -/
def ln2V : FV := .fin false (2 * (ln2Fix / 2 ^ 24) + 1) (-(fixP : Int) + 23)

/-- 2^x for a finite non-zero x. -/
def exp2Fin (neg : Bool) (m : Nat) (e : Int) : FV :=
  let lg : Int := Nat.log2 m + e
  if lg ≥ 16 then (if neg then .fin false 1 (-65536) else .fin false 1 65536)
  else if lg < -64 then .fin false (if neg then 2 ^ 100 - 1 else 2 ^ 100 + 1) (-100)
  else
    -- x as a fixed-point integer: exact, since the last place is above 2^−256
    let x : Int := signed neg (m <<< (e + fixP).toNat)
    let n := x / (2 ^ fixP : Nat)
    let fr := (x % (2 ^ fixP : Nat)).toNat
    if fr = 0 then .fin false 1 n
    else .fin false (2 * (expFix ((fr * ln2Fix) >>> fixP) >>> 64) + 1) (n - fixP + 63)

def exp2V : FV → FV × Evs
  | .nan => (.nan, 0)
  | .inf n => if n then (.fin false 0 0, 0) else (.inf false, 0)
  | .fin n m e => if m = 0 then (.fin false 1 0, 0) else (exp2Fin n m e, 0)

/-- The fraction bits of log2 y for a fixed-point y in [1, 2), by repeated squaring. -/
def log2Bits : Nat → Nat → Nat → Nat
  | 0, _, acc => acc
  | k + 1, y, acc =>
    let y2 := (y * y) >>> fixP
    if y2 ≥ 2 ^ (fixP + 1) then log2Bits k (y2 >>> 1) (2 * acc + 1) else log2Bits k y2 (2 * acc)

/-- log2 of a positive finite value. -/
def log2Fin (m : Nat) (e : Int) : FV :=
  let lg := Nat.log2 m
  if m = 2 ^ lg then fvInt (lg + e)
  else
    let fr := log2Bits 192 ((m <<< fixP) >>> lg) 0
    let x : Int := (lg + e) * (2 ^ 193 : Nat) + (2 * fr + 1 : Nat)
    .fin (x < 0) x.natAbs (-193)

def log2V : FV → FV × Evs
  | .nan => (.nan, 0)
  | .inf n => if n then (.nan, evINV) else (.inf false, 0)
  | .fin n m e => if m = 0 then (.inf true, evDIVZ) else if n then (.nan, evINV) else (log2Fin m e, 0)

/-- tanh of a finite non-zero value: (E − 1) / (E + 1) with E = e^(2x). -/
def tanhFin (neg : Bool) (m : Nat) (e : Int) : FV :=
  let lg : Int := Nat.log2 m + e
  if lg ≥ 6 then .fin neg (2 ^ 100 - 1) (-100)
  else if lg < -20 then .fin neg ((m <<< 100) - 1) (e - 100)
  else
    let z := m <<< (e + 1 + fixP).toNat
    let k := z / ln2Fix
    let r := z % ln2Fix
    let ex := expFix r <<< k
    divSticky neg (ex - 2 ^ fixP) 0 (ex + 2 ^ fixP) 0 |> fun v =>
      match v with
      | .fin n q x => .fin n (q ||| 1) x
      | v => v

def tanhV : FV → FV × Evs
  | .nan => (.nan, 0)
  | .inf n => (.fin n 1 0, 0)
  | .fin n m e => if m = 0 then (.fin n 0 0, 0) else (tanhFin n m e, 0)

/-! ### Philox (R137) -/

/-- One round of Philox-4×32 and the key's advance. -/
def philoxRound : Nat → Nat × Nat × Nat × Nat → Nat × Nat → Nat × Nat × Nat × Nat
  | 0, c, _ => c
  | r + 1, (c0, c1, c2, c3), (k0, k1) =>
    let p0 := 0xD2511F53 * c0
    let p1 := 0xCD9E8D57 * c2
    philoxRound r
      (Nat.xor (Nat.xor (p1 / 2 ^ 32) c1) k0, p1 % 2 ^ 32, Nat.xor (Nat.xor (p0 / 2 ^ 32) c3) k1, p0 % 2 ^ 32)
      ((k0 + 0x9E3779B9) % 2 ^ 32, (k1 + 0xBB67AE85) % 2 ^ 32)

/-- Word w of philox(c, k). -/
def philox (e layer : Nat) (k : Nat × Nat) (w : Nat) : Nat :=
  match philoxRound 10 (e, layer, 0, 0) k, w with
  | (a, _, _, _), 0 => a
  | (_, b, _, _), 1 => b
  | (_, _, c, _), 2 => c
  | (_, _, _, d), _ => d

end Sys2Proof.Machine
end

