-- ==== Sys2Proof/Machine/Data.lean ====
section
/-! DEFINITION. Sparse maps, memories, lanes and byte strings: the plain operations every unit uses. -/

namespace Sys2Proof.Machine

/-! ### Sparse maps: a list of key and value pairs, keys rising -/

abbrev Map (α : Type) := List (Nat × α)

def mget {α : Type} : Map α → Nat → Option α
  | [], _ => none
  | (k, v) :: r, n => if k = n then some v else mget r n

def mdel {α : Type} : Map α → Nat → Map α
  | [], _ => []
  | (k, v) :: r, n => if k = n then mdel r n else (k, v) :: mdel r n

def mins {α : Type} : Map α → Nat → α → Map α
  | [], n, a => [(n, a)]
  | (k, v) :: r, n, a => if n < k then (n, a) :: (k, v) :: r else (k, v) :: mins r n a

def mset {α : Type} (m : Map α) (n : Nat) (a : α) : Map α := mins (mdel m n) n a

/-- A register file: an absent key reads as zero. -/
def rd {w : Nat} (m : Map (BitVec w)) (n : Nat) : BitVec w := (mget m n).getD 0

/-- The element of a list, or a default. -/
def nth {α : Type} (d : α) (l : List α) (n : Nat) : α := (l[n]?).getD d

/-! ### Memory: cells at strictly rising addresses, none holding the unlisted byte -/

abbrev Mem := List Host.Cell

def Mem.rd : Mem → Nat → Byte
  | [], _ => Config.emptyByte
  | (k, b) :: r, a => if k = a then b else if a < k then Config.emptyByte else Mem.rd r a

def Mem.wr : Mem → Nat → Byte → Mem
  | [], a, b => if b = Config.emptyByte then [] else [(a, b)]
  | (k, c) :: r, a, b =>
    if a < k then (if b = Config.emptyByte then (k, c) :: r else (a, b) :: (k, c) :: r)
    else if a = k then (if b = Config.emptyByte then r else (a, b) :: r)
    else (k, c) :: Mem.wr r a b

/-- The canonical form above a lower bound. -/
def Mem.wfFrom : Nat → Mem → Bool
  | _, [] => true
  | lo, (k, b) :: r => lo ≤ k && b != Config.emptyByte && Mem.wfFrom (k + 1) r

/-- The canonical form: addresses strictly rising, no entry equal to what an unlisted address reads as. -/
def Memory.wf (m : Mem) : Bool := Mem.wfFrom 0 m

/-- `n` bytes from an address, as a number, little-endian (R4). -/
def Mem.num (m : Mem) (a : Nat) : Nat → Nat
  | 0 => 0
  | n + 1 => (Mem.rd m a).toNat + 256 * Mem.num m (a + 1) n

/-- Writes `n` bytes of a number, little-endian. -/
def Mem.wrNum (m : Mem) (a v : Nat) : Nat → Mem
  | 0 => m
  | n + 1 => Mem.wrNum (Mem.wr m a (BitVec.ofNat 8 v)) (a + 1) (v / 256) n

/-- Writes the bytes of a number that an enable selects, bit i of `en` for byte i. -/
def Mem.wrEn (m : Mem) (a v en : Nat) : Nat → Mem
  | 0 => m
  | n + 1 =>
    Mem.wrEn (if en % 2 = 1 then Mem.wr m a (BitVec.ofNat 8 v) else m) (a + 1) (v / 256) (en / 2) n

def Mem.bytes (m : Mem) (a : Nat) : Nat → List Byte
  | 0 => []
  | n + 1 => Mem.rd m a :: Mem.bytes m (a + 1) n

def Mem.wrBytes (m : Mem) (a : Nat) : List Byte → Mem
  | [] => m
  | b :: r => Mem.wrBytes (Mem.wr m a b) (a + 1) r

/-- The memory with every address from `a` up to `a + n − 1` reading as zero. -/
def Mem.clear (m : Mem) (a n : Nat) : Mem := m.filter fun c => c.1 < a || a + n ≤ c.1

/-- Writes the bytes that are not the unlisted one. -/
def Mem.wrListed (m : Mem) (a : Nat) : List Byte → Mem
  | [] => m
  | b :: r => Mem.wrListed (if b = Config.emptyByte then m else Mem.wr m a b) (a + 1) r

/-- Writes a block of bytes, most of which may be zero. -/
def Mem.putBytes (m : Mem) (a : Nat) (l : List Byte) : Mem := Mem.wrListed (Mem.clear m a l.length) a l

/-- A number of bytes, least significant first. -/
def bytesOf (v : Nat) : Nat → List Byte
  | 0 => []
  | n + 1 => BitVec.ofNat 8 v :: bytesOf (v / 256) n

def numOf : List Byte → Nat
  | [] => 0
  | b :: r => b.toNat + 256 * numOf r

/-! ### Lanes -/

/-- Lane i of width w bits (R123). -/
def lane {n : Nat} (w : Nat) (v : BitVec n) (i : Nat) : Nat := (v.toNat >>> (w * i)) % 2 ^ w

/-- The number whose lanes of width w are given, lane 0 first. -/
def lanesNat (w : Nat) : List Nat → Nat
  | [] => 0
  | x :: r => x % 2 ^ w + 2 ^ w * lanesNat w r

/-- A vector from its lanes. -/
def ofLanes (w : Nat) (l : List Nat) : Vec := BitVec.ofNat 4096 (lanesNat w l)

/-- The first `n` lanes of a vector. -/
def lanesGo (w : Nat) : Nat → Nat → List Nat
  | 0, _ => []
  | n + 1, v => v % 2 ^ w :: lanesGo w n (v / 2 ^ w)
def lanes (w n : Nat) (v : Vec) : List Nat := lanesGo w n v.toNat

/-- One bit a lane, widened to one bit a byte: the bits of a mask that cover lane i (R123). -/
def laneBits (wb : Nat) : List Bool → Nat
  | [] => 0
  | b :: r => (if b then 2 ^ wb - 1 else 0) + 2 ^ wb * laneBits wb r

/-- The lanes of `wb` bytes with at least one mask bit, from a mask (R123). -/
def enabledGo (wb : Nat) : Nat → Nat → List Bool
  | 0, _ => []
  | n + 1, m => (m % 2 ^ wb != 0) :: enabledGo wb n (m / 2 ^ wb)
def enabled (wb n : Nat) (m : Mask) : List Bool := enabledGo wb n m.toNat

/-- The 4,096-bit form of a mask: eight bits for each mask bit. -/
def spreadGo : Nat → Nat → Nat
  | 0, _ => 0
  | n + 1, m => (if m % 2 = 1 then 255 else 0) + 256 * spreadGo n (m / 2)
def spread (m : Mask) : Vec :=
  if m = BitVec.allOnes 512 then BitVec.allOnes 4096 else BitVec.ofNat 4096 (spreadGo 512 m.toNat)

/-- The destination with the masked bytes replaced (R123). -/
def mergeBytes (old new : Vec) (m : Mask) : Vec :=
  let s := spread m
  (old &&& ~~~s) ||| (new &&& s)

/-- A vector with every one of `n` lanes of width w equal. -/
def splatLanes (w n x : Nat) : Vec := ofLanes w (List.replicate n x)

/-- Population count of a number's low `n` bits. -/
def popGo : Nat → Nat → Nat
  | 0, _ => 0
  | n + 1, v => v % 2 + popGo n (v / 2)
def popc {n : Nat} (v : BitVec n) : Nat := popGo n v.toNat

end Sys2Proof.Machine
end

