-- ==== Sys2Proof/Machine/State.lean ====
section
/-! DEFINITION. The state of the machine: every die of a group, its cores and engines, its memories and tables, the
host interface, and the calendar of everything in flight. Plain data throughout. -/

namespace Sys2Proof.Machine

/-! ### The state of a task (chapters 04 to 07, 10 and 11) -/

/-- A loop level (R96). -/
structure Level where
  cnt : Nat := 0
  idx : Word := 0
  str : Word := 0
  start : Nat := 0
  lend : Nat := 0
  first : Bool := false
  null : Bool := false
  /-- IDX, CNT and EC at its open and the passes begun since, which the final close makes its residual words of (R262) -/
  idx0 : Word := 0
  cnt0 : Nat := 0
  ec0 : Nat := 0
  pass : Nat := 0
deriving DecidableEq, Repr, Inhabited

/-- A stream register's binding and position (R191, R240): the 64 B descriptor with its valid bit, and k. -/
structure Strm where
  valid : Bool := false
  desc : BitVec 512 := 0
  k : Nat := 0
deriving DecidableEq, Repr, Inhabited

/-- A vector a read stream holds ahead of its pops (R243). -/
structure Ahead where
  idx : Nat
  ready : Nat
  val : Vec
deriving DecidableEq, Repr, Inhabited

/-- The transfer unit of a stream: the next vector to fetch, whether its fetch is scheduled, the vectors read ahead,
for a main-memory write stream the vectors waiting for the Mule, and for a main-memory stream the Mule in whose queue it
stands and the 64 KiB pieces of memory whose translation the pair holds (R203, R212, R240, R243, R244). -/
structure StrmUnit where
  next : Nat := 0
  busy : Bool := false
  /-- the earliest cycle of the next fetch -/
  from_ : Nat := 0
  ahead : List Ahead := []
  drain : List (Nat × Nat × Option Vec) := []
  mule : Option Nat := none
  pages : List Nat := []
deriving DecidableEq, Repr, Inhabited

/-- An entry of a result queue (R149, R165). -/
structure QEnt where
  id : Nat
  ready : Nat
  val : Vec
deriving DecidableEq, Repr, Inhabited

/-- A result queue: its entries, oldest first, and in free code how many of the first were popped since the last
checkpoint (R151). -/
structure RQueue where
  ents : List QEnt := []
  popped : Nat := 0
  nextId : Nat := 0
deriving DecidableEq, Repr, Inhabited

/-- An entry of an A-row buffer (R149, R162). -/
structure ARow where
  val : Vec
  fmt : Fmt
deriving DecidableEq, Repr, Inhabited

/-- A close as a reverse walk must undo it (R265; the model's own trace, log entry 6). -/
structure CloseRec where
  lv : Nat
  /-- the level ended here -/
  final : Bool
  /-- an epilogue close -/
  epilogue : Bool
  /-- the close advanced the stage register -/
  advance : Bool
  /-- passes the level had run at this close -/
  passes : Nat
  /-- the level as it stood before this close -/
  level : Level
deriving DecidableEq, Repr, Inhabited

/-- A landing as a reverse walk must undo or sample it (R143, R265; the model's own trace, log entry 6). -/
structure LandRec where
  pos : Nat
  /-- the position of the issue -/
  ipos : Nat
  slot : Nat
  dest : Dest
  en : Mask
  /-- every byte was lost to a write of the same cycle (R143) -/
  lost : Bool
  /-- pushed words are popped, invertible writes inverted (R119) -/
  pushed : Bool
deriving DecidableEq, Repr, Inhabited

/-- One forward position of a block (R265; the model's own trace, log entry 6). -/
structure PosRec where
  bundle : Nat
  null : Bool := false
  closed : Option CloseRec := none
  /-- the level a LOOP or LOOPI opened here -/
  opened : Option Nat := none
  /-- the mask file that its operations read: the lanes enabled forward contribute (R145) -/
  masks : Map Mask := []
  /-- the slot weights that it issued with, which count in both cycles of its reversal (R169) -/
  weight : Nat := 0
  /-- its beat was on the floating path (R160, R168) -/
  float : Bool := false
deriving DecidableEq, Repr, Inhabited

/-- A frame on the residual stack as the walk needs it (R260; the trace is the model's own, log entry 6). -/
structure FrameRec where
  start : Nat
  block : Nat
  kind : Nat
  pos : List PosRec := []
  lands : List LandRec := []
  words : Nat := 0
  items : Nat := 0
  /-- where the scalar-packing items that a full buffer wrote lie, oldest first (R262) -/
  packs : List Nat := []
deriving DecidableEq, Repr, Inhabited

/-- What the block machinery of a task is doing (R257). -/
inductive WalkMode where
  | idle
  | replay
  | reverse
deriving DecidableEq, Repr, Inhabited

/-- A loop level being walked backwards: its index and EC at open (R265). -/
structure RevLevel where
  lv : Nat
  ecOpen : Nat
  idxOpen : Word
deriving DecidableEq, Repr, Inhabited

/-- The fetch stream: the next bundle and the targets of taken branches still in their delay bundles (R38, R40). -/
structure Fetch where
  pc : Nat := 0
  /-- the target taken after the next bundle -/
  d1 : Option Nat := none
  /-- the target taken after the bundle behind that -/
  d2 : Option Nat := none
  /-- the target of a branch taken by the bundle in issue -/
  br : Option Nat := none
deriving DecidableEq, Repr, Inhabited

/-- Walk state (R257): the mode, the block, the position, the frame walked, what it popped and sampled. -/
structure Walk where
  mode : WalkMode := .idle
  block : Nat := 0
  /-- positions still to walk, or replayed so far -/
  pos : Nat := 0
  n : Nat := 0
  /-- the clear of GCLR is still to come -/
  start : Bool := false
  /-- second cycle of the position -/
  second : Bool := false
  unpack : List Word := []
  /-- a scalar-packing item that the buffer took from below vector items still to pop: the stack skips its place (R262,
  R265) -/
  hole : Option Nat := none
  /-- loop-reversal stack: levels reopened in reverse -/
  rev : List RevLevel := []
  /-- sampled output gradients by issue position, slot and destination -/
  samples : List (Nat × Nat × Nat × Vec) := []
  /-- boundary vectors a replayed PRECV still takes, in forward order -/
  recvs : List Vec := []
  /-- the end of the boundary frame of a recompute walk: what a replay pushes lies above it -/
  base : Nat := 0
  /-- the fetch stream behind BLK.REV, while a replay runs -/
  ret : Fetch := {}
  /-- the events of the adjoint that delivers, by lane, or from 128 by element of the plane (R88, R145) -/
  evs : List (Nat × Evs) := []
deriving DecidableEq, Repr, Inhabited

/-- An open block (R257). -/
structure OpenBlk where
  block : Nat
  start : Nat
  depth : Nat
  /-- the bundle at which it opened -/
  opened : Nat
  /-- forward position count so far -/
  n : Nat := 0
deriving DecidableEq, Repr, Inhabited

/-- The architectural state that a checkpoint copies and a rollback restores (R184, R257). -/
structure Arch where
  x : Map Word := []
  p : BitVec 16 := 0b0111
  v : Map Vec := []
  g : Map Vec := []
  m : Map Mask := []
  levels : List Level := List.replicate 6 {}
  ldepth : Nat := 0
  rrb : Nat := 0
  ec : Nat := 0
  alslack : Nat := 32
  remt : Nat := 0xFFFFFFFF
  goff : Word := 0
  afmt : Fmt := .f32
  satf : BitVec 1024 := 0
  strms : List Strm := List.replicate 8 {}
  top : Nat := 0
  blk : Option OpenBlk := none
  pack : List Word := []
  /-- scalar words of this cycle's landings, by slot and issue (R262) -/
  fresh : List (Nat × Nat × Word) := []
  walk : Walk := {}
  frames : List FrameRec := []
deriving DecidableEq, Repr, Inhabited

/-- One entry of a carry or of the late-write buffer: a landing and its offset (R300, R448). -/
structure Late where
  id : Nat
  r : Nat
  land : Landing
  done : Bool := true
deriving DecidableEq, Repr, Inhabited

/-- The shadow set of the last checkpoint (R184, R448). -/
structure Shadow where
  arch : Arch := {}
  fetch : Fetch := {}
  carry : List Late := []
  qlens : List Nat := [0, 0, 0, 0]
  /-- the cycle of the checkpoint -/
  at_ : Nat := 0
  /-- TOP at the checkpoint: the residual controller spills only below it (R274) -/
  top : Nat := 0
deriving DecidableEq, Repr, Inhabited

/-- An undo-buffer entry (R183). -/
structure Undo where
  row : Nat
  val : Vec
  flag : Bool
deriving DecidableEq, Repr, Inhabited

/-- Why a core waits. -/
inductive Wait where
  /-- it issues -/
  | none
  /-- the bundle at the pc cannot issue: it is tried again each cycle -/
  | stall
  /-- an ALIGN or TENTER waits for its instant (R114) -/
  | align (target : Nat) (enter : Bool)
  /-- WFE waits for its flag (R110) -/
  | wfe (ev : Nat)
  /-- BAR has arrived (R112) -/
  | bar (b : Nat)
  /-- CWAIT waits for its counter (R397) -/
  | cwait
  /-- FENCE waits for its class and scope (R237) -/
  | fence (kind : FKind) (scope : FScope)
  /-- TEXIT holds the next bundle (R22) -/
  | texit
  /-- EXIT drains (R110) -/
  | exit
  /-- an engine command waits for acceptance (R207) -/
  | accept
  /-- a reverse walk or a replay runs (R264, R270) -/
  | walk
  /-- a remote load or atomic is outstanding (R322) -/
  | remote (id : Nat)
  /-- BAR has issued: the next bundle waits for L + 8 (R112) -/
  | barHold
  /-- first bundle not yet due -/
  | start
deriving DecidableEq, Repr, Inhabited

/-- Where a task stands in its life (R293, R297, R314, R361). -/
inductive Phase where
  | running
  /-- stopped for a save or a kill -/
  | stopped
  /-- its save record is being written -/
  | saving
  /-- rolled back by a precise-recoverable fault and held by Ebile -/
  | held
  /-- ended by a fault or by another member's fault -/
  | ended
  /-- retired by EXIT -/
  | retired
deriving DecidableEq, Repr, Inhabited

/-- What the scheduler asked of a task (R295, R297). -/
inductive StopReq where
  | none
  | save
  | kill
deriving DecidableEq, Repr, Inhabited

/-- The scalar and control registers outside the shadow set (R102), with the task's placement. -/
structure Ctl where
  dlt : Int := 0
  curlim : Nat := 6144
  frzcnt : Nat := 0
  asid : Nat := 0
  gang : Bool := false
  trapc : Word := 0
  trapva : Word := 0
  stqlost : Nat := 0
  teamx : Nat := 0
  teamy : Nat := 0
  teamz : Nat := 0
  taskix : Nat := 0
  teamsz : Nat := 1
  swbase : Nat := 0
  swsize : Nat := 0
  rchunk : Nat := 0
deriving DecidableEq, Repr, Inhabited

/-- The matrix unit outside the shadow set (R149). -/
structure Mat where
  w : Map Vec := []
  wfmt : Fmt := .f32
  dirW : Bool := false
  edge : Nat := 128
  /-- the load state as it will stand once every issued MWLD has landed (R155) -/
  ldFmt : Fmt := .f32
  ldDirW : Bool := false
  arows : List ARow := []
  /-- the array is held up to this cycle (HOLD of R149, R153) -/
  heldTo : Nat := 0
  acc : Map Vec := []
  /-- rows as they stood before this cycle's landings: row, cycle, value (R160, R161; the model's own) -/
  prev : List (Nat × Nat × Vec) := []
  plane : Map Vec := []
  queues : List RQueue := List.replicate 4 {}
deriving DecidableEq, Repr, Inhabited

/-- The state of a 4 KiB segment of the residual stack (R272). -/
inductive SegState where
  | resident
  | outbound
  | away
  | inbound
deriving DecidableEq, Repr, Inhabited

/-- A segment: its state, whether it is in the CXL tier, whether its last transfer met a bad page (R274). -/
structure Seg where
  st : SegState := .resident
  cxl : Bool := false
  bad : Bool := false
  /-- an RSPILL or RFILL moves it, not the residual controller (R236) -/
  op : Bool := false
deriving DecidableEq, Repr, Inhabited

/-- The residual stack's machinery outside the shadow set (R257, R271, R275). -/
structure Resid where
  rw : Nat := 131072
  segs : Map Seg := []
  /-- spill area: virtual base and size -/
  spillBase : Nat := 0
  spillSize : Nat := 0
  /-- the last block of the previous RSPILL or RFILL performs in this cycle -/
  moveEnd : Nat := 0
  /-- bytes of items popped since the last checkpoint that a push has reused: scratch address and 64 B (R277) -/
  saved : List (Nat × Nat) := []
  /-- the controller has a spill or a fill in progress (R274) -/
  moving : Bool := false
  /-- segments that an RFILL of free code will fill once their window slots are free (R275) -/
  owed : List Nat := []
  /-- segments that an RSPILL of free code will move at the next checkpoint, until which a rollback may need bytes of theirs
  that a push has reused (R277) -/
  later : List Nat := []
deriving DecidableEq, Repr, Inhabited

/-- A timed send that waits for its stamp (R332, R334). -/
structure PendSend where
  id : Nat
  depart : Nat
  last : Nat
deriving DecidableEq, Repr, Inhabited

/-- An ingress window (R339). -/
structure Window where
  base : Nat
  words : Nat
  got : Nat := 0
deriving DecidableEq, Repr, Inhabited

/-- A task on its core. -/
structure Task where
  arch : Arch := {}
  shadow : Shadow := {}
  fetch : Fetch := {}
  ctl : Ctl := {}
  mat : Mat := {}
  res : Resid := {}
  units : List StrmUnit := List.replicate 8 {}
  /-- the store buffer, oldest first (R181) -/
  sbuf : List Access := []
  undo : List Undo := []
  /-- rows that operations issued since the checkpoint will write (R183) -/
  rows : List Nat := []
  /-- records with the cycle and the order of their push (R248, R249) -/
  stq : List (Nat × Nat × Word) := []
  ev : BitVec 16 := 0
  /-- weights issued in the last 64 cycles, with their cycles (R170) -/
  weights : List (Nat × Nat) := []
  timed : Bool := false
  wait : Wait := .start
  phase : Phase := .running
  stop : StopReq := .none
  launch : Nat := 0
  team : Nat := 0
  image : Nat := 0
  /-- GCC of the last ALIGN or TENTER in force (R377) -/
  aligned : Nat := 0
  sends : List PendSend := []
  windows : List Window := []
  /-- late writes of the stop, or of a resume (R299, R305) -/
  late : List Late := []
  /-- A rows that reach a stopped task, with their cycles after the stop (R299) -/
  lateRows : List (Nat × ARow) := []
  /-- the cycle S of the stop, and the stop bundle's index -/
  stopAt : Nat := 0
  stopBundle : Nat := 0
  /-- the bundle that issued last, and its issue cycle -/
  last : Nat := 0
  lastAt : Nat := 0
  /-- the bundle that issued last is a pre-emption point, and its own wait is still running (R297) -/
  atPoint : Bool := false
  /-- PSENDs withheld until the next checkpoint (R280) -/
  psends : List Counted := []
  /-- released write-stream pushes that wait for their data (R244) -/
  wpend : List Access := []
  /-- FSTs to other dies withheld until the next checkpoint (R322) -/
  fsts : List ApReq := []
  /-- remote accesses that have left and not yet performed, oldest first: target die and number (R231) -/
  rems : List (Nat × Nat) := []
deriving DecidableEq, Repr, Inhabited

/-! ### The calendar -/

/-- A pending event: its cycle, its rank and order within the cycle, the core whose stalls delay it (log entry 3). -/
structure Ev where
  due : Nat
  rank : Nat
  ord : Nat
  owner : Option Loc := none
  /-- the core, or with core 0 the die, where it happens -/
  place : Loc := { die := 0, core := 0 }
  what : Instr
deriving DecidableEq, Repr, Inhabited

/-! ### Engines, tables and queues of a die (chapters 08, 10, 12 to 17) -/

/-- The engine commands of the FB slot (R207, R213, R353, R402). -/
inductive CmdKind where
  | mcpy | mbulk | upd | norm | fars | farr
deriving DecidableEq, Repr, Inhabited

/-- An engine command: its issuer, operands and progress (R207 to R209). -/
structure Cmd where
  kind : CmdKind
  loc : Loc
  launch : Nat
  team : Nat
  asid : Nat
  bundle : Nat
  timed : Bool
  /-- the completion counter: of UPD the one after its cc field (R404) -/
  cc : Nat
  /-- the count, and the guard word, read at issue (R208) -/
  n : Nat
  guard : Word := 0
  /-- the scratch address of the descriptor, and the descriptor once read -/
  xa : Nat := 0
  desc : BitVec 512 := 0
  /-- the tag of MBULK, the port of FARS and FARR, the norm counter of UPD -/
  aux : Nat := 0
  /-- R of UPD (R407) -/
  xv : Nat := 0
  issued : Nat
  /-- accepted (R207) -/
  acc : Bool := false
  /-- the cycle of the first block of an MBULK less 640; the earliest start of an Ox command -/
  from_ : Nat := 0
  /-- the Mule that serves it -/
  mule : Nat := 0
  /-- writes still to perform; of FARS also the frames not yet acknowledged -/
  left : Nat := 0
  /-- frames of a FARS not yet sent (R236) -/
  unsent : Nat := 0
  /-- every write has performed: its increment waits for earlier commands of its task and counter (R209) -/
  done : Bool := false
  /-- base addresses of source and destination, the destination by its shadow name; with a handle the byte offset of the
  first tile in its tensor -/
  src : Nat := 0
  dst : Nat := 0
  srcTile : Option (BitVec 512 × Nat) := none
  dstTile : Option (BitVec 512 × Nat) := none
  /-- the shadow map entry its writes name -/
  shdw : Option Nat := none
  /-- virtual ranges that it translated at its acceptance (R207, R315) -/
  pages : List (Nat × Nat) := []
  /-- blocks read and not yet used, by index (R225) -/
  buf : Map (BitVec 512) := []
  /-- DLT and GCC[23:0] of its issue, for what it reports in group cycles (R6, R248) -/
  dlt : Int := 0
  time : Nat := 0
  /-- events of its arithmetic that are still to be recorded, one entry for each element or unit (R87, R88) -/
  evs : List Nat := []
deriving DecidableEq, Repr, Inhabited

/-- A completion counter, present while allocated (R394, R395). -/
structure Counter where
  val : Nat := 0
  asid : Nat
deriving DecidableEq, Repr, Inhabited

/-- The running UPD or NORM (R394, R407). -/
structure OxRun where
  cmd : Nat
  start : Nat
  g0 : Option Nat := none
  /-- GCC of G0 (R412) -/
  g0gcc : Nat := 0
  tile : Nat := 0
  factor : Nat := 0
  /-- S was not finite: no tile starts (R408) -/
  skip : Bool := false
  /-- the command ended under R411 -/
  bad : Bool := false
  pubs : Nat := 0
  /-- the running tile's publish cycle -/
  pk : Option Nat := none
  /-- blocks of the new master weights of the running tile, and the events seen in it -/
  out : Map (BitVec 512) := []
  evs : List Nat := []
  /-- the events of the clip factor, until the first tile starts (R408) -/
  clip : Nat := 0
deriving DecidableEq, Repr, Inhabited

/-- A link-table entry with its loss detection (R332, R333, R347). -/
structure Link where
  state : Nat := 0
  width : Nat := 256
  lat : Nat := 16
  peer : Nat := 0
  crcerr : Nat := 0
  lastFlit : Nat := 0
  fails : Nat := 0
deriving DecidableEq, Repr, Inhabited

/-- A timed transfer's span on one output link (R335). -/
structure Span where
  link : Nat
  first : Nat
  last : Nat
  task : Option Loc
  launch : Nat
  /-- the transfer's number (the model's own) -/
  id : Nat := 0
deriving DecidableEq, Repr, Inhabited

/-- A send entry of a timetable (R341). -/
structure TtSend where
  cycle : Nat
  dest : Nat
  words : Nat
  op : Nat
  sk : Nat
  daddr : Nat
  chunk : Nat
  src : Nat
  coord : Nat := 0
deriving DecidableEq, Repr, Inhabited

/-- A chunk-table entry (R342). -/
structure TtChunk where
  base : Nat
  len : Nat
  expect : Nat
  cc : Nat
  shdw : Option Nat := none
deriving DecidableEq, Repr, Inhabited

/-- A loaded timetable (R340). -/
structure Timetable where
  asid : Nat
  setN : Nat
  setId : Nat
  alt : Option Nat := none
  phase : Nat := 0
  lexp : List Nat := []
  sends : List TtSend := []
  chunks : List TtChunk := []
  /-- the header, an entry or a chunk breaks a rule of R340 to R342 -/
  bad : Bool := false
  /-- the set has passed the checks of R345 -/
  ok : Bool := false
deriving DecidableEq, Repr, Inhabited

/-- The state of a chunk of the running timetable (R332, R343). -/
structure ChunkSt where
  armed : Bool := false
  count : Nat := 0
  /-- the cycle from which the ready bit is set (R343) -/
  ready : Option Nat := none
  /-- its shadow map entry swapped after it became ready, so the chunk is published (R348) -/
  pub : Bool := false
deriving DecidableEq, Repr, Inhabited

/-- The walker's state while it runs (R332, R344). -/
structure WalkerSt where
  tt : Nat
  s0 : Nat
  rc : Nat
  next : Nat
  loc : Loc
  launch : Nat
  /-- the number of the first entry's transfer (the model's own) -/
  id0 : Nat := 0
  /-- the last departure (R344) -/
  last : Nat := 0
deriving DecidableEq, Repr, Inhabited

/-- A channel receive buffer and the sender's count (R257, R280). -/
structure Chan where
  buf : List Vec := []
  /-- vectors this die sent on the channel and its peer has not taken -/
  sent : Nat := 0
  /-- places in the channel's order: of the next vector to send, and of the next to arrive (R279) -/
  nextSend : Nat := 0
  nextRecv : Nat := 0
  /-- the task of the launch that uses the channel on this die, by its coordinates (R279) -/
  user : Option Nat := none
deriving DecidableEq, Repr, Inhabited

/-- A team barrier (R112, R400): the members that have arrived with the cycle that bounds L for each, and L once it
is complete. -/
structure Bar where
  arr : List (Nat × Nat) := []
  go : Option Nat := none
deriving DecidableEq, Repr, Inhabited

/-- A resident team (R16, R292, R400). -/
structure Team where
  launch : Nat
  cluster : Nat
  cores : List Nat
  linear : Nat
  coords : Nat × Nat × Nat := (0, 0, 0)
  nx : Nat := 0
  en : Nat := 0
  /-- launch cycle of its wave, and the start cycle of its cluster -/
  launchCycle : Nat := 0
  start : Nat := 0
  tokens : Nat := 0
  dispatched : Nat := 0
  bars : List Bar := [{}, {}, {}, {}]
  retired : List Nat := []
  /-- draining, with a deadline when it has one (R296) -/
  draining : Bool := false
  deadline : Option Nat := none
  /-- tasks stopped and saved so far -/
  saved : List Nat := []
  stopping : StopReq := .none
  /-- the launch for which the team makes room (R294) -/
  for_ : Nat := 0
  /-- bytes of the save area set aside for the team's records (R303) -/
  room : Nat := 0
  /-- a member was killed: the team is restarted from its entry (R298) -/
  killed : Bool := false
deriving DecidableEq, Repr, Inhabited

/-- A save record: the task, its windows and what is still to become ready (R301). -/
structure SaveRec where
  ix : Nat
  task : Task
  scratch : List Byte := []
  window : List Byte := []
  /-- streams' and queues' remaining cycles are held in the task, counted from the stop -/
  stop : Nat := 0
  /-- the 4 KiB blocks of the save area that the record takes, counted from the area's base (R301, R304; log entry 56) -/
  blocks : List Nat := []
deriving DecidableEq, Repr, Inhabited

/-- A saved team (R299, R301, R305). -/
structure SavedTeam where
  /-- the die, and the number the team had while resident and takes again -/
  die : Nat := 0
  num : Nat := 0
  team : Team
  recs : List SaveRec := []
  bytes : Nat := 0
deriving DecidableEq, Repr, Inhabited

/-- A schedule of an image (R306, R438). -/
structure Sched where
  name : Nat
  clusters : List Nat
  eqs : List (Nat × Nat)
deriving DecidableEq, Repr, Inhabited

/-- A loaded program image (R438). -/
structure Image where
  text : List Bundle := []
  blocks : Map (BitVec 512) := []
  pairs : Map (BitVec 128) := []
  scratch : List (Nat × List Byte) := []
  scheds : List Sched := []
  /-- the launch descriptors it carries, as their 256 bytes (R420, R438) -/
  launches : List (BitVec 2048) := []
  digest : BitVec 256 := 0
deriving DecidableEq, Repr, Inhabited

/-- A launch descriptor (R285, R438). -/
structure LaunchDesc where
  gang : Bool := false
  image : Nat := 0
  entry : Nat := 0
  ext : Nat × Nat × Nat := (1, 1, 1)
  teamSize : Nat := 1
  swsize : Nat := 4096
  rw : Nat := 131072
  level : Nat := 0
  killable : Bool := false
  drainok : Bool := true
  curlim : Nat := 6144
  waits : List (Nat × Nat) := []
  publishes : List Nat := []
  fences : List (Nat × Nat) := []
  tiles : Nat × Nat × Nat := (1, 1, 1)
  tpt : Nat := 0
  cc : Nat := 0
  args : List Byte := []
  inputs : List Nat := []
  outputs : List Nat := []
  members : List Nat := []
  gtol : Nat := 2000
  pins : List (Nat × Nat) := []
  residual : Nat := 0
  spillBase : Nat := 0
  spillSize : Nat := 0
deriving DecidableEq, Repr, Inhabited

/-- Where a launch stands (R286, R290, R293, R361). -/
inductive LPhase where
  | queued
  | running
  | completing
  | complete
  | ended (status : Nat)
deriving DecidableEq, Repr, Inhabited

/-- A gang's agreement (R383 to R388). -/
structure GangSt where
  attempt : Nat := 0
  kind : Nat := 0
  /-- a proposal is being agreed -/
  pending : Bool := false
  t : Nat := 0
  c : Nat := 0
  started : Bool := false
  saved : Bool := false
  stopping : Bool := false
  /-- paired with gangs of other groups -/
  cross : Bool := false
  prepared : Nat := 0
  committed : Bool := false
  sched : Nat := 0
  /-- a link loss ended the region, and Ebile relaunches the gang (R348) -/
  relaunch : Bool := false
  /-- RCHUNK of the next start (R102, R348, R392) -/
  rchunk : Nat := 0
  /-- tokens of the gang that this one is to make room for (R295) -/
  newcomer : Option Nat := none
deriving DecidableEq, Repr, Inhabited

/-- A launch (R285 to R293). -/
structure Launch where
  asid : Nat
  die : Nat
  queue : Nat
  desc : LaunchDesc
  /-- of a gang: the descriptor that each member die's own image carries (R420, R438) -/
  mdescs : Map LaunchDesc := []
  phase : LPhase := .queued
  /-- cycle in which it became head, and its tokens at first dispatch (R287) -/
  head : Option Nat := none
  tokens : Option Nat := none
  /-- next team to dispatch, killed teams to restart with the cycles of their requeues, teams retired -/
  nextTeam : Nat := 0
  requeued : List (Nat × Nat) := []
  retired : Nat := 0
  saved : List SavedTeam := []
  gang : GangSt := {}
  /-- (die, entry) pairs whose shadow the launch wrote since the entry's last swap (R229) -/
  shadows : List (Nat × Nat) := []
  /-- first fault: GCC, die, core, code (R362) -/
  fault : Option (Nat × Nat × Nat × Nat) := none
  /-- input handles' publish counts at enqueue, and the segment (R307) -/
  segment : Nat := 0
  pcounts : List (Nat × Nat) := []
  /-- completion actions done so far -/
  acts : Nat := 0
  pairs : Map (BitVec 128) := []
  tags : List (Nat × Nat) := []
  /-- Ebile rebuilds a dropped input of the launch, or has (R307) -/
  replay : Bool := false
deriving DecidableEq, Repr, Inhabited

/-- The descriptor of a launch on a die: of a gang, the one its member's image carries (R420). -/
def Launch.descOn (x : Launch) (die : Nat) : LaunchDesc :=
  match x.mdescs.find? fun e => e.1 = die with
  | some e => e.2
  | none => x.desc

/-- The dies a launch runs on. -/
def Launch.homes (x : Launch) : List Nat := if x.desc.gang then x.desc.members else [x.die]

/-- A recorded command of a segment: a launch as enqueued, with its queue and the publish counts of its inputs (R307). -/
structure LogEnt where
  /-- the segment, and the record's number in the log -/
  seg : Nat := 0
  off : Nat := 0
  desc : LaunchDesc
  queue : Nat
  pcounts : List (Nat × Nat) := []
  mdescs : Map LaunchDesc := []
  pairs : Map (BitVec 128) := []
  tags : List (Nat × Nat) := []
deriving DecidableEq, Repr, Inhabited

/-- A context on one die (R284, R310, R450). -/
structure Context where
  /-- the context root: DPAs of the level-1, handle, shadow map and aperture tables (R310) -/
  root : List Nat := []
  ptes : Map Word := []
  apertures : Map (BitVec 128) := []
  grants : List (Nat × Nat) := []
  handles : Map (BitVec 512) := []
  shadows : Map (BitVec 256) := []
  images : Map Image := []
  queues : Map (List Nat) := []
  params : SchedParams := { ageq := 1048576, draint := 8, killt := 224, pregap := 64 }
  saveBase : Nat := 0
  saveSize : Nat := 0
  saveFree : Nat := 0
  quota : Nat := 0
  cxlUsed : Nat := 0
  /-- replay log: the commands recorded with their segments and the publish counts of their inputs, oldest first; how many
  were ever recorded; the segments of which a record has been overwritten (R284, R307, R308) -/
  log : List LogEnt := []
  logOff : Nat := 0
  lost : List Nat := []
  /-- the mark ids of the host, oldest first: their number is the current segment, 0 before the first (R307) -/
  marks : List Nat := []
  /-- producing segment of each output handle -/
  producers : Map Nat := []
  /-- dropped handles being rebuilt, with the launches that rebuild them (R307) -/
  rebuild : Map (List Nat) := []
  /-- the context was killed by an error and only waits for its destruction -/
  killed : Bool := false
deriving DecidableEq, Repr, Inhabited

/-- Rooster's state on a die (R368). -/
structure Rooster where
  ref : Nat := 0
  parent : Nat := 7
  hops : Nat := 15
  sync : Nat := 0
  steps : Nat := 0
  map : Option (Nat × Nat × Nat) := none
  epoch : Nat := 0
  /-- the last hop count and sync state each link's beacons reported -/
  heard : Map (Nat × Nat) := []
  ptp : Nat := 0
  u : Nat := 0xFFFFFFFF
  syncs : Nat := 0
  lastSync : Nat := 0
  /-- the servo's cycles per ns × 2^32 (R380) -/
  k : Nat := 0
  /-- PTP time reported by the servo at a cycle: the pair (cycle, ns) -/
  clock : Option (Nat × Nat) := none
  pps : Option (Nat × Nat) := none
  ppsOut : Bool := false
  interval : Nat := 3600000000
deriving DecidableEq, Repr, Inhabited

/-- A pending gang slot (R368, R384). -/
structure GangSlot where
  c : Nat
  t : Nat
  members : List Nat
  /-- member, READY bits, cores free -/
  ready : List (Nat × Nat × Bool) := []
  aborted : Bool := false
  kind : Nat := 0
  attempt : Nat := 0
  /-- READY bits this member sent -/
  own : Nat := 0
  /-- linear indices of the teams to start here -/
  teams : List Nat := []
deriving DecidableEq, Repr, Inhabited

/-- A reservation of a bank (R203, R214). -/
structure Reserve where
  stack : Nat
  tag : Nat
  pc : Nat
  bank : Nat
  launch : Nat
  lastIssue : Nat := 0
  lastCount : Nat := 0
  lastBlock : Nat := 0
deriving DecidableEq, Repr, Inhabited

/-- A long-haul frame in the replay buffer, or held back by a full window, with the command it belongs to (R352). -/
structure LhSent where
  frame : LhFrame
  cmd : Nat
  resends : Nat := 0
  at_ : Nat := 0
deriving DecidableEq, Repr, Inhabited

/-- A long-haul endpoint of a port with its retry state (R350 to R352). -/
structure Endpoint where
  valid : Bool := false
  mac : BitVec 48 := 0
  peer : BitVec 64 := 0
  own : BitVec 64 := 0
  /-- secure association keys, by direction × 4 + association number (R351) -/
  keys : Map (BitVec 512) := []
  nextSeq : Nat := 0
  nextPn : Nat := 0
  unacked : List LhSent := []
  held : List LhSent := []
  progress : Nat := 0
  /-- receiver: the first sequence number not received, those received beyond it, the highest packet number, those seen -/
  cum : Nat := 0
  got : List Nat := []
  pnMax : Nat := 0
  pns : List Nat := []
  dropped : Nat := 0
  /-- received units: stream, unit, data -/
  data : List (Nat × Nat × List Byte) := []
  sinceAck : Nat := 0
  /-- the acknowledgement last returned: cumulative number and bitmap -/
  acked : Nat × Nat := (0, 0)
  lost : Bool := false
deriving DecidableEq, Repr, Inhabited

/-- A frame held in the CXL tier (R218). -/
structure CxlFrame where
  asid : Nat
  loc : Loc
  launch : Nat
  start : Nat
  /-- its 64 B header: original and stored length, identifier, CRC-32C of the original bytes -/
  header : BitVec 512
  bytes : List Byte
  stored : Nat
deriving DecidableEq, Repr, Inhabited

/-- A die. -/
structure Die where
  /-- LCC = cycle + lcc and GRP = cycle + grp (R102, R368; log entry 4) -/
  lcc : Int := 0
  grp : Int := 0
  started : Bool := false
  scratch : Mem := []
  /-- the scratchpad as it stood before the writes of a cycle, with that cycle (R222; the model's own) -/
  was : Option (Nat × Mem) := none
  /-- the writes of reverse walks that performed in a cycle, with that cycle (R193; the model's own) -/
  walked : Nat × List Access := (0, [])
  tags : Map Nat := []
  dram : Mem := []
  /-- the last-level TLB: ASID, level and page of each entry, newest first within a level (R310) -/
  tlb : List (Nat × Nat × Nat) := []
  /-- poisoned 64 B blocks, by DPA / 64 (R203) -/
  poison : List Nat := []
  /-- 64-bit words of the slices that hold one flipped bit, by address, with the bit (R175, R194) -/
  flips : Map Nat := []
  /-- single-bit errors that the arrays of the cores and the instruction stores hold (R194) -/
  aflips : List SramLoc := []
  /-- 64 B blocks of main memory that hold a correctable error (R204) -/
  mflips : List Nat := []
  tasks : Map Task := []
  teams : Map Team := []
  nextTeam : Nat := 0
  ctxs : Map Context := []
  counters : Map Counter := []
  cmds : Map Cmd := []
  nextCmd : Nat := 0
  oxq : List Nat := []
  ox : Option OxRun := none
  reserves : List Reserve := []
  links : Map Link := []
  spans : List Span := []
  /-- transfers whose words an overlap or a lost link discards (R335, R347) -/
  cut : List Nat := []
  tts : Map Timetable := []
  ttRun : Option Nat := none
  /-- the launch whose task issued the last TTGO -/
  ttLaunch : Nat := 0
  /-- ingress windows that a region left armed until the drain horizon, with their launch (R21, R391) -/
  left : List (Nat × Window) := []
  chunks : Map ChunkSt := []
  walker : Option WalkerSt := none
  /-- channels by launch × 256 + channel -/
  chans : Map Chan := []
  rooster : Rooster := {}
  slots : Map GangSlot := []
  /-- clusters and cores reserved for a gang: launch, core -/
  gangCores : List (Nat × Nat) := []
  /-- the round-robin pointer of R288: ASID × 16 + queue -/
  rr : Nat := 0
  waves : Nat := 0
  lrecs : List (BitVec 1024) := []
  lrlost : Nat := 0
  erecs : List (BitVec 512) := []
  erlost : Nat := 0
  ewait : List (BitVec 512) := []
  absent : List Nat := []
  spares : List Nat := []
  toRetire : List Nat := []
  /-- LCC of the correctable errors of each core and of each pseudo-channel (R366) -/
  coreErr : Map (List Nat) := []
  pcErr : Map (List Nat) := []
  retiredPc : List Nat := []
  health : Word := 0
  pins : List (Nat × Nat × Nat) := []
  endpoints : Map Endpoint := []
  ethertype : Nat := 0x88B5
  frames : Map CxlFrame := []
  cxlDevs : List (Nat × Nat) := []
  /-- the next free byte of Ebile's page pool, and what was returned to it: base and size -/
  pool : Nat := 0x1000000000
  freed : List (Nat × Nat) := []
  hot : Bool := false
  /-- instruction stores: images present in each cluster (R12, R289) -/
  stores : List (Nat × Nat × Nat) := []
  /-- counted traffic that waits here for a route (R449) -/
  stuck : List Counted := []
  /-- pending drain horizon of a stopping gang (R391) -/
  horizon : Option Nat := none
  fscrub : Nat := 0
  /-- windows of a save record still being written, by core (R289) -/
  savingCores : List Nat := []
deriving DecidableEq, Repr, Inhabited

/-- The host interface and the module's firmware state (R433 to R445). -/
structure HostIf where
  rbase : Nat := 0
  rsize : Nat := 6
  head : Nat := 0
  tail : Nat := 0
  /-- Ebile pops entries, and HEAD reads as an index, from this cycle on (R442, R445) -/
  readyAt : Nat := 26624
  /-- the first doorbell has been rung: RBASE and RSIZE are locked -/
  locked : Bool := false
  /-- a command is being executed, and its ring entry (R434) -/
  busy : Bool := false
  cmd : BitVec 512 := 0
  /-- the page that a migrate command holds: die, ASID, first virtual address and bytes (R320) -/
  hold : Option (Nat × Nat × Nat × Nat) := none
  /-- writes of the host and of other agents outside the machine to a die's memory, which no doorbell has followed yet,
  oldest first: die, DPA and bytes (R238, R316, R433) -/
  writes : List (Nat × Nat × List Byte) := []
  /-- writes posted to host memory, oldest first: address and bytes -/
  posted : List (Nat × List Byte) := []
  /-- MSI-X vectors signalled, oldest first -/
  events : List Nat := []
  nextImage : Nat := 1
  /-- power status: TRIP, HOT, WARM, peak temperature (R443) -/
  trip : Bool := false
  hot : Bool := false
  warm : Bool := false
  peak : Nat := 0
  /-- the identity key's next leaf (R441) -/
  fuseQ : Nat := 0
  patch : Option (BitVec 256) := none
  /-- status of the last patch image (R440) -/
  patchStatus : Nat := 0
deriving DecidableEq, Repr, Inhabited

/-- The state of the machine. -/
structure State where
  /-- the current cycle, counted from die A's power-on -/
  now : Nat := 0
  /-- the next insertion number of the calendar (log entry 3) -/
  seq : Nat := 0
  /-- the next free value (log entry 2) -/
  free : Nat := 0
  calendar : List Ev := []
  powered : Bool := true
  /-- group extents X, Y, Z (R329) -/
  ext : Nat × Nat × Nat := (2, 1, 1)
  formed : Bool := false
  dies : Map Die := []
  launches : Map Launch := []
  nextLaunch : Nat := 1
  host : HostIf := {}
  /-- where the step happens: the core of a slot operation or of a core event, the die of a unit's event -/
  at_ : Loc := { die := 0, core := 0 }
  /-- the slot in issue -/
  slot : Slot := .s0
  /-- the broadcast register BS of the bundle in issue (R33) -/
  bs : Nat := 0
deriving DecidableEq, Repr, Inhabited

/-! ### The reasons a step can stop -/

/-- Faults of the model. A fault that the manual describes is no stop: the machine takes it and goes on. -/
inductive Fault where
  /-- raised by `step` when nothing is pending: the module has no power or no unit has work. Safe. -/
  | halted
  /-- raised by a slot operation executed where no task is resident: the machine has no such step. Safe. -/
  | noTask
deriving DecidableEq, Repr, Inhabited

/-- Refusals of the model. -/
inductive Refusal where
  /-- raised by an arm of `exec` whose instruction has no meaning yet. Safe. -/
  | notModelled (mnemonic : String)
deriving DecidableEq, Repr, Inhabited

/-- A die right after its power-on (R368, R394, R332). -/
def Die.initial : Die := { links := [(0, {}), (1, {}), (2, {}), (3, {}), (4, {}), (5, {})] }

/-- The machine right after reset: power and clocks have just been applied to die A (R442), so the power-on sequence
is the one pending event; nothing is listed in memory. -/
def State.reset : State :=
  { dies := [(0, Die.initial), (64, { Die.initial with lcc := -2048, grp := -2048 })]
    calendar := [{ due := 0, rank := 0, ord := 0, what := .powerOn }]
    seq := 1 }

end Sys2Proof.Machine
end

