-- ==== Sys2Proof/Machine/Ops.lean ====
section
/-! DEFINITION. The named operations over the state: dies, tasks and the calendar; registers; the emission of results;
checkpoints, rollback, the taking of a fault and the return from one; stalls. -/

namespace Sys2Proof.Machine

/-! ### Dies, tasks, teams, launches -/

def State.die (s : State) (d : Nat) : Die := (mget s.dies d).getD {}

/-- Changes a die that exists. -/
def State.modDie (s : State) (d : Nat) (f : Die → Die) : State :=
  match mget s.dies d with
  | some x => { s with dies := mset s.dies d (f x) }
  | none => s

def State.task (s : State) (l : Loc) : Option Task := (mget s.dies l.die).bind fun d => mget d.tasks l.core

/-- Changes a task that is resident. -/
def State.modTask (s : State) (l : Loc) (f : Task → Task) : State :=
  s.modDie l.die fun d =>
    match mget d.tasks l.core with
    | some t => { d with tasks := mset d.tasks l.core (f t) }
    | none => d

def State.setTask (s : State) (l : Loc) (t : Task) : State := s.modTask l fun _ => t

def State.team (s : State) (d n : Nat) : Option Team := mget (s.die d).teams n
def State.modTeam (s : State) (d n : Nat) (f : Team → Team) : State :=
  s.modDie d fun x =>
    match mget x.teams n with
    | some t => { x with teams := mset x.teams n (f t) }
    | none => x

def State.launch (s : State) (n : Nat) : Option Launch := mget s.launches n
def State.modLaunch (s : State) (n : Nat) (f : Launch → Launch) : State :=
  match mget s.launches n with
  | some x => { s with launches := mset s.launches n (f x) }
  | none => s

def State.ctx (s : State) (d asid : Nat) : Option Context := mget (s.die d).ctxs asid
def State.modCtx (s : State) (d asid : Nat) (f : Context → Context) : State :=
  s.modDie d fun x =>
    match mget x.ctxs asid with
    | some c => { x with ctxs := mset x.ctxs asid (f c) }
    | none => x

/-- Every resident task of a die with its core. -/
def Die.locs (d : Die) (xyz : Nat) : List (Loc × Task) := d.tasks.map fun e => ({ die := xyz, core := e.1 }, e.2)

/-- Every resident task of the group with its core. -/
def State.tasks (s : State) : List (Loc × Task) := s.dies.flatMap fun e => e.2.locs e.1

/-! ### Time (R102, R368) -/

/-- An integer count as the 64-bit register that holds it. -/
def wrap64 (i : Int) : Nat := (i % (2 ^ 64 : Nat)).toNat

def State.lcc (s : State) (d : Nat) : Nat := wrap64 (s.now + (s.die d).lcc)
def State.grp (s : State) (d : Nat) : Nat := wrap64 (s.now + (s.die d).grp)
/-- The GCC of a task: LCC + DLT (R102). -/
def State.gcc (s : State) (l : Loc) (t : Task) : Nat := wrap64 (s.now + (s.die l.die).lcc + t.ctl.dlt)

/-! ### The calendar -/

/-- The order of events: by cycle, then by rank, then by order within the rank. -/
def Ev.before (a b : Ev) : Bool :=
  a.due < b.due || (a.due = b.due && (a.rank < b.rank || (a.rank = b.rank && a.ord < b.ord)))

/-- Inserts behind every event that is not after it. -/
def calInsert (e : Ev) : List Ev → List Ev
  | [] => [e]
  | x :: r => if e.before x then e :: x :: r else x :: calInsert e r

def calSort (l : List Ev) : List Ev := l.foldl (fun c e => calInsert e c) []

/-- Ranks within a cycle (log entry 3): reads see the old value, writes follow by port, results land, then flags are
set, cores issue, counters increment and publications swap (R91, R110, R222, R227, R396). -/
def rkRead : Nat := 10
def rkWrite : Nat := 30
def rkLand : Nat := 60
def rkWalk : Nat := 61
def rkDrain : Nat := 62
def rkGrad : Nat := 63
def rkArrive : Nat := 64
def rkFlag : Nat := 66
def rkIssue : Nat := 80
def rkCount : Nat := 90
def rkSwap : Nat := 95

/-- Posts an event that happens at a place, never in the past. -/
def State.postAt (s : State) (place : Loc) (due rank ord : Nat) (owner : Option Loc) (what : Instr) : State :=
  { s with calendar := calInsert { due := Nat.max due s.now, rank, ord, owner, place, what } s.calendar
           seq := s.seq + 1 }

/-- Posts an event that carries its own place. -/
def State.post (s : State) (due rank ord : Nat) (owner : Option Loc) (what : Instr) : State :=
  s.postAt { die := 0, core := 0 } due rank ord owner what

/-- Posts an event in insertion order. -/
def State.postUnit (s : State) (due rank : Nat) (what : Instr) : State := s.post due rank s.seq none what

/-- Posts an event of a unit of a die, in insertion order. -/
def State.postDie (s : State) (die due rank : Nat) (what : Instr) : State :=
  s.postAt { die, core := 0 } due rank s.seq none what

/-- The order of core events within a cycle: ascending die, then core index (R115). -/
def coreOrd (l : Loc) : Nat := l.die * 256 + l.core

/-- A task of a launch on a die, by the coordinates of its team and its index in the team: whatever core it runs on (R16). -/
def taskIdent (x y z ix : Nat) : Nat := ((z * 2 ^ 16 + y) * 2 ^ 16 + x) * 64 + ix
def Task.ident (t : Task) : Nat := taskIdent t.ctl.teamx t.ctl.teamy t.ctl.teamz t.ctl.taskix

/-- Posts an event of a core, in the order of the cores. -/
def State.postCore (s : State) (l : Loc) (due rank : Nat) (what : Instr) : State :=
  s.postAt l due rank (coreOrd l) none what

/-- The core tries its next bundle in this cycle. -/
def State.postIssue (s : State) (due : Nat) (l : Loc) : State := s.postCore l due rkIssue .bundleIssue
/-- A waiting core is looked at again in this cycle. -/
def State.postRetry (s : State) (due : Nat) (l : Loc) : State := s.postCore l due rkIssue .stallEnd

/-- The rank of a landing: gradient registers take the walk's deliveries of the cycle first (R125). -/
def landRank : Dest → Nat
  | .g _ => rkGrad
  | _ => rkLand

/-- The order of landings within a cycle: the later-issued last, of one bundle the higher slot (R92); on a gradient register
by slot position (R125). -/
def landOrd (r : Landing) : Nat :=
  match r.dest with
  | .g _ => r.slot * 2 ^ 80 + r.issued
  | _ => r.issued * 16 + r.slot

/-- Posts a landing of a core. -/
def State.postLanding (s : State) (l : Loc) (due : Nat) (r : Landing) : State :=
  s.post due (landRank r.dest) (landOrd r) (some l) (.resultLanding l r)

/-- The next free value, and the state that has used it (log entry 2). -/
def State.nextFree (s : State) : Nat × State := (Config.freeNat s.free, { s with free := s.free + 1 })

/-! ### Channels and counted traffic (R280, R336, R449) -/

def chanKey (launch ch : Nat) : Nat := launch * 256 + ch
def State.chan (s : State) (die launch ch : Nat) : Chan := (mget (s.die die).chans (chanKey launch ch)).getD {}
def State.modChan (s : State) (die launch ch : Nat) (f : Chan → Chan) : State :=
  s.modDie die fun d => { d with chans := mset d.chans (chanKey launch ch) (f ((mget d.chans (chanKey launch ch)).getD {})) }

/-- A counted message sets out at its source; it is routed there and at each die it reaches (R449). -/
def State.sendCounted (s : State) (c : Counted) : State :=
  let (n, s1) := s.nextFree
  s1.postUnit (s1.now + 1 + n % 65536) rkArrive (.countedFlitArrival c true)

/-- A withheld PSEND leaves with its place in the channel's order (R279, R280). -/
def State.releasePair (s : State) (c : Counted) : State :=
  match c.body with
  | .pair v =>
    let k := s.chan v.src v.launch v.chan
    (s.modChan v.src v.launch v.chan fun x => { x with sent := x.sent + 1, nextSend := x.nextSend + 1 }).sendCounted
      { c with body := .pair { v with seq := k.nextSend } }
  | _ => s

/-! ### Registers (R43, R90 to R95, R121) -/

def Arch.rx (a : Arch) (n : Nat) : Word := if n = 0 then 0 else rd a.x n

/-- The loop index li n (R96). -/
def Arch.li (a : Arch) (n : Nat) : Word := if n < a.ldepth then (nth {} a.levels n).idx else 0

/-- A scalar source (R45). -/
def Arch.src (a : Arch) : SSrc → Word
  | .x n => a.rx n.val
  | .li n => a.li n.val

def Arch.pred (a : Arch) (n : Nat) : Bool := a.p.getLsbD n

/-- The physical register a v or g name selects under RRB (R95). -/
def physReg (rrb n : Nat) : Nat := if n < 32 then n else 32 + (n - 32 + 256 - rrb % 256) % 32
def Arch.phys (a : Arch) (n : Nat) : Nat := physReg a.rrb n
def Arch.rv (a : Arch) (n : Nat) : Vec := rd a.v (a.phys n)
def Arch.rg (a : Arch) (n : Nat) : Vec := rd a.g (a.phys n)
/-- m0 reads as all ones (R121). -/
def Arch.rm (a : Arch) (n : Nat) : Mask := if n = 0 then BitVec.allOnes 512 else rd a.m n

/-- Bit n of the predicate file set or cleared; p0 never changes (R93). -/
def setPred (p : BitVec 16) (n : Nat) (b : Bool) : BitVec 16 :=
  if n = 0 || n ≥ 16 then p
  else if b then p ||| BitVec.ofNat 16 (2 ^ n) else p &&& ~~~(BitVec.ofNat 16 (2 ^ n))

/-- p1 to p3 from the innermost open level (R94). -/
def Arch.derive (a : Arch) : Arch :=
  let (f, o, m) :=
    if a.ldepth = 0 then (true, true, false)
    else
      let l := nth {} a.levels (a.ldepth - 1)
      (l.first, decide (l.cnt = 1), decide (l.cnt > 1))
  { a with p := setPred (setPred (setPred a.p 1 f) 2 o) 3 m }

/-- The stage advance of R95 with the new stage bit 0. -/
def Arch.advance (a : Arch) (b : Bool) : Arch :=
  let st := a.p.toNat / 256
  let st' := (2 * st + (if b then 1 else 0)) % 256
  { a with p := BitVec.ofNat 16 (a.p.toNat % 256 + 256 * st'), rrb := (a.rrb + 1) % 256 }

/-- A predicate destination as it lands: a stage bit for p8 to p15 (R95). -/
def predDest (n : Nat) : Dest := if n < 8 then .p n else .stage (n - 8)

/-- No taken branch has its delay bundles or its target still to issue (R40, R297). -/
def Fetch.straight (f : Fetch) : Bool := f.d1.isNone && f.d2.isNone && f.br.isNone

/-! ### Outcomes of an issue -/

/-- A fault as its operation raises it: the code of R359, the slot, and what TRAPC, TRAPVA and the notice hold. -/
structure FaultReq where
  code : Nat
  slot : Nat := 0
  imm : Nat := 0
  va : Option Nat := none
  cause : Nat := 0
  rev : Bool := false
  /-- the bundle index to record, when it is not the bundle in issue -/
  bundle : Option Nat := none
deriving DecidableEq, Repr, Inhabited

/-- What an operation does at its issue: it goes on, it raises a fault, or its core cannot issue the bundle yet. -/
inductive Res where
  | ok (s : State)
  | fault (f : FaultReq)
  | stall (w : Wait)
deriving Inhabited

/-- The meaning of a slot operation: the state, and the task that issues it. -/
abbrev Issue := State → Task → Res

def Res.bind (r : Res) (f : State → Res) : Res :=
  match r with
  | .ok s => f s
  | .fault q => .fault q
  | .stall w => .stall w

/-- A fault of the slot in issue. -/
def State.fail (s : State) (code : Nat) : Res := .fault { code, slot := s.slot.code }

/-- The slot acts only when its predicate is true (R34). -/
def whenPred (p : Fin 16) (f : Issue) : Issue := fun s t => if t.arch.pred p.val then f s t else .ok s

/-- A result made at this issue: its landing with the issue's identity. -/
def State.landing (s : State) (t : Task) (r : Landing) : Landing :=
  { r with bundle := t.fetch.pc, slot := s.slot.code, issued := s.now, timed := t.timed, id := s.seq
           time := s.gcc s.at_ t % 2 ^ 24, pos := (t.arch.blk.map (·.n)).getD 0 }

/-- Posts a landing of the core in issue, `lat` cycles from now (R91). -/
def State.emit (s : State) (t : Task) (lat : Nat) (r : Landing) : State :=
  s.postLanding s.at_ (s.now + lat) (s.landing t r)

/-- A scalar result (R91). -/
def State.emitX (s : State) (t : Task) (lat : Nat) (d : Nat) (v : Word) : State :=
  s.emit t lat { dest := .x d, val := v.setWidth 4096 }

/-- A predicate result (R91, R95). -/
def State.emitP (s : State) (t : Task) (lat : Nat) (d : Nat) (b : Bool) : State :=
  s.emit t lat { dest := predDest d, val := if b then 1 else 0 }

/-- A vector result on the physical register its name selects at issue (R125). -/
def State.emitV (s : State) (t : Task) (lat : Nat) (d : Nat) (v : Vec) (m : Mask) (evs : List (Nat × Nat)) : State :=
  s.emit t lat { dest := .v (t.arch.phys d), val := v, en := m, evs }

/-! ### Statistics records (R248 to R250) -/

/-- A record (R248). -/
def statRecord (kind : Nat) (rev timed : Bool) (slot cnt loc time : Nat) : Word :=
  BitVec.ofNat 64 (time % 2 ^ 24 + loc % 2 ^ 16 * 2 ^ 24 + Nat.min cnt 1023 * 2 ^ 40 + slot % 16 * 2 ^ 50
    + bit timed * 2 ^ 54 + bit rev * 2 ^ 55 + kind * 2 ^ 56)

/-- Drops what does not fit once its cycle has passed: the queue holds 64 records (R250). -/
def Task.settleStq (t : Task) (now : Nat) : Task :=
  let old := t.stq.filter fun e => e.1 < now
  let cur := t.stq.filter fun e => !(e.1 < now)
  { t with stq := old.take 64 ++ cur
           ctl := { t.ctl with stqlost := Nat.min (t.ctl.stqlost + (old.length - 64)) (2 ^ 32 - 1) } }

/-- Two event records of one slot operation's issue: all but the counts agree (R88). -/
def sameIssue (a b : Word) : Bool :=
  let k := a.toNat / 2 ^ 56
  decide (0x10 ≤ k ∧ k ≤ 0x15) && decide (a.toNat / 2 ^ 50 % 16 ≤ 8) && decide (a.toNat / 2 ^ 50 = b.toNat / 2 ^ 50) &&
    decide (a.toNat % 2 ^ 40 = b.toNat % 2 ^ 40)

/-- The record of both counts. -/
def addCnt (a b : Word) : Word :=
  let c := a.toNat / 2 ^ 40 % 1024
  a + BitVec.ofNat 64 ((Nat.min (c + b.toNat / 2 ^ 40 % 1024) 1023 - c) * 2 ^ 40)

/-- A record enters in the order of its cycle; an operation that lands in two rows records each kind once (R88, R249). -/
def stqInsert (e : Nat × Nat × Word) : List (Nat × Nat × Word) → List (Nat × Nat × Word)
  | [] => [e]
  | x :: r => if x.1 = e.1 && x.2.1 = e.2.1 && sameIssue x.2.2 e.2.2 then (x.1, x.2.1, addCnt x.2.2 e.2.2) :: r
    else if e.1 < x.1 || (e.1 = x.1 && e.2.1 < x.2.1) then e :: x :: r else x :: stqInsert e r

/-- A record pushed in this cycle; `key` orders the records of one cycle (R249). -/
def Task.record (t : Task) (now key : Nat) (w : Word) : Task :=
  let t := t.settleStq now
  { t with stq := stqInsert (now, key, w) t.stq }

/-- The place of a record among those of its cycle: the core's slots, then the slice's ports, then its kind (R249). The
bank controller is port 25 (R180). -/
def recKey (slot port kind : Nat) : Nat := slot * 2 ^ 16 + port * 2 ^ 8 + kind

/-- The events of one operation, each kind with its count, recorded now (R87, R88). -/
def Task.events (t : Task) (now : Nat) (slot : Nat) (rev timed : Bool) (loc time : Nat) :
    List (Nat × Nat) → Task
  | [] => t
  | (k, n) :: r =>
    Task.events (t.record now (recKey slot (if slot = 9 then 25 else 0) k) (statRecord k rev timed slot n loc time)) now slot
      rev timed loc time r

/-- The kinds of R87 with their counts over lanes: one pair for each kind some enabled lane raised. -/
def kindCounts (l : List (Bool × Evs)) : List (Nat × Nat) :=
  ([(0x10, 0), (0x11, 1), (0x12, 2), (0x13, 3), (0x14, 4), (0x15, 5)] : List (Nat × Nat)).filterMap fun (k, b) =>
    let n := (l.filter fun e => e.1 && (e.2 >>> b) % 2 = 1).length
    if n = 0 then none else some (k, n)

/-! ### Checkpoint, rollback, fault, return (R182 to R184, R361, R448) -/

/-- The landings a carry covers (R448). -/
def destCarried : Dest → Bool
  | .x _ => true | .p _ => true | .stage _ => true | .m _ => true | .v _ => true | .g _ => true | .acc _ => true
  | .plane => true | .creg _ => true | .afmt => true | .bind _ => true
  | _ => false

/-- The carry of a checkpoint in this cycle: every covered result of the core still in flight (R448). -/
def carryOf (now : Nat) (l : Loc) (cal : List Ev) : List Late :=
  cal.filterMap fun e =>
    if e.owner = some l then
      match e.what with
      | .resultLanding _ r => if destCarried r.dest then some { id := r.id, r := e.due - (now + 1), land := r } else none
      | .accessPerform a =>
        match a.land with
        | some r => if destCarried r.dest then some { id := r.id, r := e.due - (now + 1), land := r, done := false } else none
        | none => none
      | _ => none
    else none

/-- Whether an entry of a result queue was popped before, at a checkpoint: it is gone then (R151). -/
def RQueue.settle (q : RQueue) : RQueue := { q with ents := q.ents.drop q.popped, popped := 0 }

/-- The segments that start below an offset of the stack (R257). -/
def liveSegs (top : Nat) (m : Map Seg) : Map Seg := m.filter fun e => e.1 * 4096 < top

/-- The shadow set takes the architectural state (R184), the undo buffer and the row count are emptied (R183). -/
def takeCheckpoint (now : Nat) (l : Loc) (cal : List Ev) (t : Task) : Task :=
  let qs := t.mat.queues.map RQueue.settle
  { t with
    mat := { t.mat with queues := qs }
    shadow := { arch := t.arch, fetch := t.fetch, carry := carryOf now l cal, qlens := qs.map fun q => q.ents.length
                at_ := now, top := t.arch.top }
    res := { t.res with saved := [], segs := liveSegs t.arch.top t.res.segs }
    undo := [], rows := [] }

/-- Accumulator rows and their flags as the undo buffer holds them (R183). -/
def undoRows (acc : Map Vec) : List Undo → Map Vec
  | [] => acc
  | u :: r => undoRows (mset acc u.row u.val) r

/-- A unit whose stream is unbound: what it read ahead is discarded, the pushes made already still drain (R192, R203). -/
def freeUnit (u : StrmUnit) : StrmUnit :=
  { drain := u.drain, mule := if u.drain.isEmpty then none else u.mule }

/-- The read-ahead buffers are discarded and fetching starts again (R245). -/
def restartUnit (k : Nat) (u : StrmUnit) : StrmUnit :=
  { u with next := k, busy := false, ahead := [], mule := if u.drain.isEmpty then none else u.mule }

/-- The rollback of R184: the shadow set, the undo buffer, the queue pointers and the streams. -/
def Task.rollback (t : Task) : Task :=
  let sh := t.shadow
  { t with
    arch := sh.arch
    fetch := sh.fetch
    sbuf := [], psends := [], fsts := []
    undo := [], rows := []
    res := { t.res with saved := [], later := [], segs := liveSegs sh.arch.top t.res.segs }
    mat := { t.mat with
      acc := undoRows t.mat.acc t.undo
      queues := List.zipWith (fun (q : RQueue) n => { q with ents := q.ents.take n, popped := 0 }) t.mat.queues sh.qlens }
    units := List.zipWith (fun (u : StrmUnit) (z : Strm) => restartUnit z.k u) t.units sh.arch.strms }

/-- An access that a rollback or the end of its task leaves to perform: ATOMV's, whose own bundle released it (R184,
R361). -/
def accStands : AccOp → Bool
  | .atom _ => true
  | _ => false

/-- The events of a core that a rollback discards: results issued after the checkpoint, results whose value the carry
holds, fetches of its streams, and its next issue (R184, R245, R448). -/
def rolledBack (l : Loc) (sh : Shadow) (e : Ev) : Bool :=
  match e.what with
  | .resultLanding k r => k = l && (destCarried r.dest || decide (r.issued > sh.at_))
  | .accessPerform a =>
    (a.src = some l && match a.op with | .fetch _ _ => true | _ => false) ||
    (e.owner = some l && !accStands a.op && (match a.land with
      | some r => if destCarried r.dest then !(sh.carry.any fun c => c.id = r.id) else decide (r.issued > sh.at_)
      | none => false))
  | .bundleIssue => e.place = l
  | .stallEnd => e.place = l
  | .streamFetch k _ => k = l
  | .wfeWake => e.place = l
  | .alignWaitEnd => e.place = l
  | .texitHoldEnd => e.place = l
  | .cwaitSatisfied => e.place = l
  | .fenceComplete => e.place = l
  | .commandAcceptance => e.place = l
  | .reversePosition => e.place = l
  | .replayPosition => e.place = l
  | _ => false

/-- Precise-recoverable codes in free code (R359). -/
def preciseCode (c : Nat) : Bool := c = 0x1B || c = 0x20 || c = 0x21
/-- Context-fatal and remote-fatal codes (R359). -/
def contextCode (c : Nat) : Bool := c = 0x2C || c = 0x2D || c = 0x2E

/-- Severity for R363: context-fatal, remote-fatal, region-fatal, task-fatal, precise-recoverable. -/
def severity (timed : Bool) (c : Nat) : Nat :=
  if c = 0x2D || c = 0x2E then 5 else if c = 0x2C then 4 else if timed then 3 else if preciseCode c then 1 else 2

/-- Of two faults of one bundle, the one it reports (R363). -/
def worse (timed : Bool) (a b : FaultReq) : FaultReq :=
  if severity timed a.code < severity timed b.code then b
  else if severity timed b.code < severity timed a.code then a
  else if b.slot < a.slot then b else a

/-- TRAPC (R113). -/
def trapcWord (code imm bundle : Nat) : Word :=
  BitVec.ofNat 64 (bundle % 2 ^ 15 + imm % 2 ^ 16 * 2 ^ 16 + code % 2 ^ 16 * 2 ^ 32)

/-- A 64 B error record from its fields (R254). -/
def errRecord (type unit_ asidf code addr gcc origin : Nat) (detail : List (Nat × Nat)) : BitVec 512 :=
  BitVec.ofNat 512 (pack ([(16, type), (16, unit_), (16, asidf), (16, code), (64, addr), (64, gcc), (64, origin)] ++ detail))

/-- UNIT of a core or cluster unit (R254). -/
def unitField (u cluster n : Nat) : Nat := n % 256 + cluster % 16 * 256 + u * 4096

/-- Whether an error record may be discarded: correctable records and notices (R252). -/
def recDiscardable (type : Nat) : Bool := type = 1 || type = 3 || type = 10

/-- A host event, signalled on its vector (R444). -/
def State.hostEvent (s : State) (v : Nat) : State := { s with host := { s.host with events := s.host.events ++ [v] } }

/-- An error record enters its die's queue, waits, or is lost (R252). -/
def State.errPush (s : State) (d type : Nat) (r : BitVec 512) : State :=
  let q := (s.die d).erecs
  let disc := (q.filter fun x => recDiscardable (x.toNat % 65536)).length
  let s :=
    if recDiscardable type then
      if disc ≥ 224 || q.length ≥ 256 then s.modDie d fun x => { x with erlost := x.erlost + 1 }
      else s.modDie d fun x => { x with erecs := x.erecs ++ [r] }
    else if q.length ≥ 256 then s.modDie d fun x => { x with ewait := x.ewait ++ [r] }
    else s.modDie d fun x => { x with erecs := x.erecs ++ [r] }
  let s := if (s.die d).erecs.length = 192 ∧ q.length = 191 then s.hostEvent 0 else s
  if type = 2 || type = 4 || type = 5 then s.hostEvent 0 else s

/-- A launch record enters its die's queue; when it is full the oldest is lost (R252). -/
def State.launchPush (s : State) (d : Nat) (r : BitVec 1024) : State :=
  let q := (s.die d).lrecs
  let s := s.modDie d fun x =>
    if x.lrecs.length ≥ 512 then { x with lrecs := x.lrecs.drop 1 ++ [r], lrlost := x.lrlost + 1 }
    else { x with lrecs := x.lrecs ++ [r] }
  if q.length = 383 then s.hostEvent 0 else s

/-- The fault notice of R364: the launch, the cause and the slot take bytes 24 to 31 of the record. -/
def notice (l : Loc) (t : Task) (f : FaultReq) (bundle gcc : Nat) : BitVec 512 :=
  errRecord 10 (unitField 15 (l.core / 32) (l.core % 32)) (t.ctl.asid + 2 ^ 15) f.code bundle gcc
    (pack [(32, t.launch), (16, f.cause), (4, f.slot), (1, bit f.rev), (1, bit t.timed), (10, 0)])
    [(64, (trapcWord f.code f.imm bundle).toNat), (64, f.va.getD 0)]

/-- The first fault of a launch by R362: lowest GCC, then die, then core. -/
def firstFault (a : Option (Nat × Nat × Nat × Nat)) (b : Nat × Nat × Nat × Nat) : Option (Nat × Nat × Nat × Nat) :=
  match a with
  | none => some b
  | some x =>
    if b.1 < x.1 || (b.1 = x.1 && (b.2.1 < x.2.1 || (b.2.1 = x.2.1 && b.2.2.1 < x.2.2.1))) then some b else some x

/-- The bytes of popped items that pushes have reused are put back (R277). -/
def restoreSaved (m : Mem) : List (Nat × Nat) → Mem
  | [] => m
  | (a, v) :: r => restoreSaved (Mem.wrNum m a v 64) r

/-- TAKING A FAULT, one operation for every task fault (R113, R120, R184, R361 to R364). In free code the task is rolled
back. TRAPC, and TRAPVA where the fault names an address, are written. A precise-recoverable fault holds the task; any
other ends it and, through Ebile, its launch. A notice is written. -/
def takeFault (s : State) (l : Loc) (f : FaultReq) : State :=
  match s.task l with
  | none => s
  | some t =>
    let bundle := f.bundle.getD t.fetch.pc
    let gcc := s.gcc l t
    let held := !t.timed && preciseCode f.code
    let t1 := if t.timed then t else t.rollback
    let t2 := { t1 with
      ctl := { t1.ctl with trapc := trapcWord f.code f.imm bundle
                           trapva := match f.va with
                             | some v => BitVec.ofNat 64 v
                             | none => t1.ctl.trapva }
      wait := .none
      phase := if held then .held else .ended }
    let s1 := { s with calendar := s.calendar.filter fun e => !rolledBack l (if t.timed then {} else t.shadow) e }
    let s2 := (s1.setTask l t2).modDie l.die fun d =>
      let d := { d with cmds := d.cmds.filter fun e => !(e.2.loc = l && !e.2.acc && e.2.n > 0) }
      if t.timed then d else { d with scratch := restoreSaved d.scratch t.res.saved }
    let s3 := s2.errPush l.die 10 (notice l t f bundle gcc)
    if held then s3
    else
      let (n, s4) := s3.nextFree
      let s5 := s4.modLaunch t.launch fun x => { x with fault := firstFault x.fault (gcc, l.die, l.core, f.code) }
      s5.postUnit (s5.now + 1 + n % 4096) rkSwap (.faultPropagation t.launch)

/-- A load of a carry that has not performed yet lands no earlier than its carried cycle (R448). -/
def landLater (id due : Nat) (e : Ev) : Ev :=
  match e.what with
  | .accessPerform a =>
    match a.land with
    | some r => if r.id = id then { e with what := .accessPerform { a with land := some { r with lands := due } } } else e
    | none => e
  | _ => e

/-- THE RETURN FROM A HELD FAULT, or from a save: the next bundle issues at `q`, every carried landing lands at its
offset from it, streams fetch again from their restored positions (R245, R305, R448). -/
def resumeAt (s : State) (l : Loc) (q : Nat) : State :=
  match s.task l with
  | none => s
  | some t =>
    let s1 := s.setTask l { t with phase := .running, wait := .none }
    let s2 := t.shadow.carry.foldl
      (fun (st : State) c =>
        if c.done then st.postLanding l (q + c.r) c.land
        else { st with calendar := st.calendar.map (landLater c.id (q + c.r)) }) s1
    let s3 := (List.range 8).foldl
      (fun (st : State) z => if (nth {} t.arch.strms z).valid
        then st.postUnit q rkDrain (.streamFetch l (Fin.ofNat 8 z)) else st) s2
    if t.arch.walk.mode == .reverse then
      (s3.modTask l fun t => { t with wait := .walk }).postCore l q rkWalk .reversePosition
    else if t.arch.walk.mode == .replay then
      (s3.modTask l fun t => { t with wait := .walk }).postCore l q rkIssue .replayPosition
    else s3.postIssue q l

/-! ### Stalls (R153, R179) -/

/-- The hop count between clusters (R174). -/
def hops (c d : Nat) : Nat :=
  ((c % 4 - d % 4) + (d % 4 - c % 4)) + ((c / 4 - d / 4) + (d / 4 - c / 4))

/-- The phase wait of the mesh from cluster c to d for a start in this GCC (R179). -/
def phaseWait (c d gcc : Nat) : Nat := (d + 16 - c % 8 - gcc % 8) % 8

/-- The cluster and the core of a scratch address (R173). -/
def saCluster (a : Nat) : Nat := a / 2 ^ 26 % 8
def saCore (a : Nat) : Nat := a / 2 ^ 21 % 32
def saOffset (a : Nat) : Nat := a % 2 ^ 21
def saSlice (a : Nat) : Nat := a / 2 ^ 21 % 256

/-- The distance part of an access's latency (R178): 0 in the own slice, 4 in the cluster, 4 + 4h and the phase wait
outside. -/
def placeLat (core addr gcc : Nat) : Nat :=
  if saSlice addr = core then 0
  else if saCluster addr = core / 32 then 4
  else 4 + 4 * hops (core / 32) (saCluster addr) + phaseWait (core / 32) (saCluster addr) gcc

/-- A landing that a stall of its core does not hold: the descriptor of a SBIND on its way to the stream's transfer unit,
and the data of a push that a checkpoint has released, which the push's own place in memory waits for (R243, R244; log
entries 5 and 24). -/
def Task.lets (t : Task) : Dest → Bool
  | .bind _ => true
  | .push z k => !t.sbuf.any fun a => !a.ready && a.cmd = some (z * 2 ^ 32 + k)
  | _ => false

/-- An event of a core that its stall does not hold: those landings, the one that an FLD or FATOM waits for (R322), and in
the wait of a FENCE the ATOMVs that it may wait for (R236; log entry 20). -/
def Task.goesOn (t : Task) (e : Ev) : Bool :=
  match e.what with
  | .resultLanding _ r => t.lets r.dest || t.wait = .remote r.id
  | .accessPerform a => a.land.any (t.lets ·.dest) || (accStands a.op && match t.wait with | .fence _ _ => true | _ => false)
  | _ => false

/-- An event of a core one cycle later, or earlier again; an access to another cluster takes its phase wait afresh from its
new start (R153, R179). -/
def shiftEv (up : Bool) (gccBase : Int) (e : Ev) : Ev :=
  match e.what with
  | .accessPerform a =>
    match a.src with
    | some l =>
      let st := if up then a.start + 1 else a.start - 1
      { e with what := .accessPerform { a with start := st }
               due := st + a.lat + placeLat l.core a.shape.base (wrap64 (st + gccBase)) }
    | none => { e with due := if up then e.due + 1 else e.due - 1 }
  | _ => { e with due := if up then e.due + 1 else e.due - 1 }

/-- The holds and ready cycles of a task one cycle later, or earlier again: those that this cycle, or the one it gives back,
had not yet passed (R153). -/
def Task.shiftMat (t : Task) (up : Bool) (now : Nat) : Task :=
  let ready (n : Nat) : Nat := if up then (if n > now then n + 1 else n) else if n > now + 1 then n - 1 else n
  let held (n : Nat) : Nat := if up then (if n ≥ now then n + 1 else n) else if n ≥ now + 1 then n - 1 else n
  { t with mat := { t.mat with
      heldTo := held t.mat.heldTo
      queues := t.mat.queues.map fun q => { q with ents := q.ents.map fun e => { e with ready := ready e.ready } } } }

/-- Everything in flight in a core moves by one cycle. -/
def shiftCore (up : Bool) (s : State) (l : Loc) : State :=
  match s.task l with
  | none => s
  | some t =>
    let base : Int := (s.die l.die).lcc + t.ctl.dlt
    let first := if up then s.now + 1 else s.now + 2
    let moves (e : Ev) : Bool := e.owner = some l && decide (e.due ≥ first) && !t.goesOn e
    let mine := s.calendar.filter moves
    let rest := s.calendar.filter fun e => !moves e
    let s1 := { s with calendar := mine.foldl (fun c e => calInsert (shiftEv up base e) c) rest }
    s1.modTask l fun t => t.shiftMat up s.now

/-- One cycle in which nothing in flight in the core advances (R153): results, loads, A-row arrivals, holds and ready
cycles each move one cycle later. Released stores are no part of it (log entry 5). -/
def delayCore (s : State) (l : Loc) : State := shiftCore true s l

/-- One cycle that a stall took from a core is given back: its bundle issues in that cycle after all. -/
def undelayCore (s : State) (l : Loc) : State := shiftCore false s l

end Sys2Proof.Machine
end

