-- ==== Sys2Proof/Machine/Memory.lean ====
section
/-! DEFINITION. Main memory and its names: device physical addresses (R199), page walks and permissions (R311 to R316),
apertures (R317), handles (R200, R201, R323, R324), shadow map entries (R325, R326), and the errors of the arrays (R195,
R205). -/

namespace Sys2Proof.Machine

/-! ### Dies and device physical addresses (R199, R329) -/

/-- Die B of a module has an odd x coordinate (R329). -/
def isDieB (xyz : Nat) : Bool := xyz / 64 % 2 = 1
/-- The other die of the module. -/
def sibling (xyz : Nat) : Nat := if isDieB xyz then xyz - 64 else xyz + 64

def dpaRegion (a : Nat) : Nat := a / 2 ^ 48
def dpaCxl (a : Nat) : Bool := dpaRegion a = 2 || dpaRegion a = 3
def dpaHbm (a : Nat) : Bool := dpaRegion a < 2

/-- The DPA names a block of this die's HBM4, or of the memory behind its CXL port (R199). -/
def dpaOwn (xyz a : Nat) : Bool :=
  let b := if isDieB xyz then 1 else 0
  (dpaRegion a = b && bits a 47 38 = 0) || dpaRegion a = b + 2

def dpaStack (a : Nat) : Nat := bits a 37 36
/-- The 1 KiB chunk number K. -/
def dpaChunk (a : Nat) : Nat := bits a 35 10
def dpaPc (a : Nat) : Nat := bits (dpaChunk a) 5 0 ^^^ bits (dpaChunk a) 16 11
def dpaBank (a : Nat) : Nat := bits (dpaChunk a) 10 6
def dpaRow (a : Nat) : Nat := bits (dpaChunk a) 25 11

/-! ### Page tables (R311 to R313) -/

/-- The lowest bit of a level's index: a leaf there maps this many low bits. -/
def levelShift (l : Nat) : Nat :=
  if l = 1 then 36 else if l = 2 then 30 else if l = 3 then 21 else 16

/-- The level whose leaves have the page size of a size code (R437). -/
def sizeLevel (code : Nat) : Nat := 4 - code

/-- Where the model keeps the entry of a level for an address: the level and the index bits from the root down. -/
def pteKey (l va : Nat) : Nat := l * 2 ^ 36 + va / 2 ^ levelShift l

/-- Bytes of a table of a level, to which it is aligned (R311). -/
def tableSize (l : Nat) : Nat := if l = 1 then 2 ^ 19 else if l = 2 then 512 else if l = 3 then 4096 else 256

def apValid (e : BitVec 128) : Bool := bits e.toNat 79 79 = 1
def apDie (e : BitVec 128) : Nat := bits e.toNat 72 64
def apAsid (e : BitVec 128) : Nat := bits e.toNat 88 80
def apOffset (e : BitVec 128) : Nat := bits e.toNat 51 0

/-- The entry of an aperture table, when it is valid. -/
def aperture (c : Context) (n : Nat) : Option (BitVec 128) :=
  match mget c.apertures n with
  | some e => if n ≠ 0 && apValid e then some e else none
  | none => none

def pteV (e : Nat) : Bool := e % 2 = 1
def pteLeaf (e : Nat) : Bool := e / 2 % 2 = 1
def pteR (e : Nat) : Bool := bits e 2 2 = 1
def pteW (e : Nat) : Bool := bits e 3 3 = 1
def pteRA (e : Nat) : Bool := bits e 4 4 = 1
def pteC (e : Nat) : Bool := bits e 5 5 = 1
def ptePin (e : Nat) : Bool := bits e 6 6 = 1
def pteApr (e : Nat) : Nat := bits e 15 8
/-- DPA[51:16] in place. -/
def ptePage (e : Nat) : Nat := bits e 51 16 * 2 ^ 16

/-- A leaf at a level breaks a rule of R313. -/
def leafBad (xyz : Nat) (c : Context) (l e : Nat) : Bool :=
  bits e 63 52 != 0 || bits e 7 7 != 0 ||
  (if pteApr e = 0 then
    ptePage e % 2 ^ levelShift l != 0 || !dpaOwn xyz (ptePage e) || (pteC e && !dpaCxl (ptePage e))
  else ptePage e != 0 || pteC e || (aperture c (pteApr e)).isNone)

/-- A table entry at a level breaks a rule of R313. -/
def tableBad (xyz l e : Nat) : Bool :=
  bits e 63 52 != 0 || bits e 7 2 != 0 ||
  (let a := bits e 51 8 * 256; a % tableSize (l + 1) != 0 || !dpaOwn xyz a || !dpaHbm a)

/-- The walk from level l over n levels: the leaf with its level, or the cause. -/
def walkGo (xyz : Nat) (c : Context) (va : Nat) : Nat → Nat → Except Nat (Nat × Nat)
  | 0, _ => .error 3
  | n + 1, l =>
    let e := ((mget c.ptes (pteKey l va)).getD 0).toNat
    if !pteV e then .error 1
    else if pteLeaf e then if leafBad xyz c l e then .error 3 else .ok (e, l)
    else if l = 4 || tableBad xyz l e then .error 3
    else walkGo xyz c va n (l + 1)

/-- The walk of a virtual address (R311, R313). -/
def pageWalk (xyz : Nat) (c : Context) (va : Nat) : Except Nat (Nat × Nat) :=
  if va ≥ 2 ^ 52 then .error 3 else walkGo xyz c va 4 1

/-- What a translation gives: a local page, an aperture leaf, a fault cause of R314, or a missing RA. -/
inductive Xlate where
  | dpa (a : Nat)
  | away (e : BitVec 128) (ra : Bool)
  | bad (cause : Nat)
deriving DecidableEq, Repr, Inhabited

/-- The translation of an access of a context on a die, with the permissions it needs (R314). -/
def xlate (s : State) (xyz asid va : Nat) (r w : Bool) : Xlate :=
  match s.ctx xyz asid with
  | none => .bad 1
  | some c =>
    match pageWalk xyz c va with
    | .error k => .bad k
    | .ok (e, l) =>
      if (r && !pteR e) || (w && !pteW e) then .bad 2
      else if pteApr e != 0 then
        match aperture c (pteApr e) with
        | some a => .away a (pteRA e)
        | none => .bad 3
      else .dpa (ptePage e + va % 2 ^ levelShift l)

/-- The translation for a unit other than FLD, FST and FATOM: an aperture leaf is cause 5 (R314). -/
def xlateUnit (s : State) (xyz asid va : Nat) (r w : Bool) : Except Nat Nat :=
  match xlate s xyz asid va r w with
  | .dpa a => .ok a
  | .away _ _ => .error 5
  | .bad k => .error k

/-- A page of a gang's list covers the address: its translation stands in the pinned store (R316). -/
def pinnedFor (d : Die) (launch va : Nat) : Bool :=
  d.pins.any fun p => p.1 = launch && p.2.1 / 2 ^ levelShift p.2.2 = va / 2 ^ levelShift p.2.2

/-- The translation of a timed access: only through the store entries of the gang's own list (R316). -/
def xlateTimed (s : State) (xyz asid launch va : Nat) (r w : Bool) : Except Nat Nat :=
  if va ≥ 2 ^ 52 then .error 3
  else if !pinnedFor (s.die xyz) launch va then .error 4
  else
    match xlateUnit s xyz asid va r w with
    | .ok a => if dpaCxl a then .error 4 else .ok a
    | .error k => .error k

/-- The smallest pages of a range: each 64 KiB piece with an address in the range. -/
def rangePages (a n : Nat) : List Nat :=
  if n = 0 then [] else (List.range ((a + n - 1) / 65536 - a / 65536 + 1)).map fun i => Nat.max a ((a / 65536 + i) * 65536)

/-- The first cause that one of these addresses raises for a unit, with the address, or none. -/
def pagesCause (s : State) (xyz asid : Nat) (ps : List Nat) (r w : Bool) : Option (Nat × Nat) :=
  ps.findSome? fun p =>
    match xlateUnit s xyz asid p r w with
    | .ok _ => none
    | .error k => some (p, k)

/-- The first cause that a virtual range raises for a unit, with its address, or none. -/
def rangeCause (s : State) (xyz asid a n : Nat) (r w : Bool) : Option (Nat × Nat) :=
  pagesCause s xyz asid (rangePages a n) r w

/-- A migrate command holds a page of a virtual range (R320). -/
def held (s : State) (xyz asid a n : Nat) : Bool :=
  match s.host.hold with
  | some (d, c, lo, m) => d = xyz && c = asid && a < lo + m && lo < a + n
  | none => false

/-- The last-level TLB as a walk fills it: the newest entries by ASID, level and page (R310). -/
def tlbFill (s : State) (xyz asid va : Nat) : State :=
  match s.ctx xyz asid with
  | none => s
  | some c =>
    match pageWalk xyz c va with
    | .error _ => s
    | .ok (_, l) =>
      let cap := if l = 1 then 64 else if l = 2 then 512 else if l = 3 then 2048 else 4096
      let e := (asid, l, va / 2 ^ levelShift l)
      s.modDie xyz fun d =>
        let same := (d.tlb.filter fun x => x.2.1 = l && x != e).take (cap - 1)
        { d with tlb := e :: same ++ d.tlb.filter fun x => x.2.1 != l }

/-- The walks of a range fill the TLB. -/
def tlbFillRange (s : State) (xyz asid a n : Nat) : State :=
  (rangePages a n).foldl (fun st p => tlbFill st xyz asid p) s

/-- Ebile invalidates every cached copy of an entry: in the TLB, and what the Mule pairs hold for the context's streams
(R212, R315). -/
def tlbDrop (s : State) (xyz asid l va : Nat) : State :=
  s.modDie xyz fun d => { d with
    tlb := d.tlb.filter fun x => x != (asid, l, va / 2 ^ levelShift l)
    tasks := d.tasks.map fun e =>
      if e.2.ctl.asid = asid then (e.1, { e.2 with units := e.2.units.map fun u => { u with pages := [] } }) else e }

/-! ### Shadow map entries (R325, R326) -/

def shV (e : BitVec 256) : Nat := bits e.toNat 63 0
def shS (e : BitVec 256) : Nat := bits e.toNat 127 64
def shSize (e : BitVec 256) : Nat := bits e.toNat 159 128 * 64
def shCount (e : BitVec 256) : Nat := bits e.toNat 191 160
def shValid (e : BitVec 256) : Bool := bits e.toNat 192 192 = 1
def shSide (e : BitVec 256) : Bool := bits e.toNat 193 193 = 1
def shVirt (e : BitVec 256) : Bool := bits e.toNat 194 194 = 1

def inRange (a b n : Nat) : Bool := b ≤ a && a < b + n

/-- The entry whose visible or shadow range holds the address. -/
def shadowOf (es : Map (BitVec 256)) (virt : Bool) (a : Nat) : Option (Nat × BitVec 256) :=
  es.find? fun e => shValid e.2 && shVirt e.2 == virt && (inRange a (shV e.2) (shSize e.2) || inRange a (shS e.2) (shSize e.2))

/-- The store an address reaches under the entries' sides (R326). -/
def remap (es : Map (BitVec 256)) (virt : Bool) (a : Nat) : Nat :=
  match shadowOf es virt a with
  | none => a
  | some (_, e) =>
    if !shSide e then a
    else if inRange a (shV e) (shSize e) then a - shV e + shS e
    else a - shS e + shV e

/-- The entry whose shadow name is the address, when it is one (R226, R229). -/
def shadowNamed (es : Map (BitVec 256)) (virt : Bool) (a : Nat) : Option Nat :=
  match shadowOf es virt a with
  | some (n, e) => if inRange a (shS e) (shSize e) then some n else none
  | none => none

/-- The shadow name of an address in an entry's visible range, for a range that lies within it (R211). -/
def toShadow (e : BitVec 256) (virt : Bool) (a n : Nat) : Option Nat :=
  if shValid e && shVirt e == virt && shV e ≤ a && a + n ≤ shV e + shSize e then some (a - shV e + shS e) else none

/-- The shadow map entries of a context on a die. -/
def shadowsOf (s : State) (xyz asid : Nat) : Map (BitVec 256) := ((s.ctx xyz asid).map (·.shadows)).getD []

/-- The swap of an entry: SIDE inverts and PCOUNT rises by 1 (R227, R326). -/
def swapEntry (e : BitVec 256) : BitVec 256 :=
  let n := e.toNat
  let side := if shSide e then n - 2 ^ 193 else n + 2 ^ 193
  BitVec.ofNat 256 (side - shCount e * 2 ^ 160 + (shCount e + 1) % 2 ^ 32 * 2 ^ 160)

/-- A chunk of the running timetable is published once an entry that names it swaps while it is ready (R348). -/
def publishChunks (d : Die) (asid e n : Nat) : Die :=
  match d.ttRun.bind fun i => mget d.tts i with
  | none => d
  | some tt =>
    if tt.asid != asid then d
    else { d with chunks := d.chunks.map fun c =>
      match (tt.chunks[c.1]?).bind (·.shdw) with
      | some x => if e ≤ x && x < e + n && c.2.ready.isSome then (c.1, { c.2 with pub := true }) else c
      | none => c }

/-- Entries e to e + n − 1 of a context swap; what launches wrote since is published (R227, R229). -/
def publishEntries (s : State) (xyz asid e n : Nat) : State :=
  let s1 := (s.modCtx xyz asid fun c =>
    { c with shadows := c.shadows.map fun x => if e ≤ x.1 && x.1 < e + n then (x.1, swapEntry x.2) else x }).modDie xyz fun d =>
    publishChunks d asid e n
  { s1 with launches := s1.launches.map fun x =>
      if x.2.asid = asid then
        (x.1, { x.2 with shadows := x.2.shadows.filter fun y => !(y.1 = xyz && e ≤ y.2 && y.2 < e + n) })
      else x }

/-- The launch has written into the entry's shadow since its last swap (R229). -/
def noteShadow (s : State) (xyz launch : Nat) (e : Option Nat) : State :=
  match e with
  | none => s
  | some n =>
    s.modLaunch launch fun x => if x.shadows.contains (xyz, n) then x else { x with shadows := x.shadows ++ [(xyz, n)] }

/-! ### Handles (R200, R201, R323) -/

def hBase (h : BitVec 512) : Nat := bits h.toNat 63 0
def hDim (h : BitVec 512) (d : Nat) : Nat := bits h.toNat (64 + 32 * d + 31) (64 + 32 * d)
def hPad (h : BitVec 512) : Nat := bits h.toNat 223 192
def hFmt (h : BitVec 512) : Option Fmt := Fmt.ofCode (bits h.toNat 229 224)
def hClass (h : BitVec 512) : Nat := bits h.toNat 234 232
def hRank (h : BitVec 512) : Nat := bits h.toNat 236 235 + 1
def hValid (h : BitVec 512) : Bool := bits h.toNat 256 256 = 1
def hReadOnly (h : BitVec 512) : Bool := bits h.toNat 257 257 = 1
def hDropped (h : BitVec 512) : Bool := bits h.toNat 258 258 = 1
def hShdw (h : BitVec 512) : Option Nat := if bits h.toNat 287 287 = 1 then some (bits h.toNat 283 272) else none

/-- Tile rows of a class (R200). -/
def tileRows (c : Nat) : Nat := if c = 0 then 1 else 4 * 2 ^ c
def hWidth (h : BitVec 512) : Nat := ((hFmt h).map fwidth).getD 8
/-- A tile's bytes. -/
def tileBytes (h : BitVec 512) : Nat := 16 * tileRows (hClass h) * hWidth h
def hNx (h : BitVec 512) : Nat := (hDim h 0 + 127) / 128
def hNy (h : BitVec 512) : Nat := (hDim h 1 + tileRows (hClass h) - 1) / tileRows (hClass h)
/-- The tiles of a tensor. -/
def hTiles (h : BitVec 512) : Nat := hNx h * hNy h * hDim h 2 * hDim h 3
/-- The elements of a tensor as stored, edge elements included. -/
def hElems (h : BitVec 512) : Nat := hTiles h * (128 * tileRows (hClass h))

/-- The linear index of a tile (R200). -/
def tileIndex (h : BitVec 512) (tx ty i2 i3 : Nat) : Nat := ((i3 * hDim h 2 + i2) * hNy h + ty) * hNx h + tx

/-- Bit n of the tile data at tile index T is of an edge element (R201). -/
def edgeElem (h : BitVec 512) (tile el : Nat) : Bool :=
  128 * (tile % hNx h) + el % 128 ≥ hDim h 0 || tileRows (hClass h) * (tile / hNx h % hNy h) + el / 128 ≥ hDim h 1

/-- For a 64 B block at byte offset `o` of the tensor: the elements in it, each with its width, and whether it is an
edge element; as the bit enables of the elements that are not, and the pad image of those that are. -/
def blockEdges (h : BitVec 512) (o : Nat) : Nat × Nat :=
  let w := hWidth h
  let n := 512 / w
  let b := tileBytes h
  let tile := o / b
  let first := (o % b) * 8 / w
  (List.range n).foldl (fun (acc : Nat × Nat) i =>
    if edgeElem h tile (first + i) then (acc.1, acc.2 + (hPad h % 2 ^ w) * 2 ^ (w * i))
    else (acc.1 + (2 ^ w - 1) * 2 ^ (w * i), acc.2)) (0, 0)

/-! ### Errors of the arrays (R195, R204, R205) -/

/-- A core has reached 16 correctable errors within 2^32 cycles of LCC: it is to be retired (R366). -/
def noteCoreErrors (s : State) (xyz core : Nat) : State :=
  let d := s.die xyz
  let recent := ((mget d.coreErr core).getD []).filter fun c => s.lcc xyz < c + 2 ^ 32
  if recent.length ≥ 16 && !d.toRetire.contains core && !d.absent.contains core then
    (s.modDie xyz fun d => { d with toRetire := d.toRetire ++ [core] }).postAt { die := xyz, core } s.now rkCount s.seq none .coreRetirement
  else s

/-- A correctable error of a slice word met by an access or the scrubber: corrected and recorded (R195, R366). -/
def correctWord (s : State) (xyz a : Nat) : State :=
  let d := s.die xyz
  match mget d.flips (a / 8 * 8) with
  | none => s
  | some _ =>
    let core := a / 2 ^ 26 * 32 + saCoreOf a
    let s1 := s.modDie xyz fun d => { d with
      flips := mdel d.flips (a / 8 * 8)
      coreErr := mset d.coreErr core (((mget d.coreErr core).getD []) ++ [s.lcc xyz]) }
    noteCoreErrors (s1.errPush xyz 1 (errRecord 1 (unitField 0 (a / 2 ^ 26) (saCoreOf a)) (tagField d a) 0 (a / 8 * 8) (s.grp xyz) 0 [])) xyz core
where
  saCoreOf (a : Nat) : Nat := a / 2 ^ 21 % 32
  /-- The owner's ASID with its valid bit, zero when no context owns the line (R254). -/
  tagField (d : Die) (a : Nat) : Nat :=
    match mget d.tags (a / 64) with
    | some t => t + 2 ^ 15
    | none => 0

/-- Every flipped word that an access over `n` bytes meets is corrected. -/
def correctRange (s : State) (xyz a n : Nat) : State :=
  if (s.die xyz).flips.isEmpty then s
  else ((s.die xyz).flips.filter fun e => a / 8 * 8 ≤ e.1 && e.1 < a + n).foldl (fun st e => correctWord st xyz e.1) s

/-- The contexts of a die that own a DPA: one of their local leaves maps it (R205). -/
def pageOwners (d : Die) (dpa : Nat) : List Nat :=
  (d.ctxs.filter fun c => c.2.ptes.any fun e =>
    let n := e.2.toNat
    pteV n && pteLeaf n && pteApr n = 0 && inRange dpa (ptePage n) (2 ^ levelShift (e.1 / 2 ^ 36))).map (·.1)

/-- A block with a correctable error that a read meets: corrected, recorded, and counted for its pseudo-channel, which 64
errors within 2^32 cycles of LCC retire (R204, R366). -/
def correctBlock (s : State) (xyz b : Nat) : State :=
  let d := s.die xyz
  if !d.mflips.contains b then s
  else
    let a := b * 64
    let key := dpaStack a * 64 + dpaPc a
    let seen := (((mget d.pcErr key).getD []).filter fun c => s.lcc xyz < c + 2 ^ 32) ++ [s.lcc xyz]
    let owner := match pageOwners d a with
      | o :: _ => o + 2 ^ 15
      | [] => 0
    let s1 := s.modDie xyz fun d => { d with mflips := d.mflips.filter (· != b), pcErr := mset d.pcErr key seen }
    let s2 := s1.errPush xyz 3 (errRecord 3 (unitField (if dpaHbm a then 7 else 8) (dpaStack a) (dpaPc a)) owner 0 a (s.grp xyz) 0 [])
    if dpaHbm a && seen.length ≥ 64 && !d.retiredPc.contains key then s2.postUnit s.now rkCount (.pseudoChannelRetirement xyz (dpaStack a) (dpaPc a))
    else s2

/-- A block of main memory is poisoned (R205). -/
def poisoned (d : Die) (dpa n : Nat) : Bool :=
  !d.poison.isEmpty && d.poison.any fun b => dpa / 64 ≤ b && b ≤ (dpa + n - 1) / 64

end Sys2Proof.Machine
end

