-- ==== Sys2Proof/Machine/Operands.lean ====
section
/-! DEFINITION. Operand forms: scratch addresses and their legality (R173, R176), the elements of an access (R185 to
R189), streams (R191, R192, R241 to R244), result queues (R165), broadcast operands (R124), and stores (R181, R182). -/

namespace Sys2Proof.Machine

/-! ### Scratch addresses -/

/-- A 64-bit value that is a scratch address of an existing core (R173, R367). -/
def saLegal (d : Die) (a : Nat) : Bool :=
  a < 2 ^ 29 && saCore a < 24 && !d.absent.contains (a / 2 ^ 26 * 32 + saCore a)

/-- The byte lies in the scratch window of a task of the launch resident on the die (R176). -/
def inWindows (d : Die) (launch a : Nat) : Bool :=
  d.tasks.any fun e => e.2.launch = launch && e.2.ctl.swbase ≤ a && a < e.2.ctl.swbase + e.2.ctl.swsize

/-- The byte lies in the residual window of a resident task (R176, R211). -/
def inResidual (d : Die) (a : Nat) : Bool :=
  d.tasks.any fun e =>
    let top := (e.1 / 32) * 2 ^ 26 + (e.1 % 32) * 2 ^ 21 + 2 ^ 21
    top - e.2.res.rw ≤ a && a < top

/-- An access to the byte at `a` by a task of the launch and context is legal (R176). -/
def byteLegal (d : Die) (launch asid a : Nat) : Bool :=
  saLegal d a && inWindows d launch a && mget d.tags (a / 64) = some asid

/-- The first byte of every 64 B line from `a` over `n` bytes. -/
def linesOf (a n : Nat) : List Nat :=
  if n = 0 then [] else (List.range ((a + n - 1) / 64 - a / 64 + 1)).map fun i => Nat.max a ((a / 64 + i) * 64)

/-- Every byte of a range is legal: windows and tags are whole lines, so one byte a line decides (R175, R176). -/
def rangeLegal (d : Die) (launch asid a n : Nat) : Bool :=
  saSlice a = saSlice (a + n - 1) && (linesOf a n).all (byteLegal d launch asid)

/-! ### Elements of an access (R185 to R189) -/

/-- Element i's address, or none when its index skips it (R188). -/
def elemAddr (sh : Shape) (i : Nat) : Option Nat :=
  match sh.idx with
  | some v =>
    let k := lane 32 v i
    if k = 0xFFFFFFFF then none else some (sh.base + k * sh.w)
  | none => some (wrap64 ((sh.base : Int) + i * sh.stride))

/-- The enables of element i: its `w` bits of the mask. -/
def elemEn (sh : Shape) (en : Nat) (i : Nat) : Nat := (en >>> (i * sh.w)) % 2 ^ sh.w

/-- The accessed elements with their addresses and enables. -/
def elems (sh : Shape) (en : Mask) : List (Nat × Nat × Nat) :=
  (List.range sh.n).filterMap fun i =>
    match elemAddr sh i with
    | some a => let e := elemEn sh en.toNat i; if e = 0 then none else some (i, a, e)
    | none => none

/-- The value read by an access: the enabled bytes of each element, zero elsewhere. -/
def readElems (m : Mem) (sh : Shape) : List (Nat × Nat × Nat) → Nat
  | [] => 0
  | (i, a, _) :: r => (Mem.num m a sh.w <<< (8 * sh.w * i)) ||| readElems m sh r

/-- Writes the enabled bytes of each element, in ascending element order, so that the highest element wins. -/
def writeElems (sh : Shape) (data : Nat) : List (Nat × Nat × Nat) → Mem → Mem
  | [], m => m
  | (i, a, e) :: r, m => writeElems sh data r (Mem.wrEn m a ((data >>> (8 * sh.w * i)) % 2 ^ (8 * sh.w)) e sh.w)

/-- No element has an enabled byte, so that nothing is accessed and nothing is checked (R185). -/
def accessesNone (sh : Shape) (en : Mask) : Bool :=
  (List.range sh.n).all fun i => (elemAddr sh i).isNone || elemEn sh en.toNat i = 0

/-- Every accessed byte of an access is legal (R176, R185), and its elements lie in the slice of the base (R187). -/
def accessLegal (d : Die) (launch asid : Nat) (sh : Shape) (en : Mask) : Bool :=
  if accessesNone sh en then true
  else if sh.idx = none && sh.stride = (sh.w : Int) then
    sh.base % 2 ^ 21 + sh.w * sh.n ≤ 2 ^ 21 && saLegal d sh.base &&
      (linesOf sh.base (sh.w * sh.n)).all fun a =>
        let off := a - sh.base
        let hi := Nat.min ((a / 64 + 1) * 64) (sh.base + sh.w * sh.n)
        (en.toNat >>> off) % 2 ^ (hi - a) = 0 || byteLegal d launch asid a
  else
    saLegal d sh.base &&
    (elems sh en).all fun e => saSlice e.2.1 = saSlice sh.base && e.2.1 < 2 ^ 29 && byteLegal d launch asid e.2.1

/-! ### Stores (R181, R182, R221) -/

/-- The cycle in which a store performs whose start cycle is `st`. -/
def storeDue (s : State) (l : Loc) (t : Task) (a : Access) (st : Nat) : Nat :=
  st + a.lat + (match a.mem with
    | .scratch => placeLat l.core a.shape.base (wrap64 ((st : Int) + (s.die l.die).lcc + t.ctl.dlt))
    | _ => 0)

/-- The write port of a core's access at its target slice (R180). -/
def portOf (core addr : Nat) : Nat := if saCluster addr = core / 32 then core % 32 else 24

/-- Posts an access at its perform cycle: reads before writes, writes by port (R222). -/
def State.postAccess (s : State) (due : Nat) (owner : Option Loc) (a : Access) : State :=
  let rank := match a.op with
    | .read => rkRead
    | .fetch _ _ => rkRead
    | .block _ => rkRead
    | .segOut _ _ _ => rkRead
    | .segIn _ _ _ => rkRead
    | .publish _ _ => rkSwap
    | .request r => if r.kind.isNone then rkRead else rkWrite + a.port
    | _ => rkWrite + a.port
  s.post due rank (a.issued * 16 + a.slot) owner (.accessPerform a)

/-- Releases one store whose start cycle is this one; a push without data waits for its landing (R244). -/
def releaseOne (s : State) (l : Loc) (t : Task) (a : Access) : State :=
  if a.ready then s.postAccess (storeDue s l t a s.now) none { a with start := s.now }
  else s.modTask l fun t => { t with wpend := t.wpend ++ [a] }

/-- The release of the withheld stores that `p` selects, and of the FSTs to other dies (R182, R322). -/
def releaseSome (s : State) (l : Loc) (p : Access → Bool) : State :=
  match s.task l with
  | none => s
  | some t =>
    let s0 := s.modTask l fun t => { t with sbuf := t.sbuf.filter fun a => !p a, fsts := [] }
    let s1 := (t.sbuf.filter p).foldl (fun st a => releaseOne st l t a) s0
    t.fsts.foldl (fun st r =>
      (st.modTask l fun t => { t with rems := t.rems ++ [(r.dst, r.id)] }).sendCounted
        { at_ := l.die, dst := r.dst, src := l.die, launch := t.launch, asid := t.ctl.asid, body := .request r }) s1

/-- The release of the store buffer at a checkpoint (R182), with the FSTs that leave then (R322). -/
def releaseStores (s : State) (l : Loc) : State := releaseSome s l fun _ => true

/-- A store in issue: withheld in free code, performed at issue plus latency in a timed region (R181). In free code a
257th entry is the checkpoint-distance fault (R182). -/
def issueStore (s : State) (t : Task) (a : Access) : Res :=
  let l := s.at_
  let a := { a with src := some l, bundle := t.fetch.pc, slot := s.slot.code, issued := s.now, timed := t.timed
                    asid := t.ctl.asid
                    port := if a.mem == .scratch then portOf l.core a.shape.base else a.port
                    time := s.gcc l t % 2 ^ 24, launch := t.launch }
  if t.timed then
    if a.ready then
      let due := storeDue s l t a s.now
      .ok (s.postAccess due none { a with start := s.now })
    else .ok (s.modTask l fun t => { t with wpend := t.wpend ++ [a] })
  else if t.sbuf.length + t.fsts.length ≥ 256 then s.fail 0x0C
  else .ok (s.modTask l fun t => { t with sbuf := t.sbuf ++ [a] })

/-- What the withheld stores, oldest first, leave at a byte: its value, when the last that touches it is a plain store with
its data; none when no store touches it, or when the last is a SCATA or a push whose data is still to land, which only the
perform cycle can answer (R181). -/
def forwardByte (sb : List Access) (b : Nat) : Option Nat :=
  ((sb.filter (·.mem = .scratch)).flatMap fun a =>
    (elems a.shape a.en).filterMap fun x =>
      if x.2.1 ≤ b && b < x.2.1 + a.shape.w && (x.2.2 >>> (b - x.2.1)) % 2 = 1 then
        some (if a.op = .write && a.ready then some ((a.data.toNat >>> (8 * (x.1 * a.shape.w + (b - x.2.1)))) % 256) else none)
      else none).getLast?.join

/-- The bytes a load forwards at its issue from the task's withheld plain stores, with their enables (R181). -/
def forwardBytes (sb : List Access) (sh : Shape) (en : Mask) : Nat × Nat :=
  (elems sh en).foldl (fun (acc : Nat × Nat) e =>
    (List.range sh.w).foldl (fun (acc : Nat × Nat) j =>
      let pos := e.1 * sh.w + j
      match forwardByte sb (e.2.1 + j) with
      | some v => (acc.1 ||| (v <<< (8 * pos)), acc.2 ||| 2 ^ pos)
      | none => acc) acc) (0, 0)

/-- A load in issue: its access performs at issue plus latency, forwarding the task's withheld stores (R181). -/
def issueLoad (s : State) (t : Task) (lat : Nat) (sh : Shape) (en : Mask) (r : Landing) (op : AccOp) : State :=
  let l := s.at_
  let fwd := if t.sbuf.isEmpty then (0, 0) else forwardBytes t.sbuf sh en
  let a : Access := { die := l.die, op, shape := sh, en, src := some l, bundle := t.fetch.pc, slot := s.slot.code
                      issued := s.now, start := s.now, timed := t.timed, asid := t.ctl.asid, lat, cls := .load
                      port := portOf l.core sh.base, launch := t.launch
                      fwdVal := BitVec.ofNat 4096 fwd.1, fwdEn := BitVec.ofNat 512 fwd.2
                      land := some (s.landing t r) }
  s.postAccess (s.now + lat + placeLat l.core sh.base (s.gcc l t)) (some l) a

/-! ### Streams (R191, R192, R241 to R244) -/

/-- A field of a descriptor. -/
def dfield (d : BitVec 512) (byte n : Nat) : Nat := (d.toNat >>> (8 * byte)) % 2 ^ (8 * n)

def Strm.base (z : Strm) : Nat := dfield z.desc 0 8
def Strm.ctl (z : Strm) : Nat := dfield z.desc 8 2
def Strm.write (z : Strm) : Bool := z.ctl % 2 = 1
def Strm.mainMem (z : Strm) : Bool := z.ctl / 2 % 2 = 1
def Strm.fmt (z : Strm) : Option Fmt := Fmt.ofCode (z.ctl / 8 % 64)
def Strm.ndim (z : Strm) : Nat := z.ctl / 512 % 4 + 1
def Strm.cnt (z : Strm) (d : Nat) : Nat := dfield z.desc (16 + 4 * d) 4
def Strm.sd (z : Strm) (d : Nat) : Int := sextNat 32 (dfield z.desc (32 + 4 * d) 4)

/-- The pattern's length (R191). -/
def Strm.length (z : Strm) : Nat := (List.range z.ndim).foldl (fun n d => n * z.cnt d) 1

/-- The address of vector k: its indices with dimension 0 varying fastest (R191). -/
def strmAddrGo (z : Strm) : Nat → Nat → Nat → Int
  | 0, _, _ => 0
  | n + 1, d, k =>
    let c := z.cnt d
    ((if c = 0 then 0 else k % c : Nat) : Int) * z.sd d + strmAddrGo z n (d + 1) (if c = 0 then 0 else k / c)
def Strm.addr (z : Strm) (k : Nat) : Nat := wrap64 ((z.base : Int) + strmAddrGo z z.ndim 0 k)

/-- The contents of a descriptor are well formed (R191, R192, R242). -/
def strmLegal (timed : Bool) (z : Strm) : Bool :=
  dfield z.desc 48 16 = 0 && dfield z.desc 10 6 = 0 && z.ctl / 2048 = 0 && z.ctl / 4 % 2 = 0 && z.fmt.isSome &&
  z.base % 64 = 0 && (!z.mainMem || (z.base < 2 ^ 52 && !timed)) &&
  (List.range z.ndim).all (fun d => z.sd d % 64 = 0) && z.length < 2 ^ 32

def Arch.strm (a : Arch) (z : Nat) : Strm := nth {} a.strms z

def Task.modStrm (t : Task) (z : Nat) (f : Strm → Strm) : Task :=
  { t with arch := { t.arch with strms := t.arch.strms.modify z f } }
def Task.modUnit (t : Task) (z : Nat) (f : StrmUnit → StrmUnit) : Task := { t with units := t.units.modify z f }

/-- The block open at issue is a recompute block: streams and some operations are forbidden (R269). -/
def inRecompute (s : State) (t : Task) : Bool :=
  match t.arch.blk with
  | none => false
  | some b =>
    match (s.ctx s.at_.die t.ctl.asid).bind fun c => mget c.images t.image with
    | some im => ((mget im.blocks b.block).getD 0).toNat / 2 ^ (8 * 30 + 1) % 2 = 1
    | none => false

/-- The checks of a pop or push of stream z: its direction and binding, its length, its address (R192, R246, R269). -/
def strmCheck (s : State) (t : Task) (z : Nat) (write : Bool) : Option Nat :=
  let st := t.arch.strm z
  if t.arch.blk.isSome && (st.mainMem || inRecompute s t) then some 0x15
  else if !st.valid || st.write != write then some 0x0D
  else if st.k ≥ st.length then some 0x0E
  else if !st.mainMem && !rangeLegal (s.die s.at_.die) t.launch t.ctl.asid (st.addr st.k) 512 then some 0x0B
  else none

/-- The addresses of a main-memory vector whose translation the Mule pair does not hold yet (R212). -/
def newPages (u : StrmUnit) (va : Nat) : List Nat := (rangePages va 512).filter fun p => !u.pages.contains (p / 65536)

/-- The Mule pair translates each page of a stream once, and holds it (R212, R310). -/
def holdPages (s : State) (l : Loc) (t : Task) (z va : Nat) : State :=
  let ps := newPages (nth {} t.units z) va
  (ps.foldl (fun st p => tlbFill st l.die t.ctl.asid p) s).modTask l fun t =>
    t.modUnit z fun u => { u with pages := u.pages ++ ps.map (· / 65536) }

/-- A main-memory stream's vector whose pages do not translate is the translation fault of the operation that pops or pushes
it (R212, R314). -/
def strmXlate (s : State) (t : Task) (z : Nat) (write : Bool) : Option FaultReq :=
  let st := t.arch.strm z
  if !st.mainMem then none
  else (pagesCause s s.at_.die t.ctl.asid (newPages (nth {} t.units z) (st.addr st.k)) (!write) write).map fun e =>
    { code := 0x20, slot := s.slot.code, va := some e.1, cause := e.2 }

/-- A SBIND of the stream has issued and its descriptor is still to land (R191, R192). -/
def bindPending (s : State) (l : Loc) (z : Nat) : Bool :=
  s.calendar.any fun e =>
    match e.what with
    | .resultLanding k r => k = l && r.dest == .bind z
    | .accessPerform a => a.src = some l && (a.land.map (·.dest)) == some (.bind z)
    | _ => false

/-- A pop or push waits for the descriptor of its stream: nothing is ready before it lands (R243; DEDUCED, log entry 24). -/
def strmWaits (s : State) (t : Task) (z : Nat) : Bool :=
  !(t.arch.strm z).valid && !(t.arch.blk.isSome && inRecompute s t) && bindPending s s.at_ z

/-- An empty or full stream stalls the core in free code and is the underrun fault in a timed region (R20, R241). -/
def strmEmpty (s : State) (t : Task) : Res := if t.timed then s.fail 0x0F else .stall .stall

/-- The stream's next vector lies in a page of main memory that a migrate command holds (R320). -/
def strmHeld (s : State) (die : Nat) (t : Task) (st : Strm) : Bool := st.mainMem && held s die t.ctl.asid (st.addr st.k) 512

/-- One pop of a read stream: the next vector, with the state after it; a stall or underrun when it is not ready, and the
translation fault when it is a main-memory vector that the Mule pair cannot fetch (R212). -/
def popStream (s : State) (t : Task) (z : Nat) (k : Vec → State → Task → Res) : Res :=
  if strmWaits s t z then strmEmpty s t
  else
  match strmCheck s t z false with
  | some c => s.fail c
  | none =>
    let st := t.arch.strm z
    let u := nth {} t.units z
    match u.ahead.find? fun a => a.idx = st.k && decide (a.ready ≤ s.now) with
    | none =>
      match if u.next ≤ st.k && !strmHeld s s.at_.die t st then strmXlate s t z false else none with
      | some q => .fault q
      | none => strmEmpty s t
    | some a =>
      let t' := (t.modStrm z fun x => { x with k := x.k + 1 }).modUnit z fun x =>
        { x with ahead := x.ahead.filter fun y => y.idx != st.k, from_ := Nat.max x.from_ (s.now + 1) }
      let s1 := s.setTask s.at_ t'
      let s2 := if u.busy || u.next ≥ st.length then s1
        else (s1.modTask s.at_ fun t => t.modUnit z fun x => { x with busy := true }).postUnit (s.now + 1) rkDrain
          (.streamFetch s.at_ (Fin.ofNat 8 z))
      match s2.task s.at_ with
      | some t2 => k a.val s2 t2
      | none => .ok s2

/-- The store of a push into a write stream (R244), identified by its stream and position until its data lands. -/
def pushAccess (l : Loc) (z k addr : Nat) : Access :=
  { die := l.die, op := .write, shape := { base := addr, n := 128 }, lat := 2, ready := false
    cmd := some (z * 2 ^ 32 + k) }

/-- One push into a write stream at issue: its place is taken, its data lands later (R242, R244). -/
def pushStream (s : State) (t : Task) (z : Nat) (k : Dest → State → Task → Res) : Res :=
  if strmWaits s t z then strmEmpty s t
  else
  match strmCheck s t z true, strmXlate s t z true with
  | some c, _ => s.fail c
  | none, some q => .fault q
  | none, none =>
    let st := t.arch.strm z
    let u := nth {} t.units z
    if st.mainMem && (u.drain.length ≥ 4 || strmHeld s s.at_.die t st) then strmEmpty s t
    else
      let t' := t.modStrm z fun x => { x with k := x.k + 1 }
      let t' := if st.mainMem then t'.modUnit z fun x => { x with drain := x.drain ++ [(st.k, st.addr st.k, none)] } else t'
      let s1 := s.setTask s.at_ t'
      let r := if st.mainMem then .ok (holdPages s1 s.at_ t' z (st.addr st.k))
        else issueStore s1 t' (pushAccess s.at_ z st.k (st.addr st.k))
      r.bind fun s2 =>
        match s2.task s.at_ with
        | some t2 => k (.push z st.k) s2 t2
        | none => .ok s2

/-! ### Vector operands (R49, R124) -/

/-- The broadcast operand in every lane of width w (R124). -/
def bcastVec (x : Word) (w : Nat) : Vec := splatLanes w (4096 / w) (x.toNat % 2 ^ w)

/-- A vector source, with what a popped stream leaves. -/
def readV (s : State) (t : Task) (w : Nat) (v : VSrc) (k : Vec → State → Task → Res) : Res :=
  match v with
  | .v n => k (t.arch.rv n.val) s t
  | .bcast => k (bcastVec (t.arch.rx s.bs) w) s t
  | .z n => popStream s t n.val k

/-- A source of the M or LS slot. -/
def readM (s : State) (t : Task) (v : MSrc) (k : Vec → State → Task → Res) : Res :=
  match v with
  | .v n => k (t.arch.rv n.val) s t
  | .z n => popStream s t n.val k

/-- A vector result: to a register under the mask, or into a stream with disabled bytes zero (R123, R242). -/
def writeV (s : State) (t : Task) (lat : Nat) (d : VDst) (m : Mask) (val : Vec) (evs : List (Nat × Nat)) : Res :=
  match d with
  | .v n => .ok (s.emitV t lat n.val val m evs)
  | .z n => pushStream s t n.val fun dest s t =>
      .ok (s.emit t lat { dest, val := val &&& spread m, en := m, evs })

/-! ### Result queues (R151, R165) -/

/-- The occupancy the queue fault tests: entries pushed and not popped, and in free code those popped since the last
checkpoint (R151). -/
def RQueue.occupancy (q : RQueue) : Nat := q.ents.length

def Task.queue (t : Task) (q : Nat) : RQueue := nth {} t.mat.queues q
def Task.modQueue (t : Task) (q : Nat) (f : RQueue → RQueue) : Task :=
  { t with mat := { t.mat with queues := t.mat.queues.modify q f } }

/-- A pop takes the oldest entry whose ready cycle has come; none is the queue fault (R165). -/
def popQueue (s : State) (t : Task) (q : Nat) (k : Vec → State → Task → Res) : Res :=
  let qq := t.queue q
  match (qq.ents.drop qq.popped).head? with
  | some e =>
    if e.ready ≤ s.now then
      let t' := t.modQueue q fun x =>
        if t.timed then { x with ents := x.ents.drop 1 } else { x with popped := x.popped + 1 }
      k e.val (s.setTask s.at_ t') t'
    else s.fail 0x10
  | none => s.fail 0x10

/-- A push at issue reserves an entry that is ready 4 cycles later; a full queue is the queue fault (R165). -/
def pushQueue (s : State) (t : Task) (q : Nat) (k : Nat → State → Task → Res) : Res :=
  let qq := t.queue q
  if qq.occupancy ≥ 16 then s.fail 0x10
  else
    let t' := t.modQueue q fun x =>
      { x with ents := x.ents ++ [{ id := x.nextId, ready := s.now + 4, val := 0 }], nextId := x.nextId + 1 }
    k qq.nextId (s.setTask s.at_ t') t'

/-- The value of a queue entry that its drain has read. -/
def Task.fillQueue (t : Task) (q id : Nat) (v : Vec) : Task :=
  t.modQueue q fun x => { x with ents := x.ents.map fun e => if e.id = id then { e with val := v } else e }

end Sys2Proof.Machine
end

