-- ==== Sys2Proof/Machine/Flags.lean ====
section
/-! DEFINITION. What the machine computes beside results: exception events over lanes (R87, R88), the checkpoint bundles
(R109, R150, R184), current weights (R169), and the block classes of operations (R259, R269). -/

namespace Sys2Proof.Machine

/-- The event records of a lane-wise operation: each kind with the number of enabled lanes that raised it (R88). -/
def laneEvents (en : List Bool) (evs : List Evs) : List (Nat × Nat) := kindCounts (List.zip en evs)

/-- Operations that make their bundle a checkpoint bundle in free code, whatever CK and predicates say (R109, R150,
R184, R207, R227, R237, R267, R322, R398). -/
def ckOp : Instr → Bool
  | .sev _ _ _ => true | .wfe _ _ => true | .bar _ _ => true | .yield _ => true | .exit _ => true
  | .align _ _ => true | .tenter _ _ => true | .texit _ => true | .ntreq _ _ => true | .stqp _ _ => true
  | .mwldN _ _ _ => true | .mwldW _ _ _ => true | .mgbeat _ _ _ => true | .mgclr _ => true
  | .mbeat _ _ _ cb _ => cb | .mbeatt _ _ _ cb _ => cb | .mbeat2 _ _ _ cb _ => cb
  | .atomv _ _ _ _ _ => true
  | .mcpy _ => true | .mbulk _ _ => true | .upd _ _ => true | .norm _ => true | .fars _ _ => true | .farr _ _ => true
  | .publ _ _ => true | .fence _ _ _ => true | .fld _ _ _ => true | .fatom _ _ _ _ => true | .cinc _ _ _ => true
  | .blkRev _ _ => true
  | _ => false

/-- A push into a main-memory write stream makes its bundle a checkpoint bundle (R244). -/
def ckPush (t : Task) (i : Instr) : Bool := i.pushes.any fun z => (t.arch.strm z.val).mainMem

/-- The format of the A row a beat uses (R159). -/
def beatFmt (t : Task) : MSrc → Fmt
  | .v _ => t.arch.afmt
  | .z n => ((t.arch.strm n.val).fmt).getD .f32

/-- The weight of a beat by its activation format (R169). -/
def beatWeight (f : Fmt) : Nat :=
  match fwidth f with
  | 32 => 64
  | 16 => 40
  | _ => 24

/-- The format of a peer's broadcast beat is that of the oldest entry of its A-row buffer (R159, R162). -/
def cbFmt (t : Task) (cb : Bool) (m : MSrc) : Fmt :=
  if cb && t.ctl.taskix % 8 != 0 then ((t.mat.arows.head?).map (·.fmt)).getD .f32 else beatFmt t m

/-- The current weight of an operation that issues with a true predicate (R169). -/
def weight (t : Task) (i : Instr) : Nat :=
  if i.isNop then 0
  else if (encS i).isSome then 1
  else if (encXB i).isSome then 1
  else match i with
    | .vmul .. => 6 | .vfma .. => 6 | .vfms .. => 6 | .vfnma .. => 6 | .vimul .. => 6 | .vimad .. => 6
    | .vred .. => 6 | .vscan .. => 6 | .vrng .. => 6 | .vdrop .. => 6 | .part .. => 6
    | .vrcp .. => 8 | .vrsq .. => 8 | .vsqrt .. => 8 | .vexp2 .. => 8 | .vlog2 .. => 8 | .vtanh .. => 8
    | .vsplat .. => 4 | .vperm .. => 4 | .vrot .. => 4 | .vpack .. => 4 | .vunpk .. => 4 | .vcvt .. => 4
    | .vscl .. => 4 | .mcnt .. => 4
    | .mwldN .. => 4 | .mwldW .. => 4 | .mafmt .. => 4 | .mdrn .. => 4 | .mclr .. => 4 | .mgdrn .. => 4
    | .mgclr .. => 4
    | .mbeat _ _ _ cb a => beatWeight (cbFmt t cb a)
    | .mbeatt _ _ _ cb a => beatWeight (cbFmt t cb a)
    | .mbeat2 .. => 40
    | .mgbeat .. => 32
    | .ldb .. => 2 | .sbind .. => 2 | .sunb .. => 2 | .qpop .. => 2
    | _ =>
      if (encVSlot i).isSome then 3
      else if (encLS i).isSome then 6
      else if (encFB i).isSome then 4
      else if (encRP i).isSome then 3
      else 0

/-- The predicate field of an operation (R34); XB operations have none. -/
def predOf : Instr → Nat
  | .xsv .. => 0 | .xvs .. => 0 | .xpv .. => 0 | .xvp .. => 0
  | i =>
    match encS i, encVSlot i, encM i, encLS i with
    | some w, _, _, _ => bits w 25 22
    | _, some w, _, _ => bits w 39 36
    | _, _, some w, _ => bits w 26 23
    | _, _, _, some w => bits w 41 38
    | _, _, _, _ =>
      match encFB i, encRP i with
      | some w, _ => bits w 57 54
      | _, some w => bits w 27 24
      | _, _ => 0

/-- The step is an adjoint's, or forward code inside a block: block rules apply (R259, R270). -/
def inBlock (t : Task) : Bool := t.arch.blk.isSome

/-- What an open block forbids at issue (R144, R167, R193, R259, R269): the code of the fault, if any. The checks that
take more than the operation's name stand with the operation. -/
def blockForbids (recompute replay : Bool) (depth opened : Nat) (t : Task) (i : Instr) : Option Nat :=
  let f16 (ty : FTy) : Option Nat := if ty = .f32 then none else some 0x15
  match i with
  | .br .. => some 0x16 | .brp .. => some 0x16 | .jmp .. => some 0x16 | .call .. => some 0x16 | .ret .. => some 0x16
  | .exit .. => some 0x16 | .yield .. => some 0x16 | .wfe .. => some 0x16 | .sev .. => some 0x16
  | .bar .. => some 0x16 | .align .. => some 0x16 | .tenter .. => some 0x16 | .texit .. => some 0x16
  | .ntreq .. => some 0x16
  | .loop _ lv _ _ _ => if lv.val != depth then some 0x16 else if recompute || replay then some 0x15 else none
  | .loopi _ lv _ _ => if lv.val != depth || lv.val < opened then some 0x16 else none
  | .wrc _ c _ => if c.toNat = 0x10 || c.toNat = 0x11 || c.toNat = 0x12 then some 0x16 else none
  | .vadd _ ty .. => f16 ty | .vsub _ ty .. => f16 ty | .vmul _ ty .. => f16 ty | .vfma _ ty .. => f16 ty
  | .vfms _ ty .. => f16 ty | .vfnma _ ty .. => f16 ty | .vmin _ ty .. => f16 ty | .vmax _ ty .. => f16 ty
  | .vabs _ ty .. => f16 ty | .vneg _ ty .. => f16 ty | .vcps _ ty .. => f16 ty | .vrcp _ ty .. => f16 ty
  | .vrsq _ ty .. => f16 ty | .vsqrt _ ty .. => f16 ty | .vexp2 _ ty .. => f16 ty | .vlog2 _ ty .. => f16 ty
  | .vtanh _ ty .. => f16 ty | .vscl _ ty .. => f16 ty | .vred _ ty .. => f16 ty | .vscan _ ty .. => f16 ty
  | .vdrop _ ty .. => f16 ty
  | .mwldN .. => some 0x15 | .mwldW .. => some 0x15 | .mgbeat .. => some 0x15 | .mgdrn .. => some 0x15
  | .mgclr .. => some 0x15
  | .mbeat _ _ _ cb a => beatBlock cb a
  | .mbeatt _ _ _ cb a => beatBlock cb a
  | .mbeat2 _ _ _ cb a => beatBlock cb a
  | .mdrn .. => if recompute then some 0x15 else none
  | .mclr .. => if recompute then some 0x15 else none
  | .mafmt .. => if recompute then some 0x15 else none
  | .qpop .. => if recompute then some 0x15 else none
  | .qst .. => if recompute then some 0x15 else none
  | .ldvs _ w .. => if w = .w32 then none else some 0x15
  | .stvs _ w .. => if w = .w32 then none else some 0x15
  | .gath _ w .. => if w = .w32 then none else some 0x15
  | .scat _ w .. => if w = .w32 then none else some 0x15
  | .ldg .. => some 0x15 | .stg .. => some 0x15 | .atomv .. => some 0x15 | .sbind .. => some 0x15
  | .sunb .. => some 0x15
  | .psend _ _ _ g _ => if g then some 0x15 else none
  | .precv _ _ _ g => if g then some 0x15 else none
  | .fsend .. => some 0x15 | .fsenda .. => some 0x15 | .fsendq .. => some 0x15 | .frecv .. => some 0x15
  | .fld .. => some 0x15 | .fst .. => some 0x15 | .fatom .. => some 0x15 | .mcpy .. => some 0x15
  | .mbulk .. => some 0x15 | .mclose .. => some 0x15 | .publ .. => some 0x15 | .ttgo .. => some 0x15
  | .upd .. => some 0x15 | .norm .. => some 0x15 | .fars .. => some 0x15 | .farr .. => some 0x15
  | .rpop .. => some 0x16 | .rdrop .. => some 0x16 | .blkRev .. => some 0x16
  | _ => none
where
  /-- A beat inside a block: no broadcast, and f32 activations on the floating path; none in a recompute block. -/
  beatBlock (cb : Bool) (a : MSrc) : Option Nat :=
    let f := beatFmt t a
    if cb || recompute then some 0x15
    else if (isFloat f || isFloat t.mat.wfmt) && f != .f32 then some 0x15 else none

end Sys2Proof.Machine
end

