-- ==== Sys2Proof/Machine/Issue.lean ====
section
/-! DEFINITION. The issue of a slot operation: what a stall does, the arrival at a barrier (R112), and the step a slot
operation makes by itself. -/

namespace Sys2Proof.Machine

/-- The landing cycle of a push that has not landed yet, from the calendar; a loaded vector lands when its load performs
(R186). -/
def pushLanding (cal : List Ev) (l : Loc) (key : Nat) : Option Nat :=
  let dest : Dest := .push (key / 2 ^ 32) (key % 2 ^ 32)
  (cal.find? fun e =>
    match e.what with
    | .resultLanding k r => k = l && r.dest == dest
    | .accessPerform a => a.src = some l && a.land.any fun r => r.dest == dest
    | _ => false).map (·.due)

/-- The last perform cycle of the scratchpad stores that a checkpoint in this cycle releases (R111, R112, R398). -/
def releaseBound (s : State) (l : Loc) (t : Task) : Nat :=
  t.sbuf.foldl (fun b a =>
    if a.mem != .scratch then b
    else
      let st := if a.ready then s.now else Nat.max s.now ((pushLanding s.calendar l (a.cmd.getD 0)).getD s.now)
      Nat.max b (storeDue s l t a st)) s.now

/-- A checkpoint in this cycle: the stores are released and withheld PSENDs leave and the shadow set is taken
(R182, R184, R280). -/
def checkpoint (s : State) (l : Loc) : State :=
  let s1 := releaseStores s l
  let out := ((s.task l).map (·.psends)).getD []
  let s2 := out.foldl State.releasePair (s1.modTask l fun t => { t with psends := [] })
  s2.modTask l fun t => takeCheckpoint s2.now l s2.calendar t

/-- Every member of the team has arrived or has retired (R112, R400). -/
def barFull (tm : Team) (b : Nat) : Bool :=
  (List.range tm.cores.length).all fun ix =>
    tm.retired.contains ix || ((nth {} tm.bars b).arr.any fun a => a.1 = ix)

/-- The completion cycle of a barrier: the last arrival and the last released store (R112). -/
def barLast (now : Nat) (tm : Team) (b : Nat) : Nat :=
  (nth {} tm.bars b).arr.foldl (fun m a => Nat.max m a.2) now

def Team.modBar (tm : Team) (b : Nat) (f : Bar → Bar) : Team := { tm with bars := tm.bars.modify b f }

/-- The completion of barrier b is scheduled once every member is there (R112). -/
def barSchedule (s : State) (r : TeamRef) (b : Nat) : State :=
  match s.team r.die r.team with
  | none => s
  | some tm =>
    if barFull tm b && (nth {} tm.bars b).go.isNone && !(nth {} tm.bars b).arr.isEmpty then
      s.post (barLast s.now tm b) (rkIssue + 1) s.seq none (.barrierComplete r (Fin.ofNat 4 b))
    else s

/-- The first cycle of a BAR: the member arrives, its stores are released (R109, R112). -/
def barArrive (s : State) (l : Loc) (b : Nat) : State :=
  match s.task l with
  | none => s
  | some t =>
    match s.team l.die t.team with
    | none => s
    | some tm =>
      let bar := nth {} tm.bars b
      if bar.go.isSome || bar.arr.any (fun a => a.1 = t.ctl.taskix) then s
      else
        let bound := releaseBound s l t
        let s1 := checkpoint s l
        let s2 := s1.modTeam l.die t.team fun x => x.modBar b fun y => { y with arr := y.arr ++ [(t.ctl.taskix, bound)] }
        barSchedule s2 { die := l.die, team := t.team } b

/-- The core cannot issue in this cycle: a stall, looked at again in the next; what is in flight waits with it, at WFE and BAR
too (R112, R297; DEDUCED, log entry 20). -/
def stallCore (s : State) (l : Loc) (w : Wait) : State :=
  let s0 := match w with
    | .bar b => barArrive s l b
    | _ => s
  let s1 := s0.modTask l fun t => { t with wait := w }
  (delayCore s1 l).postCore l (s.now + 1) rkIssue (match w with
    | .cwait => .cwaitSatisfied
    | .wfe _ => .wfeWake
    | _ => .stallEnd)

/-- A slot operation as a step of its own: its issue at the core and slot the state names. -/
def runSlot (f : Issue) (s : State) : Host.Outcome State Fault Refusal :=
  match s.task s.at_ with
  | none => .fault .noTask
  | some t =>
    match f s t with
    | .ok s' => .next s'
    | .fault q => .next (takeFault s s.at_ q)
    | .stall w => .next (stallCore s s.at_ w)

/-- An event that EXIT waits for: a landing, a load, a released store (R110). Stream fetches and publications are none. -/
def inFlight (l : Loc) (e : Ev) : Bool :=
  match e.what with
  | .resultLanding k _ => k = l
  | .accessPerform a => a.src = some l && (match a.op with
      | .fetch _ _ => false
      | .publish _ _ => false
      | .block _ => false
      | _ => true)
  | _ => false

/-- An event that the hold of TEXIT waits for: a landing but a stream's binding, a load on its way to one, a store that the
region issued (R22). -/
def inRegion (l : Loc) (e : Ev) : Bool :=
  inFlight l e && match e.what with
    | .resultLanding _ r => !(match r.dest with | .bind _ => true | _ => false)
    | .accessPerform a => (match a.land with
        | some r => !(match r.dest with | .bind _ => true | _ => false)
        | none => a.timed)
    | _ => false

/-- The latest cycle of a set of events and of the ready cycles of queue entries. -/
def lastOf (s : State) (t : Task) (p : Ev → Bool) : Nat :=
  t.mat.queues.foldl (fun m q => q.ents.foldl (fun m e => Nat.max m e.ready) m)
    ((s.calendar.filter p).foldl (fun m e => Nat.max m e.due) 0)

/-- The latest cycle in which something in flight of the core lands or performs (R110). -/
def inFlightEnd (s : State) (l : Loc) (t : Task) : Nat := lastOf s t (inFlight l)

/-- The latest cycle in which something that a region issued lands or performs (R22). -/
def regionEnd (s : State) (l : Loc) (t : Task) : Nat := lastOf s t (inRegion l)

/-- Something in flight has no cycle yet: a push without data, a vector that waits for its Mule. -/
def inFlightOpen (t : Task) : Bool := !t.wpend.isEmpty || t.units.any fun u => !u.drain.isEmpty

/-- A push that the region issued still waits for its data. -/
def regionOpen (t : Task) : Bool := t.wpend.any (·.timed)

end Sys2Proof.Machine
end

