-- ==== Sys2Proof/Machine/Stack.lean ====
section
/-! DEFINITION. The residual stack: the window, segments, pushes and pops (R257, R271 to R273), the items of a block's
frame (R260 to R262), and the block table (R256). -/

namespace Sys2Proof.Machine

/-! ### The block table (R256) -/

/-- The entry of block n of the task's image. -/
def blockEntry (s : State) (l : Loc) (t : Task) (n : Nat) : Nat :=
  match (s.ctx l.die t.ctl.asid).bind fun c => mget c.images t.image with
  | some im => ((mget im.blocks n).getD 0).toNat
  | none => 0

def blkStart (e : Nat) : Nat := bits e 14 0
def blkEndIx (e : Nat) : Nat := bits e 30 16
def blkFrame (e : Nat) : Nat := bits e 63 32
def blkGclr (e : Nat) : Nat := bits e 127 64
def blkBiv (e : Nat) : Nat := bits e 191 128
def blkBix (e : Nat) : Nat := bits e 223 192
def blkBip (e : Nat) : Nat := bits e 239 224
def blkValid (e : Nat) : Bool := bits e 240 240 = 1
def blkRecompute (e : Nat) : Bool := bits e 241 241 = 1
/-- Channel c is listed in PAIRS (R256). -/
def blkPaired (e c : Nat) : Bool :=
  (List.range 8).any fun k => bits e (256 + 16 * k + 15) (256 + 16 * k) = 2 ^ 15 + c

/-- The open block pushes residual items: a stored block in forward mode, or a replay (R260, R268, R270). -/
def pushesItems (s : State) (t : Task) : Bool :=
  match t.arch.blk with
  | none => false
  | some b => t.arch.walk.mode == .replay || !blkRecompute (blockEntry s s.at_ t b.block)

/-- The open block is a recompute block in forward mode: its frame is of kind 1 (R268). -/
def boundaryFrame (s : State) (t : Task) : Bool :=
  match t.arch.blk with
  | none => false
  | some b => t.arch.walk.mode != .replay && blkRecompute (blockEntry s s.at_ t b.block)

/-! ### The window (R271, R272) -/

/-- The window slots of a task. -/
def winSlots (t : Task) : Nat := t.res.rw / 4096

/-- The scratch address of a byte of the stack (R271). -/
def winAddr (l : Loc) (t : Task) (o : Nat) : Nat :=
  (l.core / 32) * 2 ^ 26 + (l.core % 32) * 2 ^ 21 + 2 ^ 21 - t.res.rw
    + (if winSlots t = 0 then 0 else o / 4096 % winSlots t) * 4096 + o % 4096

/-- The most bytes the logical stack holds (R273). -/
def stackLimit (t : Task) : Nat := if t.res.spillSize = 0 then t.res.rw else t.res.spillSize

/-- TOP at the last checkpoint, which free-code spills and reuse respect (R274, R277). -/
def safeTop (t : Task) : Nat := if t.timed then t.arch.top else Nat.min t.arch.top t.shadow.top

/-- Segments of the stack that still hold bytes some state needs: below TOP, and in free code below TOP of the last
checkpoint (R277). -/
def heldTop (t : Task) : Nat := if t.timed then t.arch.top else Nat.max t.arch.top t.shadow.top

def segState (t : Task) (g : Nat) : Option Seg := mget t.res.segs g

/-- The segments that hold the bytes from `lo` up to `lo + n − 1`. -/
def segsOf (lo n : Nat) : List Nat := (List.range ((lo + n - 1) / 4096 + 1 - lo / 4096)).map fun i => lo / 4096 + i

/-- Another segment holds the window slot of g: its number and state. -/
def slotHolder (t : Task) (g : Nat) : Option (Nat × Seg) :=
  (liveSegs (heldTop t) t.res.segs).find? fun e => e.1 != g && e.1 % winSlots t = g % winSlots t && e.2.st != .away

/-- A rollback would put bytes back into the segment: it stays in the window until the next checkpoint (R274, R277). -/
def reused (l : Loc) (t : Task) (g : Nat) : Bool :=
  t.res.saved.any fun e => winAddr l t (4096 * g) ≤ e.1 && e.1 < winAddr l t (4096 * g) + 4096

/-- The segments that a replay and its walk keep in the window start here (R270). -/
def replayBase (t : Task) : Option Nat :=
  let w := t.arch.walk
  if w.mode == .replay || (w.mode == .reverse && (t.arch.frames.getLast?).any fun f => f.kind = 2) then some w.base else none

/-- The segments the controller may spill, oldest first: RESIDENT, wholly below TOP of the last checkpoint, with no byte that a
rollback would need back, and no part of a replay (R270, R274). -/
def spillable (l : Loc) (t : Task) : List Nat :=
  let top := match replayBase t with
    | some b => Nat.min (safeTop t) b
    | none => safeTop t
  (t.res.segs.filter fun e => e.2.st == .resident && decide ((e.1 + 1) * 4096 ≤ top) && !reused l t e.1).map (·.1)

/-- The spill address of a segment. -/
def spillAddr (t : Task) (g : Nat) : Nat := t.res.spillBase + 4096 * g

/-- The page of a segment's spill area for a transfer: its cause when it has none (R274, R275). -/
def spillCause (s : State) (l : Loc) (t : Task) (out : Bool) (g : Nat) : Option Nat :=
  let x := if t.timed then xlateTimed s l.die t.ctl.asid t.launch (spillAddr t g) (!out) out
    else xlateUnit s l.die t.ctl.asid (spillAddr t g) (!out) out
  match x with
  | .ok _ => none
  | .error c => some c

/-- The residual-translation fault of a segment whose transfer has stopped and whose page is still missing or forbidding
(R274). -/
def segFault (s : State) (t : Task) (out : Bool) (g : Nat) (x : Seg) : Option Res :=
  if x.bad then
    (spillCause s s.at_ t out g).map fun c =>
      .fault { code := 0x1B, slot := s.slot.code, va := some (spillAddr t g), cause := c }
  else none

/-- A segment that is needed and not in the window (R273, R274). -/
def awayRes (s : State) (t : Task) (g : Nat) (x : Seg) : Option Res :=
  match segFault s t false g x with
  | some r => some r
  | none => if t.timed then some (s.fail 0x1A) else some (.stall .stall)

/-- What a pop or an in-place read of these bytes meets first: nothing, a fault or a stall (R273, R274). -/
def readCheck (s : State) (t : Task) (lo n : Nat) : Option Res :=
  (segsOf lo n).findSome? fun g =>
    match segState t g with
    | none => none
    | some x =>
      if x.st == .resident || x.st == .outbound then none
      else awayRes s t g x

/-- What a push of these bytes meets first (R273). -/
def pushCheck (s : State) (t : Task) (lo n : Nat) : Option Res :=
  if lo + n > stackLimit t || winSlots t = 0 then some (s.fail 0x19)
  else
    (segsOf lo n).findSome? fun g =>
      match segState { t with res := { t.res with segs := liveSegs (heldTop t) t.res.segs } } g with
      | some x =>
        if x.st == .resident || x.st == .outbound then none
        else awayRes s t g x
      | none =>
        match slotHolder t g with
        | none => none
        | some (h, x) =>
          if t.timed then some (s.fail 0x19)
          else
            match segFault s t true h x with
            | some r => some r
            | none =>
              if x.st == .outbound || x.st == .inbound || (t.res.spillSize != 0 && !(spillable s.at_ t).isEmpty) then
                some (.stall .stall)
              else some (s.fail 0x19)

/-- Writes 64 B blocks of a number at a stack offset. -/
def winWrite (l : Loc) (t : Task) (o v : Nat) : Nat → Mem → Mem
  | 0, m => m
  | k + 1, m => winWrite l t (o + 64) (v / 2 ^ 512) k (Mem.wrNum m (winAddr l t o) (v % 2 ^ 512) 64)

/-- Reads 64 B blocks from a stack offset. -/
def winRead (m : Mem) (l : Loc) (t : Task) (o : Nat) : Nat → Nat
  | 0 => 0
  | k + 1 => Mem.num m (winAddr l t o) 64 + 2 ^ 512 * winRead m l t (o + 64) k

/-- The blocks from `o` that a rollback would need back, with their bytes (R277). -/
def reusedBlocks (m : Mem) (l : Loc) (t : Task) (o : Nat) : Nat → List (Nat × Nat)
  | 0 => []
  | k + 1 =>
    let r := reusedBlocks m l t (o + 64) k
    let a := winAddr l t o
    if !t.timed && o < t.shadow.top && !(t.res.saved.any fun e => e.1 = a) then (a, Mem.num m a 64) :: r else r

/-- The segments of a push become RESIDENT. -/
def addSegs (l : List Nat) (m : Map Seg) : Map Seg :=
  l.foldl (fun m g => if (mget m g).isSome then m else mset m g {}) m

/-- A replay frame that would exceed FRAME × 64 bytes (R270). -/
def replayFull (s : State) (t : Task) (n : Nat) : Bool :=
  match t.arch.frames.getLast? with
  | some f => f.kind = 2 && t.arch.top + n > f.start + 64 * blkFrame (blockEntry s s.at_ t f.block)
  | none => false

/-- The window with the items of the task that are still to be written in their places: what a pop takes (R260, R282; log
entry 28). -/
def windowMem (s : State) (l : Loc) (t : Task) : Mem :=
  let items := s.calendar.filterMap fun e =>
    match e.what with
    | .resultLanding k r => match r.dest with
      | .item o => if k = l then some (o, r.val.toNat) else none
      | _ => none
    | _ => none
  items.foldl (fun m x => winWrite l t x.1 x.2 8 m) (s.die l.die).scratch

/-- An item lands in its place, when the window still holds its segment (R260, R282). -/
def landItem (s : State) (l : Loc) (t : Task) (o v : Nat) : State :=
  if (segsOf o 512).all fun g => (segState t g).any fun x => x.st == .resident || x.st == .outbound then
    s.modDie l.die fun d => { d with scratch := winWrite l t o v 8 d.scratch }
  else s

/-- A push of n bytes, a multiple of 64, takes its place on the stack; the bytes follow (R272, R273). -/
def reserveBytes (s : State) (t : Task) (n : Nat) (k : Nat → State → Task → Res) : Res :=
  match if replayFull s t n then some (s.fail 0x19) else pushCheck s t t.arch.top n with
  | some r => r
  | none =>
    let l := s.at_
    let o := t.arch.top
    let t' := { t with
      arch := { t.arch with top := o + n }
      res := { t.res with segs := addSegs (segsOf o n) (liveSegs (heldTop t) t.res.segs)
                          saved := t.res.saved ++ reusedBlocks (windowMem s l t) l t o (n / 64) } }
    k o (s.setTask l t') t'

/-- A push whose bytes are written at once. -/
def pushBytes (s : State) (t : Task) (n v : Nat) (k : State → Task → Res) : Res :=
  reserveBytes s t n fun o s t =>
    k (s.modDie s.at_.die fun d => { d with scratch := winWrite s.at_ t o v (n / 64) d.scratch }) t

/-- A pop of n bytes from the stack (R273, R277). -/
def popBytes (s : State) (t : Task) (n : Nat) (k : Nat → State → Task → Res) : Res :=
  if t.arch.top < n then s.fail 0x18
  else
    let o := t.arch.top - n
    match readCheck s t o n with
    | some r => r
    | none =>
      let v := winRead (windowMem s s.at_ t) s.at_ t o (n / 64)
      let t1 := { t with arch := { t.arch with top := o } }
      let t' := { t1 with res := { t1.res with segs := liveSegs (heldTop t1) t1.res.segs } }
      k v (s.setTask s.at_ t') t'

/-! ### Items (R142, R260 to R262) -/

/-- The last frame of the model's trace (log entry 6). -/
def modLastFrame (a : Arch) (f : FrameRec → FrameRec) : Arch :=
  match a.frames.reverse with
  | [] => a
  | x :: r => { a with frames := (f x :: r).reverse }

/-- One vector item pushed by the bundle in issue. -/
def pushItem (s : State) (t : Task) (v : Vec) (k : State → Task → Res) : Res :=
  pushBytes s t 512 v.toNat fun s1 t1 =>
    let t2 := { t1 with arch := modLastFrame t1.arch fun f => { f with items := f.items + 1 } }
    k (s1.setTask s1.at_ t2) t2

/-- An item that takes its place now and is written into it some cycles later: a result's at its landing, an RPUSH's after 2
(R142, R260, R282). -/
def pushLater (s : State) (t : Task) (lat : Nat) (v : Vec) (k : State → Task → Res) : Res :=
  reserveBytes s t 512 fun o s1 t1 =>
    let t2 := { t1 with arch := modLastFrame t1.arch fun f => { f with items := f.items + 1 } }
    k ((s1.setTask s1.at_ t2).emit t2 lat { dest := .item o, val := v }) t2

/-- A result that is a residual item, when the open block pushes any (R142). -/
def pushOutput (s : State) (t : Task) (lat : Nat) (v : Vec) (k : State → Task → Res) : Res :=
  if pushesItems s t then pushLater s t lat v k else k s t

/-- Items pushed in order, when the open block pushes any (R142, R268). -/
def pushItems (s : State) (t : Task) : List Vec → (State → Task → Res) → Res
  | [], k => k s t
  | v :: r, k => if pushesItems s t then pushItem s t v fun s1 t1 => pushItems s1 t1 r k else k s t

/-- A full packing buffer is written as one item at the next push point (R262). -/
def flushPack (s : State) (t : Task) (k : State → Task → Res) : Res :=
  if t.arch.pack.length ≥ 64 then
    pushItem s t (ofLanes 64 ((t.arch.pack.take 64).map (·.toNat))) fun s1 t1 =>
      let a := { t1.arch with pack := t1.arch.pack.drop 64 }
      let t2 := { t1 with arch := modLastFrame a fun f => { f with packs := f.packs ++ [t.arch.top] } }
      k (s1.setTask s1.at_ t2) t2
  else k s t

/-- A scalar word enters the packing buffer of the open block (R262). -/
def packWord (t : Task) (w : Word) : Task :=
  let a := { t.arch with pack := t.arch.pack ++ [w] }
  { t with arch := modLastFrame a fun f => { f with words := f.words + 1 } }

end Sys2Proof.Machine
end

