-- ==== Sys2Proof/Machine/LoadStore.lean ====
section
/-! DEFINITION. The LS-slot operations (R185 to R192), in forward code and in replay. -/

namespace Sys2Proof.Machine

/-! ### Shared parts -/

/-- The address A of an LS operation: xa plus the offset times the unit (R52, R185). -/
def lsAddr (t : Task) (xa : Fin 32) {n : Nat} (off : BitVec n) (unit_ : Nat) : Nat :=
  (t.arch.rx xa.val + off.signExtend 64 * BitVec.ofNat 64 unit_).toNat

/-- The post-increment: xa receives A at issue + 1 (R185). -/
def postInc (s : State) (t : Task) (pi : Bool) (xa : Fin 32) (a : Nat) : State :=
  if pi then s.emitX t 1 xa.val (BitVec.ofNat 64 a) else s

/-- Alignment, then bounds, of an access of a task; an access of no byte is not checked (R185). -/
def accessCheck (s : State) (t : Task) (sh : Shape) (en : Mask) (al : Bool) : Option Nat :=
  if accessesNone sh en then none
  else if !al then some 0x0A
  else if accessLegal (s.die s.at_.die) t.launch t.ctl.asid sh en then none
  else some 0x0B

/-- A load to a register, or into a write stream with disabled bytes zero (R186). -/
def loadTo (s : State) (t : Task) (lat : Nat) (d : VDst) (sh : Shape) (m : Mask) : Res :=
  match d with
  | .v n => .ok (issueLoad s t lat sh m { dest := .v (t.arch.phys n.val), en := m } .read)
  | .z n => pushStream s t n.val fun dest s t => .ok (issueLoad s t lat sh m { dest, en := m } .read)

/-- A store, which has no effect in replay (R181, R270). -/
def storeFrom (s : State) (t : Task) (lat : Nat) (op : AccOp) (sh : Shape) (data : Vec) (m : Mask) : Res :=
  if t.arch.walk.mode == .replay then .ok s
  else issueStore s t { die := s.at_.die, op, shape := sh, data, en := m, lat }

/-- A load form over one address (R185). -/
def loadForm (h : VHdr) (d : VDst) (xa : Fin 32) (pi : Bool) (lat : Nat) (addr : Task → Nat)
    (al : Nat → Task → Bool) (sh : Nat → Task → Shape) : Issue :=
  whenPred h.pr fun s t =>
    let a := addr t
    let m := t.arch.rm h.msk.val
    match accessCheck s t (sh a t) m (al a t) with
    | some c => s.fail c
    | none => (loadTo s t lat d (sh a t) m).bind fun s => .ok (postInc s t pi xa a)

/-- A store form over one address (R185). -/
def storeForm (h : VHdr) (src : MSrc) (xa : Fin 32) (pi : Bool) (lat : Nat) (addr : Task → Nat)
    (al : Nat → Task → Bool) (sh : Nat → Task → Shape) : Issue :=
  whenPred h.pr fun s t =>
    let a := addr t
    let m := t.arch.rm h.msk.val
    match accessCheck s t (sh a t) m (al a t) with
    | some c => s.fail c
    | none =>
      readM s t src fun v s t =>
        (storeFrom s t lat .write (sh a t) v m).bind fun s => .ok (postInc s t pi xa a)

def align64 (a : Nat) (_ : Task) : Bool := a % 64 = 0
def line512 (a : Nat) (_ : Task) : Shape := { base := a }

/-! ### Contiguous forms (R186) -/

/-- LDV (R186). -/
def issueLdv (h : VHdr) (d : VDst) (xa : Fin 32) (off : BitVec 16) (pi : Bool) : Issue :=
  loadForm h d xa pi 6 (fun t => lsAddr t xa off 64) align64 line512
def execLdv (h : VHdr) (d : VDst) (xa : Fin 32) (off : BitVec 16) (pi : Bool) (s : State) :
    Host.Outcome State Fault Refusal := runSlot (issueLdv h d xa off pi) s

/-- STV (R186). -/
def issueStv (h : VHdr) (v : MSrc) (xa : Fin 32) (off : BitVec 16) (pi : Bool) : Issue :=
  storeForm h v xa pi 2 (fun t => lsAddr t xa off 64) align64 line512
def execStv (h : VHdr) (v : MSrc) (xa : Fin 32) (off : BitVec 16) (pi : Bool) (s : State) :
    Host.Outcome State Fault Refusal := runSlot (issueStv h v xa off pi) s

/-- LDB: one 4-byte word in every lane (R186). -/
def issueLdb (h : VHdr) (d : VDst) (xa : Fin 32) (off : BitVec 16) (pi : Bool) : Issue :=
  loadForm h d xa pi 6 (fun t => lsAddr t xa off 4) (fun a _ => a % 4 = 0) (fun a _ => { base := a, stride := 0 })
def execLdb (h : VHdr) (d : VDst) (xa : Fin 32) (off : BitVec 16) (pi : Bool) (s : State) :
    Host.Outcome State Fault Refusal := runSlot (issueLdb h d xa off pi) s

/-- LDG replaces a gradient register (R125, R186). -/
def issueLdg (h : VHdr) (g : Fin 64) (xa : Fin 32) (off : BitVec 16) (pi : Bool) : Issue :=
  whenPred h.pr fun s t =>
    let a := lsAddr t xa off 64
    let m := t.arch.rm h.msk.val
    match accessCheck s t (line512 a t) m (align64 a t) with
    | some c => s.fail c
    | none =>
      .ok (postInc (issueLoad s t 6 (line512 a t) m { dest := .g (t.arch.phys g.val), en := m } .read) t pi xa a)
def execLdg (h : VHdr) (g : Fin 64) (xa : Fin 32) (off : BitVec 16) (pi : Bool) (s : State) :
    Host.Outcome State Fault Refusal := runSlot (issueLdg h g xa off pi) s

/-- STG (R186). -/
def issueStg (h : VHdr) (g : Fin 64) (xa : Fin 32) (off : BitVec 16) (pi : Bool) : Issue :=
  whenPred h.pr fun s t =>
    let a := lsAddr t xa off 64
    let m := t.arch.rm h.msk.val
    match accessCheck s t (line512 a t) m (align64 a t) with
    | some c => s.fail c
    | none =>
      (storeFrom s t 2 .write (line512 a t) (t.arch.rg g.val) m).bind fun s => .ok (postInc s t pi xa a)
def execStg (h : VHdr) (g : Fin 64) (xa : Fin 32) (off : BitVec 16) (pi : Bool) (s : State) :
    Host.Outcome State Fault Refusal := runSlot (issueStg h g xa off pi) s

/-! ### Strided forms (R187) -/

/-- The bytes of an element of W. -/
def iwBytes (w : IW) : Nat :=
  match w with
  | .w32 => 4
  | .w16 => 2
  | .w8 => 1

/-- The elements of a strided access: 4,096/w of them, xs bytes apart (R187). -/
def strided (w : IW) (xs : Fin 32) (a : Nat) (t : Task) : Shape :=
  { base := a, stride := (t.arch.rx xs.val).toInt, w := iwBytes w, n := 512 / iwBytes w }

/-- A and xs are multiples of the element (R187). -/
def stridedAlign (w : IW) (xs : Fin 32) (a : Nat) (t : Task) : Bool :=
  a % iwBytes w = 0 && (t.arch.rx xs.val).toNat % iwBytes w = 0

/-- LDVS (R187). -/
def issueLdvs (h : VHdr) (w : IW) (d : VDst) (xa xs : Fin 32) (off : BitVec 11) (pi : Bool) : Issue :=
  loadForm h d xa pi 8 (fun t => lsAddr t xa off 64) (stridedAlign w xs) (strided w xs)
def execLdvs (h : VHdr) (w : IW) (d : VDst) (xa xs : Fin 32) (off : BitVec 11) (pi : Bool) (s : State) :
    Host.Outcome State Fault Refusal := runSlot (issueLdvs h w d xa xs off pi) s

/-- STVS (R187). -/
def issueStvs (h : VHdr) (w : IW) (v : MSrc) (xa xs : Fin 32) (off : BitVec 11) (pi : Bool) : Issue :=
  storeForm h v xa pi 4 (fun t => lsAddr t xa off 64) (stridedAlign w xs) (strided w xs)
def execStvs (h : VHdr) (w : IW) (v : MSrc) (xa xs : Fin 32) (off : BitVec 11) (pi : Bool) (s : State) :
    Host.Outcome State Fault Refusal := runSlot (issueStvs h w v xa xs off pi) s

/-! ### Indexed forms (R188, R189) -/

/-- The 128 elements of an indexed access (R188). -/
def indexed (w : IW) (xa : Fin 32) (vi : Vec) (t : Task) : Shape :=
  { base := (t.arch.rx xa.val).toNat, stride := 0, w := iwBytes w, n := 128, idx := some vi }

/-- Alignment, then bounds, of an indexed access; its index vector is a residual item where `item` says so (R188,
R193). -/
def indexedForm (h : VHdr) (w : IW) (xa : Fin 32) (vi : Fin 64) (item : Bool) (k : Shape → Mask → Issue) : Issue :=
  whenPred h.pr fun s t =>
    let v := t.arch.rv vi.val
    let sh := indexed w xa v t
    let m := t.arch.rm h.msk.val
    match accessCheck s t sh m (sh.base % iwBytes w = 0) with
    | some c => s.fail c
    | none => pushItems s t (if item then [v] else []) fun s t => k sh m s t

/-- GATH: skipped elements and the bytes beyond element 127 are zero (R188). -/
def issueGath (h : VHdr) (w : IW) (d : Fin 64) (xa : Fin 32) (vi : Fin 64) : Issue :=
  indexedForm h w xa vi true fun sh m s t => loadTo s t 8 (.v d) sh m
def execGath (h : VHdr) (w : IW) (d : Fin 64) (xa : Fin 32) (vi : Fin 64) (s : State) :
    Host.Outcome State Fault Refusal := runSlot (issueGath h w d xa vi) s

/-- SCAT: the highest element wins (R188). -/
def issueScat (h : VHdr) (w : IW) (v : Fin 64) (xa : Fin 32) (vi : Fin 64) : Issue :=
  indexedForm h w xa vi true fun sh m s t => storeFrom s t 4 .write sh (t.arch.rv v.val) m
def execScat (h : VHdr) (w : IW) (v : Fin 64) (xa : Fin 32) (vi : Fin 64) (s : State) :
    Host.Outcome State Fault Refusal := runSlot (issueScat h w v xa vi) s

/-- SCATA: every element adds, in ascending order (R188). -/
def issueScata (h : VHdr) (v : Fin 64) (xa : Fin 32) (vi : Fin 64) : Issue :=
  indexedForm h .w32 xa vi true fun sh m s t => storeFrom s t 4 .addF32 sh (t.arch.rv v.val) m
def execScata (h : VHdr) (v : Fin 64) (xa : Fin 32) (vi : Fin 64) (s : State) : Host.Outcome State Fault Refusal :=
  runSlot (issueScata h v xa vi) s

/-- ATOMV: reads and writes in its one perform cycle, in both regimes; old values return to vr (R181, R189). -/
def issueAtomv (h : VHdr) (op : Aop) (r : Fin 64) (xa : Fin 32) (vi : Fin 64) : Issue :=
  indexedForm h .w32 xa vi false fun sh m s t =>
    let l := s.at_
    let a : Access := {
      die := l.die, op := .atom op, shape := sh, data := t.arch.rv r.val, en := m, src := some l
      bundle := t.fetch.pc, slot := s.slot.code, issued := s.now, start := s.now, timed := t.timed, asid := t.ctl.asid, lat := 8
      cls := .store, port := portOf l.core sh.base, time := s.gcc l t % 2 ^ 24, launch := t.launch
      land := some (s.landing t { dest := .v (t.arch.phys r.val), en := m }) }
    .ok (s.postAccess (s.now + 8 + placeLat l.core sh.base (s.gcc l t)) (some l) a)
def execAtomv (h : VHdr) (op : Aop) (r : Fin 64) (xa : Fin 32) (vi : Fin 64) (s : State) :
    Host.Outcome State Fault Refusal := runSlot (issueAtomv h op r xa vi) s

/-! ### Streams (R191, R192) -/

/-- The stream unbound: vectors read ahead are discarded, pushes already made still perform, and a binding whose
descriptor is still to land is given up (R192; log entry 24). -/
def unbind (s : State) (l : Loc) (z : Nat) : State :=
  let s1 := s.modTask l fun t =>
    (t.modStrm z fun _ => {}).modUnit z freeUnit
  { s1 with calendar := s1.calendar.filter fun e =>
      match e.what with
      | .streamFetch k y => !(k = l && y.val = z)
      | .accessPerform a =>
        !(a.src = some l && ((match a.op with | .fetch y _ => y = z | _ => false) || (a.land.map (·.dest)) == some (.bind z)))
      | .resultLanding k r => !(k = l && r.dest == .bind z)
      | _ => true }

/-- SBIND: unbinds, then reads the descriptor as a load; its contents decide the binding when it lands (R192). -/
def issueSbind (h : VHdr) (z : Fin 8) (xa : Fin 32) (off : BitVec 16) : Issue :=
  whenPred h.pr fun s t =>
    let a := lsAddr t xa off 64
    let sh : Shape := { base := a, n := 16 }
    let m : Mask := BitVec.ofNat 512 (2 ^ 64 - 1)
    match accessCheck s t sh m (a % 64 = 0) with
    | some c => s.fail c
    | none =>
      let s1 := unbind s s.at_ z.val
      .ok (issueLoad s1 t 6 sh m { dest := .bind z.val } .read)
def execSbind (h : VHdr) (z : Fin 8) (xa : Fin 32) (off : BitVec 16) (s : State) :
    Host.Outcome State Fault Refusal := runSlot (issueSbind h z xa off) s

/-- SUNB (R192). -/
def issueSunb (h : VHdr) (z : Fin 8) : Issue :=
  whenPred h.pr fun s _ => .ok (unbind s s.at_ z.val)
def execSunb (h : VHdr) (z : Fin 8) (s : State) : Host.Outcome State Fault Refusal := runSlot (issueSunb h z) s

/-! ### Result queues (R190) -/

/-- QPOP: the entry lands on vd at issue + 3 (R190). -/
def issueQpop (h : VHdr) (d : Fin 64) (q : Fin 4) : Issue :=
  whenPred h.pr fun s t =>
    popQueue s t q.val fun v s t => .ok (s.emitV t 3 d.val v (t.arch.rm h.msk.val) [])
def execQpop (h : VHdr) (d : Fin 64) (q : Fin 4) (s : State) : Host.Outcome State Fault Refusal :=
  runSlot (issueQpop h d q) s

/-- QST: the entry's 512 B are stored at A (R190). -/
def issueQst (h : VHdr) (q : Fin 4) (xa : Fin 32) (off : BitVec 16) (pi : Bool) : Issue :=
  whenPred h.pr fun s t =>
    let a := lsAddr t xa off 64
    let m := t.arch.rm h.msk.val
    match accessCheck s t (line512 a t) m (align64 a t) with
    | some c => s.fail c
    | none =>
      popQueue s t q.val fun v s t =>
        (storeFrom s t 2 .write (line512 a t) v m).bind fun s => .ok (postInc s t pi xa a)
def execQst (h : VHdr) (q : Fin 4) (xa : Fin 32) (off : BitVec 16) (pi : Bool) (s : State) :
    Host.Outcome State Fault Refusal := runSlot (issueQst h q xa off pi) s

/-- The all-zero LS slot (R446). -/
def issueLsNop : Issue := fun s _ => .ok s
def execLsNop (s : State) : Host.Outcome State Fault Refusal := runSlot issueLsNop s

end Sys2Proof.Machine
end

