-- ==== Sys2Proof/Machine/Matrix.lean ====
section
/-! DEFINITION. The M-slot operations (R152 to R166) and the arrival of broadcast rows (R162). -/

namespace Sys2Proof.Machine

/-! ### Shared parts -/

/-- An M-slot operation issues unless the array is held, and then holds it for h cycles (R153). -/
def mSlot (hold : Nat) (f : Issue) : Issue := fun s t =>
  if s.now ≤ t.mat.heldTo && t.mat.heldTo != 0 then s.fail 0x11
  else
    match f s t with
    | .ok s1 => .ok (s1.modTask s.at_ fun t => { t with mat := { t.mat with heldTo := s.now + hold - 1 } })
    | r => r

/-- The format a source is read in: AFMT for a register, the bound format for a stream (R154, R159, R166). -/
def srcFmt (t : Task) : MSrc → Fmt
  | .v _ => t.arch.afmt
  | .z n => ((t.arch.strm n.val).fmt).getD .f32

/-- A stream bound as int32 feeds no M-slot operation (R155, R159). -/
def srcInt32 (t : Task) : MSrc → Bool
  | .v _ => false
  | .z n => (t.arch.strm n.val).valid && (t.arch.strm n.val).fmt == some .int32

/-- A source's format is not known yet: its stream's descriptor is still to land. -/
def srcWaits (s : State) (t : Task) : MSrc → Bool
  | .v _ => false
  | .z n => strmWaits s t n.val

/-- Elements 0 to 127 of a source, as codes (R69, R154). -/
def elems128 (f : Fmt) (v : Vec) : List Nat := lanes (fwidth f) 128 v

/-- The count of distinct rows since the checkpoint with more rows added, or none beyond 64 (R183). -/
def addRows (t : Task) (rows : List Nat) : Option Task :=
  if t.timed then some t
  else
    let r := rows.foldl (fun (l : List Nat) x => if l.contains x then l else l ++ [x]) t.rows
    if r.length > 64 then none else some { t with rows := r }

/-- The rows an operation will write, counted at issue (R183). -/
def withRows (rows : List Nat) (f : Issue) : Issue := fun s t =>
  match addRows t rows with
  | none => s.fail 0x0C
  | some t1 => f (s.modTask s.at_ fun x => { x with rows := t1.rows }) t1

/-! ### Loads of the stationary tile (R154, R155) -/

/-- The check of R155 against the load state as it will stand; at issue the state advances. -/
def mwldCheck (t : Task) (k : Nat) (f : Fmt) (dirW : Bool) : Bool :=
  k = 0 || (f == t.mat.ldFmt && dirW == t.mat.ldDirW)

/-- MWLD.N and MWLD.W (R152, R154, R155). -/
def mwldOp (dirW : Bool) (k : Nat) (a : MSrc) : Issue :=
  mSlot 1 fun s t =>
    let f := srcFmt t a
    if !srcWaits s t a && (srcInt32 t a || !mwldCheck t k f dirW) then s.fail 0x12
    else
      readM s t a fun v s t =>
        let s1 := s.modTask s.at_ fun t => { t with mat := { t.mat with ldFmt := f, ldDirW := dirW } }
        .ok (s1.emit t 3 { dest := if dirW then .tileW k f else .tileN k f, val := v })

/-- MWLD.N (R154). -/
def issueMwldN (p : Fin 16) (k : Fin 128) (a : MSrc) : Issue := whenPred p (mwldOp false k.val a)
def execMwldN (p : Fin 16) (k : Fin 128) (a : MSrc) (s : State) : Host.Outcome State Fault Refusal :=
  runSlot (issueMwldN p k a) s

/-- MWLD.W (R154). -/
def issueMwldW (p : Fin 16) (k : Fin 128) (a : MSrc) : Issue := whenPred p (mwldOp true k.val a)
def execMwldW (p : Fin 16) (k : Fin 128) (a : MSrc) (s : State) : Host.Outcome State Fault Refusal :=
  runSlot (issueMwldW p k a) s

/-- MAFMT: AFMT is written at issue + 1 (R152, R158). -/
def issueMafmt (p : Fin 16) (f : Fmt) : Issue :=
  whenPred p (mSlot 1 fun s t => .ok (s.emit t 1 { dest := .afmt, val := BitVec.ofNat 4096 f.code }))
def execMafmt (p : Fin 16) (f : Fmt) (s : State) : Host.Outcome State Fault Refusal := runSlot (issueMafmt p f) s

/-! ### Beats (R156 to R160) -/

/-- W[i][j] as a value under WFMT. -/
def tileElem (m : Mat) (i j : Nat) : FV := fval m.wfmt (lane 32 (rd m.w i) j)

/-- The live pairs of a dot product for output n: activation index and tile element (R156, R159). -/
def beatTerms (m : Mat) (trans : Bool) (a : List FV) (n : Nat) : List (FV × FV) :=
  let outDim := if trans then !m.dirW else m.dirW
  if outDim && n ≥ m.edge then []
  else
    let k := if outDim then 128 else m.edge
    (a.take k).mapIdx fun i x => (x, if trans then tileElem m n i else tileElem m i n)

/-- The integer path is taken when both formats are integer formats (R160). -/
def intPath (t : Task) (f : Fmt) : Bool := !isFloat f && !isFloat t.mat.wfmt

/-- The 128 results t of a beat, each with its events (R81, R160). -/
def beatDots (t : Task) (trans : Bool) (f : Fmt) (codes : List Nat) : List (Nat × Evs) :=
  let a := codes.map (fval f)
  (List.range 128).map fun n =>
    let terms := beatTerms t.mat trans a n
    if intPath t f then (int32 (dotInt terms), 0) else dotF32 terms

/-- The landing of one row of a beat (R152, R160, R300). -/
def beatLand (t : Task) (row : Nat) (set : Bool) (f : Fmt) (d : List (Nat × Evs)) : Landing :=
  { dest := .acc row
    mode := if set then .beatSet else if intPath t f then .intBeatAcc else .beatAcc
    val := ofLanes 32 (d.map (·.1)), val2 := ofLanes 32 (d.map (·.2)) }

/-- The hold of a beat by its activation format (R152). -/
def beatHold (f : Fmt) : Nat :=
  match fwidth f with
  | 32 => 4
  | 16 => 2
  | _ => 1

/-- The peers of a sender: the other tasks of its broadcast set (R162). -/
def cbPeers (s : State) (t : Task) : List Loc :=
  match s.team s.at_.die t.team with
  | none => []
  | some tm =>
    (tm.cores.mapIdx fun ix c => (ix, c)).filterMap fun (ix, c) =>
      if ix / 8 = t.ctl.taskix / 8 && ix != t.ctl.taskix then some { die := s.at_.die, core := c } else none

/-- The A row of a beat with its format: the source, or for a peer of a broadcast the oldest entry of its buffer; a
sender's row leaves for every peer, 4 cycles on (R159, R162). -/
def beatRow (s : State) (t : Task) (cb : Bool) (a : MSrc) (k : Vec → Fmt → State → Task → Res) : Res :=
  if cb && t.ctl.taskix % 8 != 0 then
    match t.mat.arows with
    | e :: r =>
      let t1 := { t with mat := { t.mat with arows := r } }
      k e.val e.fmt (s.setTask s.at_ t1) t1
    | [] => if t.timed then s.fail 0x13 else .stall .stall
  else
    let f := srcFmt t a
    if srcInt32 t a then s.fail 0x12
    else
      readM s t a fun v s t =>
        let s1 := if cb then (cbPeers s t).foldl (fun (st : State) l =>
            st.post (st.now + 4) rkArrive (st.now * 16 + 5) (some s.at_) (.aRowArrival l v f)) s else s
        k v f s1 t

/-- The A row is a residual item of a floating-path beat inside a block (R168). -/
def beatItem (t : Task) (f : Fmt) (v : Vec) : List Vec := if intPath t f then [] else [v]

/-- MBEAT and MBEATT (R159, R160). -/
def beatOp (trans : Bool) (a : Nat) (set cb : Bool) (src : MSrc) : Issue := fun s t =>
  mSlot (beatHold (cbFmt t cb src)) (withRows [a] fun s t =>
    beatRow s t cb src fun v f s t =>
      pushItems s t (beatItem t f v) fun s t =>
        .ok (s.emit t 12 (beatLand t a set f (beatDots t trans f (elems128 f v))))) s t

/-- MBEAT (R159). -/
def issueMbeat (p : Fin 16) (a : Fin 1024) (set cb : Bool) (src : MSrc) : Issue :=
  whenPred p (beatOp false a.val set cb src)
def execMbeat (p : Fin 16) (a : Fin 1024) (set cb : Bool) (src : MSrc) (s : State) :
    Host.Outcome State Fault Refusal := runSlot (issueMbeat p a set cb src) s

/-- MBEATT (R159). -/
def issueMbeatt (p : Fin 16) (a : Fin 1024) (set cb : Bool) (src : MSrc) : Issue :=
  whenPred p (beatOp true a.val set cb src)
def execMbeatt (p : Fin 16) (a : Fin 1024) (set cb : Bool) (src : MSrc) (s : State) :
    Host.Outcome State Fault Refusal := runSlot (issueMbeatt p a set cb src) s

/-- MBEAT2: elements 0 to 127 into row a, 128 to 255 into row a + 1; 4-bit activations only (R159). -/
def issueMbeat2 (p : Fin 16) (a : Fin 1024) (set cb : Bool) (src : MSrc) : Issue :=
  whenPred p (mSlot 1 (withRows [a.val, a.val + 1] fun s t =>
    let peer := cb && t.ctl.taskix % 8 != 0
    if fwidth (cbFmt t cb src) != 4 && !(if peer then t.mat.arows.isEmpty else srcWaits s t src) then s.fail 0x12
    else
      beatRow s t cb src fun v f s t =>
        let l := lanes 4 256 v
        let s1 := s.emit t 12 (beatLand t a.val set f (beatDots t false f (l.take 128)))
        .ok (s1.emit t 12 (beatLand t (a.val + 1) set f (beatDots t false f (l.drop 128))))))
def execMbeat2 (p : Fin 16) (a : Fin 1024) (set cb : Bool) (src : MSrc) (s : State) :
    Host.Outcome State Fault Refusal := runSlot (issueMbeat2 p a set cb src) s

/-! ### Drains and clears (R163, R164) -/

/-- MDRN: an entry is reserved now, filled from the row at issue + 1, ready at issue + 4 (R152, R163, R165). -/
def issueMdrn (p : Fin 16) (a : Fin 1024) (q : Fin 4) (f : Fmt) (rm : Rm) : Issue :=
  whenPred p (mSlot 1 fun s t =>
    pushQueue s t q.val fun id s t =>
      .ok (s.post (s.now + 1) rkDrain (s.now * 16 + 5) (some s.at_)
        (.resultLanding s.at_ (s.landing t { dest := .drain q.val id a.val f rm }))))
def execMdrn (p : Fin 16) (a : Fin 1024) (q : Fin 4) (f : Fmt) (rm : Rm) (s : State) :
    Host.Outcome State Fault Refusal := runSlot (issueMdrn p a q f rm) s

/-- MCLR: rows a to a + n − 1 land zeroed at issue + 1 (R164). -/
def issueMclr (p : Fin 16) (a : Fin 1024) (n : Fin 8) : Issue :=
  let rows := (List.range (n.val + 1)).map (a.val + ·)
  whenPred p (mSlot 1 (withRows rows fun s t =>
    .ok (rows.foldl (fun (st : State) r => st.emit t 1 { dest := .acc r, mode := .zero }) s)))
def execMclr (p : Fin 16) (a : Fin 1024) (n : Fin 8) (s : State) : Host.Outcome State Fault Refusal :=
  runSlot (issueMclr p a n) s

/-- MGBEAT: a rank-1 update of the gradient plane at issue + 12; both operands are f32 (R166). -/
def issueMgbeat (p : Fin 16) (a b : MSrc) : Issue :=
  whenPred p (mSlot 1 fun s t =>
    if srcFmt t a != .f32 || srcFmt t b != .f32 then s.fail 0x12
    else
      readM s t a fun x s t => readM s t b fun y s t =>
        .ok (s.emit t 12 { dest := .plane, mode := .mgbeat, val := x, val2 := y }))
def execMgbeat (p : Fin 16) (a b : MSrc) (s : State) : Host.Outcome State Fault Refusal := runSlot (issueMgbeat p a b) s

/-- MGDRN: a plane row becomes an entry, read at issue + 1 (R164). -/
def issueMgdrn (p : Fin 16) (row : Fin 128) (q : Fin 4) : Issue :=
  whenPred p (mSlot 1 fun s t =>
    pushQueue s t q.val fun id s t =>
      .ok (s.post (s.now + 1) rkDrain (s.now * 16 + 5) (some s.at_)
        (.resultLanding s.at_ (s.landing t { dest := .drainPlane q.val id row.val }))))
def execMgdrn (p : Fin 16) (row : Fin 128) (q : Fin 4) (s : State) : Host.Outcome State Fault Refusal :=
  runSlot (issueMgdrn p row q) s

/-- MGCLR: the plane lands zeroed at issue + 1 (R164). -/
def issueMgclr (p : Fin 16) : Issue :=
  whenPred p (mSlot 1 fun s t => .ok (s.emit t 1 { dest := .plane, mode := .zero }))
def execMgclr (p : Fin 16) (s : State) : Host.Outcome State Fault Refusal := runSlot (issueMgclr p) s

/-- The all-zero M slot (R446). -/
def issueMNop : Issue := fun s _ => .ok s
def execMNop (s : State) : Host.Outcome State Fault Refusal := runSlot issueMNop s

/-! ### Broadcast rows (R162) -/

/-- A_ROW_ARRIVAL: the row enters the peer's buffer; at a full buffer it is the broadcast-overrun fault (R162). -/
def execARowArrival (l : Loc) (row : Vec) (f : Fmt) (s : State) : Host.Outcome State Fault Refusal :=
  match s.task l with
  | none => .next s
  | some t =>
    if t.phase != .running && t.phase != .held && t.phase != .stopped && t.phase != .saving then .next s
    else if t.mat.arows.length + t.lateRows.length ≥ 4 then .next (takeFault s l { code := 0x14, slot := 5 })
    else if t.phase = .stopped || t.phase = .saving then
      .next (s.modTask l fun t => { t with lateRows := t.lateRows ++ [(s.now - (t.stopAt + 1), { val := row, fmt := f })] })
    else .next (s.modTask l fun t => { t with mat := { t.mat with arows := t.mat.arows ++ [{ val := row, fmt := f }] } })

end Sys2Proof.Machine
end

