-- ==== Sys2Proof/Machine/Scalar.lean ====
section
/-! DEFINITION. The S-slot operations that compute: arithmetic, immediates, compares, predicate logic (R105 to R107),
control registers (R102, R103), statistics (R116), scalar memory (R117), and the XB transfers (R118). -/

namespace Sys2Proof.Machine

/-! ### Shapes -/

/-- A three-register form: rd receives `f` of ra and rb (R105). -/
def aluOp (lat : Nat) (f : Word → Word → Word) (p : Fin 16) (d a : Fin 32) (b : SSrc) : Issue :=
  whenPred p fun s t => .ok (s.emitX t lat d.val (f (t.arch.rx a.val) (t.arch.src b)))

/-- A two-register form (R105). -/
def unOp (f : Word → Word) (p : Fin 16) (d a : Fin 32) : Issue :=
  whenPred p fun s t => .ok (s.emitX t 1 d.val (f (t.arch.rx a.val)))

/-- An immediate form (R106). -/
def immOp (f : Word → Word) (p : Fin 16) (d : Fin 32) (a : SSrc) : Issue :=
  whenPred p fun s t => .ok (s.emitX t 1 d.val (f (t.arch.src a)))

/-- A predicate form (R107). -/
def predOp (f : Bool → Bool → Bool) (p : Fin 16) (q a b : Fin 16) : Issue :=
  whenPred p fun s t => .ok (s.emitP t 1 q.val (f (t.arch.pred a.val) (t.arch.pred b.val)))

/-- Leading zeros of the low `n` bits. -/
def clzGo : Nat → Nat → Nat
  | 0, _ => 0
  | n + 1, v => if v ≥ 2 ^ n then 0 else 1 + clzGo n v
/-- Trailing zeros of the low `n` bits. -/
def ctzGo : Nat → Nat → Nat
  | 0, _ => 0
  | n + 1, v => if v % 2 = 1 then 0 else 1 + ctzGo n (v / 2)

def swWidth : SW → Nat
  | .w8 => 8 | .w16 => 16 | .w32 => 32

/-- The condition codes (R107). -/
def ccHolds (c : CC) (a b : Word) : Bool :=
  match c with
  | .eq => a = b | .ne => a != b
  | .lt => a.slt b | .ge => !a.slt b | .le => !b.slt a | .gt => b.slt a
  | .ltu => a.ult b | .geu => !a.ult b | .leu => !b.ult a | .gtu => b.ult a

/-! ### Arithmetic -/

/-- The all-zero S slot (R446). -/
def issueSNop : Issue := fun s _ => .ok s
def execSNop (s : State) : Host.Outcome State Fault Refusal := runSlot issueSNop s

/-- ADD (R47, R105): latency 1 (R91). -/
def issueAdd (p : Fin 16) (d a : Fin 32) (b : SSrc) : Issue := aluOp 1 (fun ra rb => ra + rb) p d a b
def execAdd (p : Fin 16) (d a : Fin 32) (b : SSrc) (s : State) : Host.Outcome State Fault Refusal :=
  runSlot (issueAdd p d a b) s

/-- SUB (R47, R105): latency 1 (R91). -/
def issueSub (p : Fin 16) (d a : Fin 32) (b : SSrc) : Issue := aluOp 1 (fun ra rb => ra - rb) p d a b
def execSub (p : Fin 16) (d a : Fin 32) (b : SSrc) (s : State) : Host.Outcome State Fault Refusal :=
  runSlot (issueSub p d a b) s

/-- AND (R47, R105): latency 1 (R91). -/
def issueAnd (p : Fin 16) (d a : Fin 32) (b : SSrc) : Issue := aluOp 1 (fun ra rb => ra &&& rb) p d a b
def execAnd (p : Fin 16) (d a : Fin 32) (b : SSrc) (s : State) : Host.Outcome State Fault Refusal :=
  runSlot (issueAnd p d a b) s

/-- OR (R47, R105): latency 1 (R91). -/
def issueOr (p : Fin 16) (d a : Fin 32) (b : SSrc) : Issue := aluOp 1 (fun ra rb => ra ||| rb) p d a b
def execOr (p : Fin 16) (d a : Fin 32) (b : SSrc) (s : State) : Host.Outcome State Fault Refusal :=
  runSlot (issueOr p d a b) s

/-- XOR (R47, R105): latency 1 (R91). -/
def issueXor (p : Fin 16) (d a : Fin 32) (b : SSrc) : Issue := aluOp 1 (fun ra rb => ra ^^^ rb) p d a b
def execXor (p : Fin 16) (d a : Fin 32) (b : SSrc) (s : State) : Host.Outcome State Fault Refusal :=
  runSlot (issueXor p d a b) s

/-- ANDN (R47, R105): latency 1 (R91). -/
def issueAndn (p : Fin 16) (d a : Fin 32) (b : SSrc) : Issue := aluOp 1 (fun ra rb => ra &&& ~~~rb) p d a b
def execAndn (p : Fin 16) (d a : Fin 32) (b : SSrc) (s : State) : Host.Outcome State Fault Refusal :=
  runSlot (issueAndn p d a b) s

/-- SHL (R47, R105): latency 1 (R91). -/
def issueShl (p : Fin 16) (d a : Fin 32) (b : SSrc) : Issue := aluOp 1 (fun ra rb => ra <<< (rb.toNat % 64)) p d a b
def execShl (p : Fin 16) (d a : Fin 32) (b : SSrc) (s : State) : Host.Outcome State Fault Refusal :=
  runSlot (issueShl p d a b) s

/-- SHR (R47, R105): latency 1 (R91). -/
def issueShr (p : Fin 16) (d a : Fin 32) (b : SSrc) : Issue := aluOp 1 (fun ra rb => ra >>> (rb.toNat % 64)) p d a b
def execShr (p : Fin 16) (d a : Fin 32) (b : SSrc) (s : State) : Host.Outcome State Fault Refusal :=
  runSlot (issueShr p d a b) s

/-- SAR (R47, R105): latency 1 (R91). -/
def issueSar (p : Fin 16) (d a : Fin 32) (b : SSrc) : Issue := aluOp 1 (fun ra rb => ra.sshiftRight (rb.toNat % 64)) p d a b
def execSar (p : Fin 16) (d a : Fin 32) (b : SSrc) (s : State) : Host.Outcome State Fault Refusal :=
  runSlot (issueSar p d a b) s

/-- MIN (R47, R105): latency 1 (R91). -/
def issueMin (p : Fin 16) (d a : Fin 32) (b : SSrc) : Issue := aluOp 1 (fun ra rb => if ra.slt rb then ra else rb) p d a b
def execMin (p : Fin 16) (d a : Fin 32) (b : SSrc) (s : State) : Host.Outcome State Fault Refusal :=
  runSlot (issueMin p d a b) s

/-- MAX (R47, R105): latency 1 (R91). -/
def issueMax (p : Fin 16) (d a : Fin 32) (b : SSrc) : Issue := aluOp 1 (fun ra rb => if ra.slt rb then rb else ra) p d a b
def execMax (p : Fin 16) (d a : Fin 32) (b : SSrc) (s : State) : Host.Outcome State Fault Refusal :=
  runSlot (issueMax p d a b) s

/-- MINU (R47, R105): latency 1 (R91). -/
def issueMinu (p : Fin 16) (d a : Fin 32) (b : SSrc) : Issue := aluOp 1 (fun ra rb => if ra.ult rb then ra else rb) p d a b
def execMinu (p : Fin 16) (d a : Fin 32) (b : SSrc) (s : State) : Host.Outcome State Fault Refusal :=
  runSlot (issueMinu p d a b) s

/-- MAXU (R47, R105): latency 1 (R91). -/
def issueMaxu (p : Fin 16) (d a : Fin 32) (b : SSrc) : Issue := aluOp 1 (fun ra rb => if ra.ult rb then rb else ra) p d a b
def execMaxu (p : Fin 16) (d a : Fin 32) (b : SSrc) (s : State) : Host.Outcome State Fault Refusal :=
  runSlot (issueMaxu p d a b) s

/-- MUL (R47, R105): latency 3 (R91). -/
def issueMul (p : Fin 16) (d a : Fin 32) (b : SSrc) : Issue := aluOp 3 (fun ra rb => ra * rb) p d a b
def execMul (p : Fin 16) (d a : Fin 32) (b : SSrc) (s : State) : Host.Outcome State Fault Refusal :=
  runSlot (issueMul p d a b) s

/-- MULH (R47, R105): latency 3 (R91). -/
def issueMulh (p : Fin 16) (d a : Fin 32) (b : SSrc) : Issue := aluOp 3 (fun ra rb => BitVec.ofInt 64 ((ra.toInt * rb.toInt) / (2 ^ 64 : Nat))) p d a b
def execMulh (p : Fin 16) (d a : Fin 32) (b : SSrc) (s : State) : Host.Outcome State Fault Refusal :=
  runSlot (issueMulh p d a b) s

/-- MULHU (R47, R105): latency 3 (R91). -/
def issueMulhu (p : Fin 16) (d a : Fin 32) (b : SSrc) : Issue := aluOp 3 (fun ra rb => BitVec.ofNat 64 ((ra.toNat * rb.toNat) / 2 ^ 64)) p d a b
def execMulhu (p : Fin 16) (d a : Fin 32) (b : SSrc) (s : State) : Host.Outcome State Fault Refusal :=
  runSlot (issueMulhu p d a b) s

/-- ADDSH1 (R47, R105): latency 1 (R91). -/
def issueAddsh1 (p : Fin 16) (d a : Fin 32) (b : SSrc) : Issue := aluOp 1 (fun ra rb => ra + (rb <<< 1)) p d a b
def execAddsh1 (p : Fin 16) (d a : Fin 32) (b : SSrc) (s : State) : Host.Outcome State Fault Refusal :=
  runSlot (issueAddsh1 p d a b) s

/-- ADDSH2 (R47, R105): latency 1 (R91). -/
def issueAddsh2 (p : Fin 16) (d a : Fin 32) (b : SSrc) : Issue := aluOp 1 (fun ra rb => ra + (rb <<< 2)) p d a b
def execAddsh2 (p : Fin 16) (d a : Fin 32) (b : SSrc) (s : State) : Host.Outcome State Fault Refusal :=
  runSlot (issueAddsh2 p d a b) s

/-- ADDSH3 (R47, R105): latency 1 (R91). -/
def issueAddsh3 (p : Fin 16) (d a : Fin 32) (b : SSrc) : Issue := aluOp 1 (fun ra rb => ra + (rb <<< 3)) p d a b
def execAddsh3 (p : Fin 16) (d a : Fin 32) (b : SSrc) (s : State) : Host.Outcome State Fault Refusal :=
  runSlot (issueAddsh3 p d a b) s

/-- ADDSH4 (R47, R105): latency 1 (R91). -/
def issueAddsh4 (p : Fin 16) (d a : Fin 32) (b : SSrc) : Issue := aluOp 1 (fun ra rb => ra + (rb <<< 4)) p d a b
def execAddsh4 (p : Fin 16) (d a : Fin 32) (b : SSrc) (s : State) : Host.Outcome State Fault Refusal :=
  runSlot (issueAddsh4 p d a b) s

/-- CLZ (R105). -/
def issueClz (p : Fin 16) (d a : Fin 32) : Issue := unOp (fun ra => BitVec.ofNat 64 (clzGo 64 ra.toNat)) p d a
def execClz (p : Fin 16) (d a : Fin 32) (s : State) : Host.Outcome State Fault Refusal := runSlot (issueClz p d a) s

/-- CTZ (R105). -/
def issueCtz (p : Fin 16) (d a : Fin 32) : Issue := unOp (fun ra => BitVec.ofNat 64 (ctzGo 64 ra.toNat)) p d a
def execCtz (p : Fin 16) (d a : Fin 32) (s : State) : Host.Outcome State Fault Refusal := runSlot (issueCtz p d a) s

/-- POPC (R105). -/
def issuePopc (p : Fin 16) (d a : Fin 32) : Issue := unOp (fun ra => BitVec.ofNat 64 (popGo 64 ra.toNat)) p d a
def execPopc (p : Fin 16) (d a : Fin 32) (s : State) : Host.Outcome State Fault Refusal := runSlot (issuePopc p d a) s

/-- SEXT (R105). -/
def issueSext (p : Fin 16) (d a : Fin 32) (w : SW) : Issue := unOp (fun ra => wordOfInt (sextNat (swWidth w) ra.toNat)) p d a
def execSext (p : Fin 16) (d a : Fin 32) (w : SW) (s : State) : Host.Outcome State Fault Refusal :=
  runSlot (issueSext p d a w) s

/-- ZEXT (R105). -/
def issueZext (p : Fin 16) (d a : Fin 32) (w : SW) : Issue := unOp (fun ra => BitVec.ofNat 64 (ra.toNat % 2 ^ (swWidth w))) p d a
def execZext (p : Fin 16) (d a : Fin 32) (w : SW) (s : State) : Host.Outcome State Fault Refusal :=
  runSlot (issueZext p d a w) s

/-- ADDI (R106). -/
def issueAddi (p : Fin 16) (d : Fin 32) (a : SSrc) (imm : BitVec 11) : Issue := immOp (fun ra => ra + imm.signExtend 64) p d a
def execAddi (p : Fin 16) (d : Fin 32) (a : SSrc) (imm : BitVec 11) (s : State) : Host.Outcome State Fault Refusal :=
  runSlot (issueAddi p d a imm) s

/-- ANDI (R106). -/
def issueAndi (p : Fin 16) (d : Fin 32) (a : SSrc) (imm : BitVec 11) : Issue := immOp (fun ra => ra &&& imm.signExtend 64) p d a
def execAndi (p : Fin 16) (d : Fin 32) (a : SSrc) (imm : BitVec 11) (s : State) : Host.Outcome State Fault Refusal :=
  runSlot (issueAndi p d a imm) s

/-- ORI (R106). -/
def issueOri (p : Fin 16) (d : Fin 32) (a : SSrc) (imm : BitVec 11) : Issue := immOp (fun ra => ra ||| imm.signExtend 64) p d a
def execOri (p : Fin 16) (d : Fin 32) (a : SSrc) (imm : BitVec 11) (s : State) : Host.Outcome State Fault Refusal :=
  runSlot (issueOri p d a imm) s

/-- XORI (R106). -/
def issueXori (p : Fin 16) (d : Fin 32) (a : SSrc) (imm : BitVec 11) : Issue := immOp (fun ra => ra ^^^ imm.signExtend 64) p d a
def execXori (p : Fin 16) (d : Fin 32) (a : SSrc) (imm : BitVec 11) (s : State) : Host.Outcome State Fault Refusal :=
  runSlot (issueXori p d a imm) s

/-- SHLI (R106). -/
def issueShli (p : Fin 16) (d : Fin 32) (a : SSrc) (sh : Fin 64) : Issue := immOp (fun ra => ra <<< sh.val) p d a
def execShli (p : Fin 16) (d : Fin 32) (a : SSrc) (sh : Fin 64) (s : State) : Host.Outcome State Fault Refusal :=
  runSlot (issueShli p d a sh) s

/-- SHRI (R106). -/
def issueShri (p : Fin 16) (d : Fin 32) (a : SSrc) (sh : Fin 64) : Issue := immOp (fun ra => ra >>> sh.val) p d a
def execShri (p : Fin 16) (d : Fin 32) (a : SSrc) (sh : Fin 64) (s : State) : Host.Outcome State Fault Refusal :=
  runSlot (issueShri p d a sh) s

/-- SARI (R106). -/
def issueSari (p : Fin 16) (d : Fin 32) (a : SSrc) (sh : Fin 64) : Issue := immOp (fun ra => ra.sshiftRight sh.val) p d a
def execSari (p : Fin 16) (d : Fin 32) (a : SSrc) (sh : Fin 64) (s : State) : Host.Outcome State Fault Refusal :=
  runSlot (issueSari p d a sh) s

/-- LI writes the sign-extended immediate (R106). -/
def issueLi (p : Fin 16) (d : Fin 32) (imm : BitVec 16) : Issue :=
  whenPred p fun s t => .ok (s.emitX t 1 d.val (imm.signExtend 64))
def execLi (p : Fin 16) (d : Fin 32) (imm : BitVec 16) (s : State) : Host.Outcome State Fault Refusal :=
  runSlot (issueLi p d imm) s

/-- The value with 16-bit chunk `h` replaced (R106). -/
def replaceChunk (v : Word) (h : Nat) (imm : BitVec 16) : Word :=
  (v &&& ~~~((0xFFFF : Word) <<< (16 * h))) ||| (imm.setWidth 64 <<< (16 * h))

/-- LCH replaces one 16-bit chunk of rd (R106). -/
def issueLch (p : Fin 16) (d : Fin 32) (h : Fin 4) (imm : BitVec 16) : Issue :=
  whenPred p fun s t => .ok (s.emitX t 1 d.val (replaceChunk (t.arch.rx d.val) h.val imm))
def execLch (p : Fin 16) (d : Fin 32) (h : Fin 4) (imm : BitVec 16) (s : State) : Host.Outcome State Fault Refusal :=
  runSlot (issueLch p d h imm) s

/-- CMP (R107). -/
def issueCmp (p : Fin 16) (q : Fin 16) (a : Fin 32) (b : SSrc) (cc : CC) : Issue :=
  whenPred p fun s t => .ok (s.emitP t 1 q.val (ccHolds cc (t.arch.rx a.val) (t.arch.src b)))
def execCmp (p : Fin 16) (q : Fin 16) (a : Fin 32) (b : SSrc) (cc : CC) (s : State) : Host.Outcome State Fault Refusal :=
  runSlot (issueCmp p q a b cc) s

/-- CMPI compares with the sign-extended immediate (R107). -/
def issueCmpi (p : Fin 16) (q : Fin 16) (a : SSrc) (cc : CC) (imm : BitVec 8) : Issue :=
  whenPred p fun s t => .ok (s.emitP t 1 q.val (ccHolds cc (t.arch.src a) (imm.signExtend 64)))
def execCmpi (p : Fin 16) (q : Fin 16) (a : SSrc) (cc : CC) (imm : BitVec 8) (s : State) :
    Host.Outcome State Fault Refusal := runSlot (issueCmpi p q a cc imm) s

/-- PAND (R107). -/
def issuePand (p : Fin 16) (q a b : Fin 16) : Issue := predOp (fun x y => x && y) p q a b
def execPand (p : Fin 16) (q a b : Fin 16) (s : State) : Host.Outcome State Fault Refusal :=
  runSlot (issuePand p q a b) s

/-- POR (R107). -/
def issuePor (p : Fin 16) (q a b : Fin 16) : Issue := predOp (fun x y => x || y) p q a b
def execPor (p : Fin 16) (q a b : Fin 16) (s : State) : Host.Outcome State Fault Refusal :=
  runSlot (issuePor p q a b) s

/-- PXOR (R107). -/
def issuePxor (p : Fin 16) (q a b : Fin 16) : Issue := predOp (fun x y => x != y) p q a b
def execPxor (p : Fin 16) (q a b : Fin 16) (s : State) : Host.Outcome State Fault Refusal :=
  runSlot (issuePxor p q a b) s

/-- PNOT (R107). -/
def issuePnot (p : Fin 16) (q a : Fin 16) : Issue :=
  whenPred p fun s t => .ok (s.emitP t 1 q.val (!t.arch.pred a.val))
def execPnot (p : Fin 16) (q a : Fin 16) (s : State) : Host.Outcome State Fault Refusal := runSlot (issuePnot p q a) s

/-! ### Control registers (R102, R103) -/

/-- MODE (R102). -/
def Task.mode (t : Task) : Nat :=
  bit t.timed + 2 * bit (t.arch.walk.mode == .reverse) + 4 * bit (t.arch.blk.isSome && t.arch.walk.mode != .replay)
    + 8 * bit t.ctl.gang + 16 * bit (t.arch.walk.mode == .replay)

/-- The value RDC reads in this cycle, or none for an undefined register (R102). -/
def readCreg (s : State) (l : Loc) (t : Task) (c : Nat) : Option Nat :=
  match c with
  | 0x000 => some (s.gcc l t)
  | 0x001 => some (s.lcc l.die)
  | 0x002 => some (wrap64 t.ctl.dlt)
  | 0x003 => some (s.grp l.die)
  | 0x004 => some t.arch.alslack
  | 0x010 => some t.arch.rrb
  | 0x011 => some t.arch.ec
  | 0x012 => some t.arch.ldepth
  | 0x020 => some t.ctl.curlim
  | 0x021 => some t.ctl.frzcnt
  | 0x022 => some t.arch.remt
  | 0x023 => some t.arch.goff.toNat
  | 0x030 => some t.ctl.asid
  | 0x031 => some t.mode
  | 0x032 => some t.ctl.trapc.toNat
  | 0x033 => some t.ctl.trapva.toNat
  | 0x040 => some ((t.settleStq s.now).stq.filter fun e => e.1 < s.now).length
  | 0x041 => some (t.settleStq s.now).ctl.stqlost
  | 0x050 => some t.ctl.teamx
  | 0x051 => some t.ctl.teamy
  | 0x052 => some t.ctl.teamz
  | 0x053 => some t.ctl.taskix
  | 0x054 => some t.ctl.teamsz
  | 0x055 => some l.core
  | 0x056 => some l.die
  | 0x057 => some t.ctl.swbase
  | 0x058 => some t.ctl.swsize
  | 0x059 => some t.ctl.rchunk
  | _ => none

/-- The registers WRC may write (R102). -/
def wrcLegal (c : Nat) : Bool :=
  c = 0x004 || c = 0x010 || c = 0x011 || c = 0x012 || c = 0x021 || c = 0x022 || c = 0x023 || c = 0x041

/-- What a control-register write does when it lands: the low bits of the value, by the register's size (R103). -/
def writeCreg (t : Task) (c v : Nat) : Task :=
  match c with
  | 0x004 => { t with arch := { t.arch with alslack := v % 2 ^ 16 } }
  | 0x010 => { t with arch := { t.arch with rrb := v % 2 ^ 8 } }
  | 0x011 => { t with arch := { t.arch with ec := v % 2 ^ 16 } }
  | 0x012 => { t with arch := ({ t.arch with ldepth := Nat.min (v % 8) 6 } : Arch).derive }
  | 0x021 => { t with ctl := { t.ctl with frzcnt := v % 2 ^ 64 } }
  | 0x022 => { t with arch := { t.arch with remt := v % 2 ^ 32 } }
  | 0x023 => { t with arch := { t.arch with goff := BitVec.ofNat 64 v } }
  | 0x041 => { t with ctl := { t.ctl with stqlost := v % 2 ^ 32 } }
  | _ => t

/-- The old value of a register a pushed write replaces (R262). -/
def cregValue (t : Task) (c : Nat) : Nat :=
  match c with
  | 0x004 => t.arch.alslack | 0x010 => t.arch.rrb | 0x011 => t.arch.ec | 0x012 => t.arch.ldepth
  | 0x021 => t.ctl.frzcnt | 0x022 => t.arch.remt | 0x023 => t.arch.goff.toNat | 0x041 => t.ctl.stqlost
  | _ => 0

/-- RDC (R103): the value of the issue cycle, latency 1; an undefined register is the control-register fault. -/
def issueRdc (p : Fin 16) (d : Fin 32) (creg : BitVec 12) : Issue :=
  whenPred p fun s t =>
    match readCreg s s.at_ t creg.toNat with
    | some v => .ok (s.emitX t 1 d.val (BitVec.ofNat 64 v))
    | none => s.fail 0x04
def execRdc (p : Fin 16) (d : Fin 32) (creg : BitVec 12) (s : State) : Host.Outcome State Fault Refusal :=
  runSlot (issueRdc p d creg) s

/-- WRC (R103): bundles after this one see the value. Undefined and read-only registers, and a raised LDEPTH, are the
control-register fault. A write of LDEPTH beside a LOOP of its bundle stands over the level the LOOP opened (DESIGN CHOICE, log
entry 101). -/
def issueWrc (p : Fin 16) (creg : BitVec 12) (a : Fin 32) : Issue :=
  whenPred p fun s t =>
    let v := t.arch.rx a.val
    if !wrcLegal creg.toNat || (creg.toNat = 0x12 && decide (v.toNat % 8 > t.arch.ldepth)) then s.fail 0x04
    else .ok (s.emit t 1 { dest := .creg creg.toNat, val := v.setWidth 4096 })
def execWrc (p : Fin 16) (creg : BitVec 12) (a : Fin 32) (s : State) : Host.Outcome State Fault Refusal :=
  runSlot (issueWrc p creg a) s

/-- STQP (R116, R249): the oldest record held at the start of the cycle, or 0, with latency 3. -/
def issueStqp (p : Fin 16) (d : Fin 32) : Issue :=
  whenPred p fun s t =>
    let t1 := t.settleStq s.now
    match t1.stq with
    | (c, _, w) :: r =>
      if c < s.now then .ok ((s.setTask s.at_ { t1 with stq := r }).emitX t 3 d.val w)
      else .ok (s.emitX t 3 d.val 0)
    | [] => .ok (s.emitX t 3 d.val 0)
def execStqp (p : Fin 16) (d : Fin 32) (s : State) : Host.Outcome State Fault Refusal := runSlot (issueStqp p d) s

/-! ### Scalar memory (R117) -/

/-- The address of LDS and STS: imm11 counts 8 bytes. -/
def scalarAddr (t : Task) (a : SSrc) (imm : BitVec 11) : Nat :=
  (t.arch.src a + imm.signExtend 64 * 8).toNat

/-- The 8 enabled bytes of a scalar access. -/
def mask8 : Mask := 0xFF

/-- Alignment, then bounds, of a scalar access (R117, R176). -/
def scalarCheck (s : State) (t : Task) (addr : Nat) : Option Nat :=
  if addr % 8 ≠ 0 then some 0x0A
  else if saLegal (s.die s.at_.die) addr && byteLegal (s.die s.at_.die) t.launch t.ctl.asid addr then none
  else some 0x0B

/-- LDS (R117): 8 bytes land on rd after the latency of R178. -/
def issueLds (p : Fin 16) (d : Fin 32) (a : SSrc) (imm : BitVec 11) : Issue :=
  whenPred p fun s t =>
    let addr := scalarAddr t a imm
    match scalarCheck s t addr with
    | some c => s.fail c
    | none => .ok (issueLoad s t 4 { base := addr, stride := 8, w := 8, n := 1 } mask8
        { dest := .x d.val } .read)
def execLds (p : Fin 16) (d : Fin 32) (a : SSrc) (imm : BitVec 11) (s : State) : Host.Outcome State Fault Refusal :=
  runSlot (issueLds p d a imm) s

/-- STS (R117). In replay a store has no effect (R270). -/
def issueSts (p : Fin 16) (r : Fin 32) (a : SSrc) (imm : BitVec 11) : Issue :=
  whenPred p fun s t =>
    let addr := scalarAddr t a imm
    match scalarCheck s t addr with
    | some c => s.fail c
    | none =>
      if t.arch.walk.mode == .replay then .ok s
      else issueStore s t { die := s.at_.die, op := .write, shape := { base := addr, stride := 8, w := 8, n := 1 }
                            data := (t.arch.rx r.val).setWidth 4096, en := mask8, lat := 2 }
def execSts (p : Fin 16) (r : Fin 32) (a : SSrc) (imm : BitVec 11) (s : State) : Host.Outcome State Fault Refusal :=
  runSlot (issueSts p r a imm) s

/-! ### Transfers (R118) -/

def issueXbNop : Issue := fun s _ => .ok s
def execXbNop (s : State) : Host.Outcome State Fault Refusal := runSlot issueXbNop s

/-- XSV writes vd[63:0] (R118). -/
def issueXsv (vd : Fin 64) (xa : Fin 32) : Issue := fun s t =>
  .ok (s.emitV t 3 vd.val ((t.arch.rx xa.val).setWidth 4096) mask8 [])
def execXsv (vd : Fin 64) (xa : Fin 32) (s : State) : Host.Outcome State Fault Refusal := runSlot (issueXsv vd xa) s

/-- XVS reads va[63:0] (R118). -/
def issueXvs (xd : Fin 32) (va : Fin 64) : Issue := fun s t =>
  .ok (s.emitX t 3 xd.val ((t.arch.rv va.val).setWidth 64))
def execXvs (xd : Fin 32) (va : Fin 64) (s : State) : Host.Outcome State Fault Refusal := runSlot (issueXvs xd va) s

/-- XPV fills md with the predicate (R118). -/
def issueXpv (md : Fin 8) (pa : Fin 16) : Issue := fun s t =>
  .ok (s.emit t 3 { dest := .m md.val, val := if t.arch.pred pa.val then BitVec.ofNat 4096 (2 ^ 512 - 1) else 0 })
def execXpv (md : Fin 8) (pa : Fin 16) (s : State) : Host.Outcome State Fault Refusal := runSlot (issueXpv md pa) s

/-- XVP tests every bit of ma: the predicate is 1 when any bit is 1 (R48, R118). -/
def issueXvp (pd : Fin 16) (ma : Fin 8) : Issue := fun s t =>
  .ok (s.emitP t 3 pd.val (t.arch.rm ma.val != 0))
def execXvp (pd : Fin 16) (ma : Fin 8) (s : State) : Host.Outcome State Fault Refusal := runSlot (issueXvp pd ma) s

end Sys2Proof.Machine
end

