-- ==== Sys2Proof/Machine/Landings.lean ====
section
/-! DEFINITION. Results land (R91, R92, R125, R160 to R166, R249), accesses perform (R220 to R223), streams fetch and drain
(R212, R243, R244). -/

namespace Sys2Proof.Machine

/-! ### The text of a task -/

def taskImage (s : State) (l : Loc) (t : Task) : Image :=
  ((s.ctx l.die t.ctl.asid).bind fun c => mget c.images t.image).getD {}

/-- The decoded bundle at an index, when the index lies in the image and the bundle is legal. -/
def bundleAt (s : State) (l : Loc) (t : Task) (ix : Nat) : Option Bundled :=
  match (taskImage s l t).text[ix]? with
  | some w => match decodeBundle w.toNat with | .ok b => some b | .error _ => none
  | none => none

/-- The operation in a slot, by its number of R248. -/
def opAt (s : State) (l : Loc) (t : Task) (ix slot : Nat) : Option Instr :=
  (bundleAt s l t ix).bind fun b => (b.ops.find? fun o => o.1.code = slot).map (·.2)

/-- The scalar register an operation names as a destination. -/
def xDest : Instr → Option Nat
  | .add _ d _ _ | .sub _ d _ _ | .and _ d _ _ | .or _ d _ _ | .xor _ d _ _ | .andn _ d _ _ | .shl _ d _ _
  | .shr _ d _ _ | .sar _ d _ _ | .min _ d _ _ | .max _ d _ _ | .minu _ d _ _ | .maxu _ d _ _ | .mul _ d _ _
  | .mulh _ d _ _ | .mulhu _ d _ _ | .addsh1 _ d _ _ | .addsh2 _ d _ _ | .addsh3 _ d _ _ | .addsh4 _ d _ _ => some d.val
  | .clz _ d _ | .ctz _ d _ | .popc _ d _ | .sext _ d _ _ | .zext _ d _ _ => some d.val
  | .addi _ d _ _ | .andi _ d _ _ | .ori _ d _ _ | .xori _ d _ _ | .shli _ d _ _ | .shri _ d _ _ | .sari _ d _ _ => some d.val
  | .li _ d _ | .lch _ d _ _ | .rdc _ d _ | .stqp _ d | .lds _ d _ _ => some d.val
  | .call _ _ => some 31
  | .xvs d _ => some d.val
  | .ldv _ _ xa _ true | .stv _ _ xa _ true | .ldb _ _ xa _ true | .ldg _ _ xa _ true | .stg _ _ xa _ true
  | .qst _ _ xa _ true => some xa.val
  | .ldvs _ _ _ xa _ _ true | .stvs _ _ _ xa _ _ true => some xa.val
  | _ => none

/-- No bundle of the open block writes the register (R119). -/
def invariantReg (s : State) (l : Loc) (t : Task) (n : Nat) : Bool :=
  match t.arch.blk with
  | none => true
  | some b =>
    let e := blockEntry s l t b.block
    n = 0 || (List.range (blkEndIx e + 1 - blkStart e)).all fun i =>
      match bundleAt s l t (blkStart e + i) with
      | some bd => bd.ops.all fun o => xDest o.2 != some n
      | none => true

/-- The scalar source of an ADD, SUB or XOR keeps its value over the block. -/
def invariantSrc (s : State) (l : Loc) (t : Task) (li : Bool) : SSrc → Bool
  | .x n => invariantReg s l t n.val
  | .li _ => li

/-- A write to x register d is invertible: the walk undoes it without a word (R119). -/
def invertible (s : State) (l : Loc) (t : Task) (bundle slot d : Nat) : Bool :=
  slot = 6 || slot = 7 ||
  match opAt s l t bundle slot with
  | some (.addi _ _ a _) => a == .x (Fin.ofNat 32 d)
  | some (.xori _ _ a _) => a == .x (Fin.ofNat 32 d)
  | some (.add _ _ a b) => a.val = d && invariantSrc s l t true b
  | some (.sub _ _ a b) => a.val = d && invariantSrc s l t true b
  | some (.xor _ _ a b) => a.val = d && invariantSrc s l t false b
  | _ => false

/-! ### Writes that land together (R92, R125) -/

/-- The other landings of this cycle on one destination, still to come in the order of the calendar: the later-issued
ones, and of one bundle the higher slots. -/
def laterLandings (s : State) (l : Loc) (r : Landing) : List Landing :=
  (s.calendar.takeWhile fun e => e.due ≤ s.now).filterMap fun e =>
    match e.what with
    | .resultLanding k q => if k = l && q.dest == r.dest && q.mode == .replace then some q else none
    | _ => none

/-- The bytes, or for a mask the bits, that a register write reaches: 8 of a scalar or control register, 1 of a predicate. A
write to x0 and one shifted past stage bit 7 are discarded (R90, R95; log entry 82). -/
def reaches (r : Landing) : Mask :=
  match r.dest with
  | .x n => if n = 0 then 0 else 255
  | .creg _ => 255
  | .p _ => 1
  | .stage b => if b < 8 then 1 else 0
  | .m _ | .v _ | .g _ => r.en
  | _ => 0

/-- What some writes reach, and what two or more of them reach. -/
def overlaps (l : List Landing) : Mask × Mask :=
  l.foldl (fun a r => (a.1 ||| reaches r, a.2 ||| (a.1 &&& reaches r))) (0, 0)

/-- The write that wins a collision takes its event: with a first loser of its bundle the count is whole, and later losers
find it there (R92, R125). -/
def takeClash (n : Nat) (r : Landing) : Landing :=
  if r.evs.any fun e => e.1 = 0x20 then r else { r with evs := r.evs ++ [(0x20, n)] }

/-- The write-collision event of a register's writes of one bundle (R92, R125): the landing of the highest slot that shares a
byte records it, with the bytes that two or more of them reach (DEDUCED, log entry 82). -/
def collide (s : State) (r : Landing) (later : List Landing) : State :=
  let same := later.filter fun q => q.issued = r.issued
  let both := (overlaps (r :: same)).2
  match (same.filter fun q => reaches q &&& both != 0).getLast? with
  | none => s
  | some w =>
    { s with calendar := s.calendar.map fun e =>
        match e.what with
        | .resultLanding l q => if q.id = w.id && q.dest == w.dest && e.due = s.now then { e with what := .resultLanding l (takeClash (popc both) q) } else e
        | _ => e }

/-- The bytes the write changes: those that go to no later-issued write of the cycle (R125, R143). -/
def writtenEn (r : Landing) (later : List Landing) : Mask := r.en &&& ~~~(later.foldl (fun m q => m ||| q.en) 0)

/-! ### Landing on each destination -/

/-- A residual word of a landing, kept until the cycle's words enter the packing buffer in slot order (R262). -/
def freshWord (s : State) (t : Task) (r : Landing) (w : Word) : Task :=
  if pushesItems s t then { t with arch := { t.arch with fresh := insertFresh (r.slot, r.issued, w) t.arch.fresh } } else t
where
  insertFresh (e : Nat × Nat × Word) : List (Nat × Nat × Word) → List (Nat × Nat × Word)
    | [] => [e]
    | x :: xs => if e.1 < x.1 || (e.1 = x.1 && e.2.1 < x.2.1) then e :: x :: xs else x :: insertFresh e xs

/-- The trace of a landing inside a block, for the reverse walk (R265; log entry 6). -/
def traceLanding (s : State) (t : Task) (r : Landing) (lost pushed : Bool) : Task :=
  match t.arch.blk with
  | none => t
  | some b =>
    if boundaryFrame s t then t
    else { t with arch := modLastFrame t.arch fun f =>
            { f with lands := f.lands ++ [{ pos := b.n, ipos := r.pos, slot := r.slot, dest := r.dest, en := r.en, lost, pushed }] } }

/-- A write to a scalar register lands (R90, R119); one that is lost to another of the cycle is none to invert. -/
def landX (s : State) (l : Loc) (t : Task) (r : Landing) (n : Nat) (lost : Bool) : Task :=
  if n = 0 then t
  else
    let inv := t.arch.blk.isSome && invertible s l t r.bundle r.slot n
    let t1 := if inv then t else freshWord s t r (t.arch.rx n)
    traceLanding s { t1 with arch := { t1.arch with x := mset t1.arch.x n (r.val.setWidth 64) } } r lost (!inv)

/-- A predicate lands; its old value is the residual word (R93, R262). -/
def landP (s : State) (t : Task) (r : Landing) (n : Nat) : Task :=
  if n < 4 then t
  else
    let t1 := freshWord s t r (if t.arch.pred n then 1 else 0)
    traceLanding s { t1 with arch := { t1.arch with p := setPred t1.arch.p n (r.val.toNat % 2 = 1) } } r false true

/-- A row as it stood before this cycle's landings (R160, R161). -/
def rowBefore (s : State) (t : Task) (row : Nat) : Vec :=
  match t.mat.prev.find? fun e => e.1 = row && e.2.1 = s.now with
  | some e => e.2.2
  | none => rd t.mat.acc row

/-- The first landing on a row after a checkpoint saves it (R183). -/
def saveRow (t : Task) (row : Nat) : Task :=
  if t.timed || t.undo.any (fun u => u.row = row) then t
  else { t with undo := t.undo ++ [{ row, val := rd t.mat.acc row, flag := t.arch.satf.getLsbD row }] }

def setFlag (m : BitVec 1024) (row : Nat) (b : Bool) : BitVec 1024 :=
  if b then m ||| BitVec.ofNat 1024 (2 ^ row) else m &&& ~~~(BitVec.ofNat 1024 (2 ^ row))

/-- What a landing on an accumulator row leaves: the row, its flag, and each element's events (R81, R82, R300). -/
def rowResult (old : Vec) (flag : Bool) (r : Landing) : Vec × Bool × List Evs :=
  let v := lanes 32 128 r.val
  let e := lanes 32 128 r.val2
  match r.mode with
  | .beatAcc =>
    let x := List.zipWith (fun o (p : Nat × Nat) => let a := accF32 o p.1; (a.1, a.2 ||| p.2)) (lanes 32 128 old) (List.zip v e)
    (ofLanes 32 (x.map (·.1)), flag, x.map (·.2))
  | .f32acc =>
    let x := List.zipWith accF32 (lanes 32 128 old) v
    (ofLanes 32 (x.map (·.1)), flag, x.map (·.2))
  | .intBeatAcc =>
    let x := List.zipWith addSat32 (lanes 32 128 old) v
    let sat := x.any fun y => y.2 != 0
    (ofLanes 32 (x.map (·.1)), flag || sat, x.map fun y => if y.2 != 0 && !flag then evASAT else 0)
  | .zero => (0, false, [])
  | .beatSet => (r.val, false, e)
  | _ => (mergeBytes old r.val r.en, flag, [])

/-- The count of each event kind over elements (R88). -/
def elemEvents (l : List Evs) : List (Nat × Nat) := kindCounts (l.map fun e => (true, e))

/-- The events of a landing go to the statistics queue (R249). -/
def landEvents (s : State) (r : Landing) (evs : List (Nat × Nat)) (t : Task) : Task :=
  t.events s.now r.slot r.rev r.timed r.bundle r.time evs

/-- A landing on an accumulator row (R160, R161, R183). -/
def landAcc (s : State) (t : Task) (r : Landing) (row : Nat) : Task :=
  let before := rowBefore s t row
  let t1 := saveRow t row
  let (v, f, e) := rowResult before (t.arch.satf.getLsbD row) r
  let t2 := { t1 with
    mat := { t1.mat with
      acc := mset t1.mat.acc row v
      prev := (row, s.now, before) :: t1.mat.prev.filter fun e => e.2.1 = s.now && e.1 != row }
    arch := { t1.arch with satf := setFlag t1.arch.satf row f } }
  traceLanding s (landEvents s r (elemEvents e) t2) r false false

/-- What a landing makes of the gradient plane, with the events of its elements: a rank-1 update or the clear (R164, R166). -/
def planeAfter (p : Map Vec) (r : Landing) : Map Vec × List Evs :=
  match r.mode with
  | .mgbeat =>
    let a := lanes 32 128 r.val
    let dy := (lanes 32 128 r.val2).map (fval .f32)
    let rows := a.mapIdx fun i x =>
      List.zipWith (fun old y =>
        let d := dotF32 [(fval .f32 x, y)]
        let z := accF32 old d.1
        (z.1, z.2 ||| d.2)) (lanes 32 128 (rd p i)) dy
    ((rows.mapIdx fun i z => (i, z)).foldl (fun m (i, z) => mset m i (ofLanes 32 (z.map (·.1)))) p, rows.flatMap fun z => z.map (·.2))
  | _ => ([], [])

/-- A landing on the gradient plane. -/
def landPlane (s : State) (t : Task) (r : Landing) : Task :=
  let x := planeAfter t.mat.plane r
  landEvents s r (elemEvents x.2) { t with mat := { t.mat with plane := x.1 } }

/-- A line of the stationary tile lands (R154, R155). -/
def landTile (t : Task) (r : Landing) (k : Nat) (f : Fmt) (dirW : Bool) : Task :=
  let m := t.mat
  let codes := elems128 f r.val
  let w0 := if k = 0 && f != m.wfmt then [] else m.w
  let w1 := if dirW then
      (List.range 128).foldl (fun w i =>
        mset w i (ofLanes 32 ((lanes 32 128 (rd w i)).set k (nth 0 codes i)))) w0
    else mset w0 k (ofLanes 32 codes)
  let edge := if k = 0 then 1 else Nat.max m.edge (k + 1)
  { t with mat := { m with w := w1, wfmt := if k = 0 then f else m.wfmt, dirW := if k = 0 then dirW else m.dirW, edge } }

/-- The entry an MDRN makes of a row, with each element's events (R163). -/
def drainEntry (row : Vec) (f : Fmt) (rm : Rm) : Vec × List Evs :=
  match f with
  | .f32 => (row, [])
  | .int32 => (row, [])
  | _ =>
    let x := (lanes 32 128 row).map fun w =>
      if isFloat f then cvtFmt .f32 f rm w else cvtFmt .int32 f rm w
    (ofLanes (fwidth f) (x.map (·.1)), x.map (·.2))

/-- The late writes of a stopped task to a destination that would have landed by now (R300). -/
def lateNow (s : State) (t : Task) (d : Dest) : List Late :=
  t.late.filter fun x => x.land.dest == d && decide (t.stopAt + 1 + x.r ≤ s.now)

/-- A row, and the gradient plane, as a drain of a stopped task reads them: the late values that would have landed by now
included, as the uninterrupted run reads them (R163, R164, R300). -/
def rowNow (s : State) (t : Task) (row : Nat) : Vec :=
  (lateNow s t (.acc row)).foldl (fun v x => (rowResult v false x.land).1) (rd t.mat.acc row)
def planeNow (s : State) (t : Task) : Map Vec := (lateNow s t .plane).foldl (fun p x => (planeAfter p x.land).1) t.mat.plane

/-! ### The queues of the Mules (R203, R207) -/

/-- What stands in the queue of a Mule: accepted copies, and the main-memory streams that it serves (R203, R207, R212; log
entry 36). -/
def muleQueue (d : Die) (m : Nat) : Nat :=
  (d.cmds.filter fun e => e.2.kind = .mcpy && e.2.acc && !e.2.done && e.2.mule = m && e.2.n > 0).length +
  ((d.tasks.flatMap fun e => e.2.units).filter fun u => u.mule = some m).length

/-- The Mule of a cluster with the shorter queue (R207). -/
def pickMule (d : Die) (cluster : Nat) : Nat :=
  if muleQueue d (2 * cluster + 1) < muleQueue d (2 * cluster) then 2 * cluster + 1 else 2 * cluster

/-- A main-memory stream enters a Mule's queue at its binding, or later once the queue has room (R203; log entry 36). -/
def enterMule (s : State) (l : Loc) (z : Nat) : State :=
  let m := pickMule (s.die l.die) (l.core / 32)
  s.modTask l fun t =>
    if (nth {} t.units z).mule.isSome || muleQueue (s.die l.die) m ≥ 32 then t
    else t.modUnit z fun u => { u with mule := some m }

/-- A descriptor lands: it binds its stream, or its contents are the stream-binding fault (R192, R243). -/
def landBind (s : State) (l : Loc) (t : Task) (r : Landing) (z : Nat) : State :=
  let d : Strm := { valid := true, desc := r.val.setWidth 512 }
  if strmLegal t.timed d then
    let t1 := (t.modStrm z fun _ => d).modUnit z fun u => { freeUnit u with busy := !d.write, from_ := s.now }
    let s1 := if d.mainMem then enterMule (s.setTask l t1) l z else s.setTask l t1
    if d.write then s1 else s1.postUnit s.now rkDrain (.streamFetch l (Fin.ofNat 8 z))
  else takeFault s l { code := 0x0D, slot := r.slot, bundle := some r.bundle }

/-- The data of a push lands: a store of the buffer has its data; a released one starts now; a main-memory vector is
ready for its Mule (R244). -/
def landPush (s : State) (l : Loc) (t : Task) (r : Landing) (z k : Nat) : State :=
  let key := z * 2 ^ 32 + k
  let val := r.val &&& spread r.en
  let put (a : Access) : Access := { a with data := val, ready := true, start := s.now }
  let is (a : Access) : Bool := !a.ready && a.cmd = some key
  if t.sbuf.any is then
    s.setTask l { t with sbuf := (t.sbuf.takeWhile fun a => !is a) ++
      (match t.sbuf.dropWhile fun a => !is a with
        | a :: rest => put a :: rest
        | [] => []) }
  else
    match t.wpend.find? is with
    | some a =>
      let b := put a
      (s.setTask l { t with wpend := t.wpend.erase a }).postAccess (storeDue s l t b s.now) none { b with cmd := none }
    | none =>
      let u := nth {} t.units z
      let fill : List (Nat × Nat × Option Vec) → List (Nat × Nat × Option Vec) :=
        fun d => (d.takeWhile fun e => !(e.1 = k && e.2.2.isNone)) ++
          (match d.dropWhile fun e => !(e.1 = k && e.2.2.isNone) with
            | e :: rest => (e.1, e.2.1, some val) :: rest
            | [] => [])
      let (n, s1) := s.nextFree
      let head : Bool := match u.drain with
        | e :: _ => e.1 == k
        | [] => false
      let s2 := s1.setTask l (t.modUnit z fun x => { x with drain := fill x.drain })
      if head then s2.postUnit (s.now + 1 + n % 65536) rkRead (.muleStreamTransfer l (Fin.ofNat 8 z)) else s2

/-- A queue entry receives its value; its records follow in its ready cycle (R163, R249). -/
def landDrain (s : State) (l : Loc) (t : Task) (r : Landing) (q id : Nat) (v : Vec) (evs : List Evs) : State :=
  let s1 := s.setTask l (t.fillQueue q id v)
  match elemEvents evs with
  | [] => s1
  | e => s1.post (s.now + 3) rkLand (r.issued * 16 + r.slot) (some l) (.resultLanding l { r with dest := .none, evs := e })

/-- A result lands on its destination in a running task. Of the scalar writes that land on one register in a cycle only the
last changes it, so that the residual word of each is the value before the cycle (R92, R262; log entry 83). -/
def landOn (s : State) (l : Loc) (t : Task) (r : Landing) : State :=
  let later := laterLandings s l r
  let s := collide s r later
  let t0 := landEvents s r r.evs t
  match r.dest with
  | .x n => s.setTask l (landX s l t0 (if later.isEmpty then r else { r with val := (t0.arch.rx n).setWidth 4096 }) n (!later.isEmpty))
  | .p n => s.setTask l (landP s t0 (if later.isEmpty then r else { r with val := bit (t0.arch.pred n) }) n)
  | .stage b =>
    if b < 8 then s.setTask l (landP s t0 (if later.isEmpty then r else { r with val := bit (t0.arch.pred (8 + b)) }) (8 + b))
    else s.setTask l t0
  | .m n =>
    if n = 0 then s.setTask l t0
    else
      let old := rd t0.arch.m n
      s.setTask l { t0 with arch := { t0.arch with m := mset t0.arch.m n ((old &&& ~~~r.en) ||| (r.val.setWidth 512 &&& r.en)) } }
  | .v n =>
    let t1 := { t0 with arch := { t0.arch with v := mset t0.arch.v n (mergeBytes (rd t0.arch.v n) r.val r.en) } }
    let en := writtenEn r later
    s.setTask l (traceLanding s t1 { r with en } (en = 0) false)
  | .g n =>
    let old := rd t0.arch.g n
    let (v, e) := if r.mode == .f32acc then
        let x := List.zipWith accF32 (lanes 32 128 old) (lanes 32 128 r.val)
        (ofLanes 32 (x.map (·.1)), elemEvents (x.map (·.2)))
      else (mergeBytes old r.val r.en, [])
    s.setTask l (landEvents s r e { t0 with arch := { t0.arch with g := mset t0.arch.g n v } })
  | .acc row => s.setTask l (landAcc s t0 r row)
  | .plane =>
    let t1 := landPlane s t0 r
    s.setTask l { t1 with shadow := { t1.shadow with carry := t1.shadow.carry.filter fun c => c.id != r.id } }
  | .creg n =>
    let t0 := t0.settleStq s.now
    let t1 := freshWord s t0 r (BitVec.ofNat 64 (cregValue t0 n))
    s.setTask l (traceLanding s ((if later.isEmpty then writeCreg t1 n (r.val.toNat % 2 ^ 64) else t1)) r false true)
  | .afmt => s.setTask l { t0 with arch := { t0.arch with afmt := (Fmt.ofCode r.val.toNat).getD .f32 } }
  | .tileN k f => s.setTask l (landTile t0 r k f false)
  | .tileW k f => s.setTask l (landTile t0 r k f true)
  | .drain q id row f rm =>
    let (v, e) := drainEntry (rowNow s t0 row) f rm
    landDrain s l (traceLanding s t0 r false false) r q id v e
  | .drainPlane q id row => landDrain s l t0 r q id (rd (planeNow s t0) row) []
  | .push z k => landPush s l (traceLanding s t0 r false false) r z k
  | .bind z => landBind s l t0 r z
  | .item o => landItem (s.setTask l t0) l t0 o r.val.toNat
  | .none => s.setTask l t0

/-- A stopped task's results become late writes with their remaining cycles; pushes, queue entries and tile lines land
(R299, R300). -/
def landStopped (s : State) (l : Loc) (t : Task) (r : Landing) : State :=
  match r.dest with
  | .bind _ => landOn s l t r
  | _ =>
    if destCarried r.dest then
      let t1 := landEvents s r r.evs t
      s.setTask l { t1 with late := t1.late ++ [{ id := r.id, r := s.now - (t.stopAt + 1), land := { r with evs := [] } }] }
    else landOn s l t r

/-- A core that waits for its remote value goes on in the cycle after the landing (R322). -/
def remoteDone (s : State) (l : Loc) (r : Landing) : State :=
  match s.task l with
  | none => s
  | some t =>
    if t.wait = .remote r.id then (delayCore (s.modTask l fun t => { t with wait := .none }) l).postIssue (s.now + 1) l else s

/-- RESULT_LANDING (R91). -/
def execResultLanding (l : Loc) (r : Landing) (s : State) : Host.Outcome State Fault Refusal :=
  let s := { s with at_ := l }
  match s.task l with
  | none => .next s
  | some t =>
    match t.phase with
    | .running => .next (remoteDone (landOn s l t r) l r)
    | .stopped => .next (landStopped s l t r)
    | .saving => .next (landStopped s l t r)
    | .held => .next (if destCarried r.dest then s else landOn s l t r)
    | _ => .next s

/-! ### Accesses perform (R220 to R223) -/

/-- Where an address of an access lies: the scratch address or DPA that its shadow map and translation give it in this
cycle (R315, R326). -/
def resolveAddr (s : State) (xyz asid : Nat) (m : MemKind) (a : Nat) : Option Nat :=
  let es := shadowsOf s xyz asid
  match m with
  | .scratch => some (remap es false a)
  | .dram => some a
  | .virt => match xlateUnit s xyz asid (remap es true a) false false with
    | .ok d => some d
    | .error _ => none

/-- The accessed elements with their addresses resolved. -/
def resolved (s : State) (a : Access) : List (Nat × Nat × Nat) :=
  (elems a.shape a.en).filterMap fun e => (resolveAddr s a.die a.asid a.mem e.2.1).map fun x => (e.1, x, e.2.2)

def memOf (d : Die) (m : MemKind) : Mem := if m == .scratch then d.scratch else d.dram
/-- The scratchpad as a read of this cycle sees it (R222). -/
def scratchNow (now : Nat) (d : Die) : Mem :=
  match d.was with
  | some (c, m) => if c = now then m else d.scratch
  | none => d.scratch

/-- The memory after a write in this cycle; the scratchpad keeps what the cycle's reads see (R222). -/
def setMem (now : Nat) (d : Die) (m : MemKind) (x : Mem) : Die :=
  if m == .scratch then { d with scratch := x, was := some (now, scratchNow now d) } else { d with dram := x }

/-- The new word of an atomic, with its events (R189, R223). -/
def atomWord (op : Aop) (old v : Nat) : Nat × Evs :=
  match op with
  | .addf => accF32 old v
  | .addi => addSat32 old v
  | .maxf => (fmax .f32 old v, 0)
  | .minf => (fmin .f32 old v, 0)
  | .xchg => (v, 0)

/-- The elements of an accumulate or atomic in ascending order: memory, the old words by element, and each element's
events. -/
def rmwElems (f : Nat → Nat → Nat × Evs) (data : Nat) : List (Nat × Nat × Nat) → Mem → Mem × List (Nat × Nat) × List Evs
  | [], m => (m, [], [])
  | (i, a, _) :: r, m =>
    let old := Mem.num m a 4
    let x := f old (data >>> (32 * i) % 2 ^ 32)
    let z := rmwElems f data r (Mem.wrNum m a x.1 4)
    (z.1, (i, old) :: z.2.1, x.2 :: z.2.2)

/-- The bytes an access writes, by resolved address. -/
def writtenBytes (s : State) (a : Access) : List Nat :=
  (resolved s a).flatMap fun e => (List.range a.shape.w).filterMap fun j =>
    if (e.2.2 >>> j) % 2 = 1 then some (e.2.1 + j) else none

/-- The address at which a word of a timed transfer performs: a chunk that names a shadow map entry receives into the side
that is the shadow (R226). -/
def wordAddr (s : State) (w : FabWord) : Nat :=
  let d := s.die w.dst
  match w.chunk.bind fun c => (d.ttRun.bind fun n => mget d.tts n).bind fun t => (t.chunks[c]?).bind (·.shdw) with
  | some n => ((mget (shadowsOf s w.dst w.asid) n).bind fun e => toShadow e false w.addr 4).getD w.addr
  | none => w.addr

/-- The plain scratchpad writes of this cycle that other, higher ports still make: port and bytes (R222). -/
def laterWrites (s : State) (die port : Nat) : List (Nat × List Nat) :=
  (s.calendar.takeWhile fun e => e.due ≤ s.now).filterMap fun e =>
    match e.what with
    | .accessPerform a =>
      if a.die = die && a.mem == .scratch && a.op == .write && a.port > port then some (a.port, writtenBytes s a) else none
    | .fabricWordArrival w =>
      if w.dst = die && w.op == .write && port < 25 then
        some (25, (List.range 4).map fun j => remap (shadowsOf s die w.asid) false (wordAddr s w) + j)
      else none
    | _ => none

/-- The collision event of two ports that change one byte in one cycle, for the core that owns the slice (R222, R248). -/
def portCollisions (s : State) (die port : Nat) (timed : Bool) (mine : List Nat) : State :=
  (laterWrites s die port).foldl (fun (st : State) w =>
    match mine.filter fun b => w.2.contains b with
    | [] => st
    | b :: r =>
      let l : Loc := { die, core := saSlice b }
      st.modTask l fun t =>
        t.record st.now (recKey 9 w.1 0x21) (statRecord 0x21 false timed 9 (r.length + 1) w.1 (st.gcc l t))) s

/-- The launch's writes into shadows are noted (R229). -/
def noteShadows (s : State) (a : Access) : State :=
  let es := shadowsOf s a.die a.asid
  if es.isEmpty then s
  else (elems a.shape a.en).foldl (fun st e => noteShadow st a.die a.launch (shadowNamed es (a.mem == .virt) e.2.1)) s

/-- The kinds that some element raised. -/
def kindsOf (l : List Evs) : Evs := l.foldl (fun m e => m ||| e) 0

/-- The stores of one adjoint record no kind again that it has recorded (R88). -/
def muteAdjoint (s : State) (l : Loc) (bundle slot issued : Nat) (kinds : Evs) : State :=
  let mute (a : Access) : Access :=
    if a.rev && a.src = some l && a.bundle = bundle && a.slot = slot && a.issued = issued then { a with mute := a.mute ||| kinds } else a
  if kinds = 0 then s
  else
    ({ s with calendar := s.calendar.map fun e => match e.what with
        | .accessPerform a => { e with what := .accessPerform (mute a) }
        | _ => e } : State).modTask l fun t => { t with sbuf := t.sbuf.map mute }

/-- The events of an access without a landing go to its issuing core in the perform cycle (R249); an adjoint's stores record
each kind once among them (R88). -/
def accessEvents (s : State) (a : Access) (evs : List Evs) : State :=
  let evs := evs.map fun e => e ^^^ (e &&& a.mute)
  match a.src, elemEvents evs with
  | some l, e@(_ :: _) =>
    let s1 := s.modTask l fun t => t.events s.now a.slot a.rev a.timed a.bundle a.time e
    if a.rev then muteAdjoint s1 l a.bundle a.slot a.issued (kindsOf evs) else s1
  | _, _ => s

/-- A loaded value reaches its landing: in this cycle, or one later for a remote value. An entry of the carry that waits for
it takes it, and for a held task a carried result stays there (R91, R322, R448). -/
def deliver (s : State) (a : Access) (v : Vec) (evs : List Evs) : State :=
  match a.land, a.src with
  | some r, some l =>
    let r' := { r with val := v, evs := elemEvents evs }
    match s.task l with
    | none => s
    | some t =>
      let s1 := if t.shadow.carry.any fun c => c.id = r.id then
          s.setTask l { t with shadow := { t.shadow with carry := t.shadow.carry.map fun c =>
            if c.id = r.id then { c with land := r', done := true } else c } }
        else s
      if t.phase = .held && destCarried r.dest then s1
      else s1.postLanding l (Nat.max (s.now + (if a.cls == .remote then 1 else 0)) r.lands) r'
  | _, _ => s

/-- An access enters a list in issue order. -/
def insertIssued (a : Access) : List Access → List Access
  | [] => [a]
  | x :: r => if a.issued * 16 + a.slot < x.issued * 16 + x.slot then a :: x :: r else x :: insertIssued a r

/-- The stores of a load's own task that were withheld when it issued, have their data and have not performed, oldest first:
those still in the buffer, and those released since (R181). -/
def heldStores (s : State) (a : Access) : List Access :=
  match a.src.bind s.task with
  | none => []
  | some t =>
    let before (x : Access) : Bool := x.issued < a.issued && x.mem == .scratch && x.ready
    let out := s.calendar.filterMap fun e =>
      match e.what with
      | .accessPerform x => if x.src = a.src && x.land.isNone && x.cls == .store && before x && x.start ≥ a.issued then some x else none
      | _ => none
    (t.sbuf.filter before ++ out).foldr insertIssued []

/-- Memory as it will stand once a store has performed on it. -/
def afterStore (s : State) (m : Mem) (a : Access) : Mem :=
  let es := resolved s a
  match a.op with
  | .write => writeElems a.shape a.data.toNat es m
  | .addF32 => (rmwElems accF32 a.data.toNat es m).1
  | .addI32 => (rmwElems addSat32 a.data.toNat es m).1
  | _ => m

/-- The scratchpad that a load of free code sees: each byte as it stood before the cycle's writes, with the task's own stores
that were withheld at the load's issue and are still to perform (R181, R222). -/
def scratchSeen (s : State) (a : Access) : Mem :=
  let m := scratchNow s.now (s.die a.die)
  if a.op == .read && a.cls == .load && !a.timed then (heldStores s a).foldl (afterStore s) m else m

/-- A read: every byte as it stood before the cycle's writes, with the task's own forwarded bytes (R181, R222). -/
def readValue (s : State) (a : Access) : Vec :=
  let v : Vec := BitVec.ofNat 4096 (readElems (if a.mem == .scratch then scratchSeen s a else (s.die a.die).dram) a.shape (resolved s a))
  let keep := spread a.fwdEn
  if a.fwdEn = 0 then v else (v &&& ~~~keep) ||| (a.fwdVal &&& keep)

/-- A block that a main-memory read meets is poisoned: none of its data is delivered (R205). -/
def readPoison (s : State) (a : Access) : Option Nat :=
  if a.mem == .scratch || (s.die a.die).poison.isEmpty then none
  else ((resolved s a).find? fun e => poisoned (s.die a.die) e.2.1 a.shape.w).map (·.2.1)

/-- Correctable errors that an access meets are corrected (R195). -/
def correctAccess (s : State) (a : Access) : State :=
  if a.mem == .scratch && !(s.die a.die).flips.isEmpty then
    (resolved s a).foldl (fun st e => correctRange st a.die e.2.1 a.shape.w) s
  else if a.mem != .scratch && !(s.die a.die).mflips.isEmpty then
    (resolved s a).foldl (fun st e => correctBlock st a.die (e.2.1 / 64)) s
  else s

/-- A read of a core or a stream performs. -/
def performRead (s : State) (a : Access) : State :=
  let s := correctAccess s a
  match readPoison s a with
  | some d => s.postUnit s.now rkArrive (.uncorrectableMemoryError a.die d (unitField (if dpaHbm d then 7 else 8) (dpaStack d) (dpaPc d)))
  | none =>
    let v := readValue s a
    match a.op, a.src with
    | .fetch z k, some l =>
      s.modTask l fun t => t.modUnit z fun u =>
        let u := if k + 1 = (t.arch.strm z).length then { u with mule := none } else u
        if u.ahead.any (fun x => x.idx = k) then u else { u with ahead := u.ahead ++ [{ idx := k, ready := s.now, val := v }] }
    | _, _ => deliver s a v []

/-- A write of any kind performs (R222, R223). -/
def performWrite (s : State) (a : Access) : State :=
  let es := resolved s a
  let s0 := noteShadows (correctAccess s a) a
  let d := s0.die a.die
  let m := memOf d a.mem
  let put (x : Mem) (st : State) : State := st.modDie a.die fun d => setMem st.now d a.mem x
  match a.op with
  | .write =>
    let s1 := if a.mem == .scratch then portCollisions s0 a.die a.port a.timed (writtenBytes s a) else s0
    put (writeElems a.shape a.data.toNat es m) s1
  | .bits en =>
    match es with
    | (_, x, _) :: _ =>
      let old : BitVec 512 := BitVec.ofNat 512 (Mem.num m x 64)
      put (Mem.wrNum m x ((old &&& ~~~en) ||| (a.data.setWidth 512 &&& en)).toNat 64) s0
    | [] => s0
  | .addF32 =>
    let r := rmwElems accF32 a.data.toNat es m
    accessEvents (put r.1 s0) a r.2.2
  | .addI32 =>
    let r := rmwElems addSat32 a.data.toNat es m
    accessEvents (put r.1 s0) a r.2.2
  | .atom op =>
    let r := rmwElems (atomWord op) a.data.toNat es m
    let old := r.2.1.foldl (fun n (i, w) => n + w * 2 ^ (32 * i)) 0
    deliver (put r.1 s0) a (BitVec.ofNat 4096 old) r.2.2
  | _ => s0

/-! ### Waits of main memory (R202, R214) -/

/-- The cycles that are left of a refresh window, when the die is in one (R202). -/
def refreshLeft (s : State) (die : Nat) : Nat :=
  let p := s.grp die % 16384
  if p ≥ 16128 then 16384 - p else 0

/-- The address lies in a bank that a tag reserves (R214). -/
def bankReserved (d : Die) (dpa : Nat) : Bool :=
  d.reserves.any fun r => dpaHbm dpa && r.stack = dpaStack dpa && r.pc = dpaPc dpa && r.bank = dpaBank dpa

/-- An FLD, FST or FATOM that its task issued earlier has not performed yet at this die (R231). -/
def remoteAhead (s : State) (a : Access) : Bool :=
  a.cls == .remote && a.src.isSome && s.calendar.any fun e =>
    match e.what with
    | .accessPerform x => x.cls == .remote && x.mem != .scratch && x.src = a.src && x.die = a.die && x.issued < a.issued
    | _ => false

/-- The cycles that main memory makes an access wait: to the end of a refresh window, while its bank is reserved for the
bulk sequencer, and behind the earlier virtual accesses of its task (R202, R214, R231). -/
def memWait (s : State) (a : Access) : Nat :=
  if a.mem == .scratch then 0
  else if refreshLeft s a.die > 0 then refreshLeft s a.die
  else if remoteAhead s a then 1
  else if !(s.die a.die).reserves.isEmpty && (resolved s a).any (fun e => bankReserved (s.die a.die) e.2.1) then 1
  else 0

/-! ### Streams (R212, R243, R244) -/

/-- The fetch of a stream's next vector is issued; the one behind it may issue in the next cycle (R243). -/
def fetchNext (s : State) (l : Loc) (t : Task) (z : Fin 8) (lat : Nat) : State :=
  let st := t.arch.strm z.val
  let u := nth {} t.units z.val
  let a : Access := { die := l.die, mem := if st.mainMem then .virt else .scratch, op := .fetch z.val u.next
                      shape := { base := st.addr u.next }, src := some l, issued := s.now, asid := t.ctl.asid
                      cls := .load, launch := t.launch }
  let s1 := s.modTask l fun t => t.modUnit z.val fun x => { x with next := x.next + 1, busy := true }
  (s1.postAccess (s.now + lat) none a).postUnit (s.now + 1) rkDrain (.streamFetch l z)

/-- STREAM_FETCH: the fetch of the next vector is issued; the one behind it follows when its place is free (R243). -/
def execStreamFetch (l : Loc) (z : Fin 8) (s : State) : Host.Outcome State Fault Refusal :=
  match s.task l with
  | none => .next s
  | some t =>
    let st := t.arch.strm z.val
    let u := nth {} t.units z.val
    let idle := s.setTask l (t.modUnit z.val fun x => { x with busy := false })
    if !st.valid || st.write || t.phase != .running || u.next ≥ st.length || u.next ≥ st.k + 4 then .next idle
    else if st.mainMem then
      let (n, s1) := (enterMule s l z.val).nextFree
      let served := ((s1.task l).map fun t => (nth {} t.units z.val).mule.isSome).getD false
      let cause := pagesCause s l.die t.ctl.asid (newPages u (st.addr u.next)) true false
      if served && cause.isNone && !held s l.die t.ctl.asid (st.addr u.next) 512 then .next (fetchNext (holdPages s1 l t z.val (st.addr u.next)) l t z (1 + n % 65536))
      else .next (s1.postUnit (s.now + 1 + n % 65536) rkDrain (.streamFetch l z))
    else .next (fetchNext s l t z (6 + placeLat l.core (st.addr u.next) (s.gcc l t)))

/-- MULE_STREAM_TRANSFER: the Mule writes the oldest vector of a drain buffer through its port, and goes on with the next that
has its data; it waits for its place in a queue and for main memory (R202, R203, R212, R222, R244). -/
def execMuleStreamTransfer (l : Loc) (z : Fin 8) (s : State) : Host.Outcome State Fault Refusal :=
  let (n, s0) := (enterMule s l z.val).nextFree
  let next (s : State) (w : Nat) : State := s.postUnit (s.now + w) rkRead (.muleStreamTransfer l z)
  match s0.task l with
  | none => .next s
  | some t =>
    let u := nth {} t.units z.val
    match u.drain with
    | (_, addr, some v) :: rest =>
      match u.mule with
      | none => .next (next s0 (1 + n % 65536))
      | some m =>
        let a : Access := { die := l.die, mem := .virt, op := .write, shape := { base := addr }, data := v, port := m
                            asid := t.ctl.asid, launch := t.launch, src := some l, issued := s.now, cls := .store }
        if memWait s0 a > 0 then .next (next s0 (memWait s0 a))
        else
          let last := rest.isEmpty && decide ((t.arch.strm z.val).k ≥ (t.arch.strm z.val).length)
          let s1 := s0.setTask l (t.modUnit z.val fun x => { x with drain := rest, mule := if last then none else x.mule })
          let s2 := s1.postAccess s.now none a
          match rest with
          | (_, _, some _) :: _ => .next (next s2 (1 + n % 65536))
          | _ => .next s2
    | _ => .next s

end Sys2Proof.Machine
end

