-- ==== Sys2Proof/Machine/Vector.lean ====
section
/-! DEFINITION. The V-slot operations (R127 to R140), with the residual items each pushes inside a block (R142, R146). -/

namespace Sys2Proof.Machine

/-! ### Shapes -/

/-- The format of a floating type (R127). -/
def ftyFmt : FTy → Fmt
  | .f32 => .f32 | .bf16 => .bf16 | .f16 => .f16

/-- The bits of an integer lane (R128). -/
def iwBits : IW → Nat
  | .w32 => 32 | .w16 => 16 | .w8 => 8

def vLanes (w : Nat) (v : Vec) : List Nat := lanes w (4096 / w) v

/-- A two's complement value modulo 2^n. -/
def unsignedOf (n : Nat) (i : Int) : Nat := (i % (2 ^ n : Nat)).toNat

/-- A vector with a bit a lane in its low bits (R142). -/
def selVec (l : List Bool) : Vec := BitVec.ofNat 4096 (laneBits 1 l)

/-- The end of a lane-wise operation: its items, its whole result as an item where that is one, then its result under the mask
with the events of its enabled lanes (R88, R123, R142). -/
def vfinish (s : State) (t : Task) (lat w : Nat) (h : VHdr) (d : VDst) (r : List (Nat × Evs)) (items : List Vec)
    (output : Bool := false) : Res :=
  let m := t.arch.rm h.msk.val
  let rest (s : State) (t : Task) (k : State → Task → Res) : Res :=
    if output then pushOutput s t lat (ofLanes w (r.map (·.1))) k else k s t
  pushItems s t items fun s t => rest s t fun s t =>
    writeV s t lat d m (ofLanes w (r.map (·.1))) (laneEvents (enabled (w / 8) (4096 / w) m) (r.map (·.2)))

/-- A two-source floating form. -/
def vfloat2 (lat : Nat) (f : Fmt → Nat → Nat → Nat × Evs) (items : Fmt → Vec → Vec → List Vec)
    (h : VHdr) (ty : FTy) (d : VDst) (a b : VSrc) : Issue :=
  whenPred h.pr fun s t =>
    let fm := ftyFmt ty
    let w := fwidth fm
    readV s t w a fun x s t => readV s t w b fun y s t =>
      vfinish s t lat w h d (List.zipWith (f fm) (vLanes w x) (vLanes w y)) (items fm x y)

/-- A one-source floating form. -/
def vfloat1 (lat : Nat) (f : Fmt → Nat → Nat × Evs) (items : Fmt → Vec → List Vec)
    (h : VHdr) (ty : FTy) (d : VDst) (a : VSrc) (output : Bool := false) : Issue :=
  whenPred h.pr fun s t =>
    let fm := ftyFmt ty
    let w := fwidth fm
    readV s t w a fun x s t =>
      vfinish s t lat w h d ((vLanes w x).map (f fm)) (items fm x) output

/-- The fused forms: the items are a and b (R127, R146). -/
def vfma3 (np nc : Bool) (h : VHdr) (ty : FTy) (d : VDst) (a b : VSrc) (c : Fin 64) : Issue :=
  whenPred h.pr fun s t =>
    let fm := ftyFmt ty
    let w := fwidth fm
    readV s t w a fun x s t => readV s t w b fun y s t =>
      let r := List.zipWith (fun (p : Nat × Nat) z => ffma fm np nc p.1 p.2 z)
        (List.zip (vLanes w x) (vLanes w y)) (vLanes w (t.arch.rv c.val))
      vfinish s t 4 w h d r [x, y]

def noItems2 (_ : Fmt) (_ _ : Vec) : List Vec := []
def noItems1 (_ : Fmt) (_ : Vec) : List Vec := []
def bothItems (_ : Fmt) (x y : Vec) : List Vec := [x, y]
def operandItem (_ : Fmt) (x : Vec) : List Vec := [x]
/-- A selection item over two operands (R142). -/
def selItems (p : Fmt → Nat → Nat → Bool) (f : Fmt) (x y : Vec) : List Vec :=
  [selVec (List.zipWith (p f) (vLanes (fwidth f) x) (vLanes (fwidth f) y))]
/-- A selection item over one operand. -/
def selItem1 (p : Fmt → Nat → Bool) (f : Fmt) (x : Vec) : List Vec :=
  [selVec ((vLanes (fwidth f) x).map (p f))]

/-- The sign bit of a code. -/
def signOf (f : Fmt) (c : Nat) : Bool := c / 2 ^ fmag f % 2 = 1

/-- The magnitude bits of a code with a sign; a NaN gives the canonical NaN (R127). -/
def signOp (f : Fmt) (x c : Nat) (neg : Bool) : Nat :=
  if isNaN f x then fnan f else c % 2 ^ fmag f + signBit f neg

/-- A two-source integer form: `f` takes the width and two lanes, and its result is taken modulo 2^w (R128). -/
def vint2 (lat : Nat) (f : Nat → Nat → Nat → Nat) (h : VHdr) (iw : IW) (d : VDst) (a b : VSrc) : Issue :=
  whenPred h.pr fun s t =>
    let w := iwBits iw
    readV s t w a fun x s t => readV s t w b fun y s t =>
      vfinish s t lat w h d (List.zipWith (fun p q => (f w p q, 0)) (vLanes w x) (vLanes w y)) []

/-- VIMAD's shape (R128). -/
def vintMad (h : VHdr) (iw : IW) (d : VDst) (a b : VSrc) (c : Fin 64) : Issue :=
  whenPred h.pr fun s t =>
    let w := iwBits iw
    readV s t w a fun x s t => readV s t w b fun y s t =>
      vfinish s t 4 w h d (List.zipWith (fun (p : Nat × Nat) q => (p.1 * p.2 + q, 0))
        (List.zip (vLanes w x) (vLanes w y)) (vLanes w (t.arch.rv c.val))) []

/-- A bitwise form; the broadcast operand is replicated at 32 bits (DEDUCED, log entry 16). -/
def vbits (f : Vec → Vec → Vec) (h : VHdr) (d : VDst) (a b : VSrc) : Issue :=
  whenPred h.pr fun s t =>
    readV s t 32 a fun x s t => readV s t 32 b fun y s t =>
      writeV s t 2 d (t.arch.rm h.msk.val) (f x y) []

/-! ### Floating-point arithmetic (R127) -/

/-- VADD (R127, R146). -/
def issueVadd (h : VHdr) (t : FTy) (d : VDst) (a b : VSrc) : Issue := vfloat2 2 fadd noItems2 h t d a b
def execVadd (h : VHdr) (t : FTy) (d : VDst) (a b : VSrc) (s : State) : Host.Outcome State Fault Refusal :=
  runSlot (issueVadd h t d a b) s

/-- VSUB (R127, R146). -/
def issueVsub (h : VHdr) (t : FTy) (d : VDst) (a b : VSrc) : Issue := vfloat2 2 fsub noItems2 h t d a b
def execVsub (h : VHdr) (t : FTy) (d : VDst) (a b : VSrc) (s : State) : Host.Outcome State Fault Refusal :=
  runSlot (issueVsub h t d a b) s

/-- VMUL (R127, R146). -/
def issueVmul (h : VHdr) (t : FTy) (d : VDst) (a b : VSrc) : Issue := vfloat2 4 fmul bothItems h t d a b
def execVmul (h : VHdr) (t : FTy) (d : VDst) (a b : VSrc) (s : State) : Host.Outcome State Fault Refusal :=
  runSlot (issueVmul h t d a b) s

/-- VFMA rounds once (R77, R127, R146). -/
def issueVfma (h : VHdr) (t : FTy) (d : VDst) (a b : VSrc) (c : Fin 64) : Issue := vfma3 false false h t d a b c
def execVfma (h : VHdr) (t : FTy) (d : VDst) (a b : VSrc) (c : Fin 64) (s : State) : Host.Outcome State Fault Refusal :=
  runSlot (issueVfma h t d a b c) s

/-- VFMS rounds once (R77, R127, R146). -/
def issueVfms (h : VHdr) (t : FTy) (d : VDst) (a b : VSrc) (c : Fin 64) : Issue := vfma3 false true h t d a b c
def execVfms (h : VHdr) (t : FTy) (d : VDst) (a b : VSrc) (c : Fin 64) (s : State) : Host.Outcome State Fault Refusal :=
  runSlot (issueVfms h t d a b c) s

/-- VFNMA rounds once (R77, R127, R146). -/
def issueVfnma (h : VHdr) (t : FTy) (d : VDst) (a b : VSrc) (c : Fin 64) : Issue := vfma3 true false h t d a b c
def execVfnma (h : VHdr) (t : FTy) (d : VDst) (a b : VSrc) (c : Fin 64) (s : State) : Host.Outcome State Fault Refusal :=
  runSlot (issueVfnma h t d a b c) s

/-- VMIN: exact, and the selection item says where a was taken in the order of R79, ties and NaN to a (R79, R127, R146). -/
def issueVmin (h : VHdr) (t : FTy) (d : VDst) (a b : VSrc) : Issue := vfloat2 2 (fun f a b => (fmin f a b, 0)) (selItems (fun f a b => !(fval f b).lt (fval f a) || isNaN f a || isNaN f b)) h t d a b
def execVmin (h : VHdr) (t : FTy) (d : VDst) (a b : VSrc) (s : State) : Host.Outcome State Fault Refusal :=
  runSlot (issueVmin h t d a b) s

/-- VMAX: exact, and the selection item says where a was taken in the order of R79, ties and NaN to a (R79, R127, R146). -/
def issueVmax (h : VHdr) (t : FTy) (d : VDst) (a b : VSrc) : Issue := vfloat2 2 (fun f a b => (fmax f a b, 0)) (selItems (fun f a b => !(fval f a).lt (fval f b) || isNaN f a || isNaN f b)) h t d a b
def execVmax (h : VHdr) (t : FTy) (d : VDst) (a b : VSrc) (s : State) : Host.Outcome State Fault Refusal :=
  runSlot (issueVmax h t d a b) s

/-- VABS clears the sign bit; its item is the sign of a (R127, R146). -/
def issueVabs (h : VHdr) (t : FTy) (d : VDst) (a : VSrc) : Issue := vfloat1 2 (fun f a => (signOp f a a false, 0)) (selItem1 signOf) h t d a
def execVabs (h : VHdr) (t : FTy) (d : VDst) (a : VSrc) (s : State) : Host.Outcome State Fault Refusal :=
  runSlot (issueVabs h t d a) s

/-- VNEG inverts the sign bit (R127). -/
def issueVneg (h : VHdr) (t : FTy) (d : VDst) (a : VSrc) : Issue := vfloat1 2 (fun f a => (signOp f a a (!signOf f a), 0)) noItems1 h t d a
def execVneg (h : VHdr) (t : FTy) (d : VDst) (a : VSrc) (s : State) : Host.Outcome State Fault Refusal :=
  runSlot (issueVneg h t d a) s

/-- VCPS takes b's sign bit; its item is the exclusive or of the signs (R127, R146). -/
def issueVcps (h : VHdr) (t : FTy) (d : VDst) (a b : VSrc) : Issue := vfloat2 2 (fun f a b => (signOp f a a (signOf f b), 0)) (selItems fun f a b => signOf f a != signOf f b) h t d a b
def execVcps (h : VHdr) (t : FTy) (d : VDst) (a b : VSrc) (s : State) : Host.Outcome State Fault Refusal :=
  runSlot (issueVcps h t d a b) s

/-- VRCP: correctly rounded; its item is the result (R78, R127, R146). -/
def issueVrcp (h : VHdr) (t : FTy) (d : VDst) (a : VSrc) : Issue := vfloat1 8 (fun f a => rounded f (rcpV (fval f a))) noItems1 h t d a true
def execVrcp (h : VHdr) (t : FTy) (d : VDst) (a : VSrc) (s : State) : Host.Outcome State Fault Refusal :=
  runSlot (issueVrcp h t d a) s

/-- VRSQ: correctly rounded; its item is the result (R78, R127, R146). -/
def issueVrsq (h : VHdr) (t : FTy) (d : VDst) (a : VSrc) : Issue := vfloat1 8 (fun f a => rounded f (rsqV (fval f a))) noItems1 h t d a true
def execVrsq (h : VHdr) (t : FTy) (d : VDst) (a : VSrc) (s : State) : Host.Outcome State Fault Refusal :=
  runSlot (issueVrsq h t d a) s

/-- VSQRT: correctly rounded; its item is the result (R78, R127, R146). -/
def issueVsqrt (h : VHdr) (t : FTy) (d : VDst) (a : VSrc) : Issue := vfloat1 8 (fun f a => rounded f (sqrtV (fval f a))) noItems1 h t d a true
def execVsqrt (h : VHdr) (t : FTy) (d : VDst) (a : VSrc) (s : State) : Host.Outcome State Fault Refusal :=
  runSlot (issueVsqrt h t d a) s

/-- VEXP2: correctly rounded; its item is the result (R78, R127, R146). -/
def issueVexp2 (h : VHdr) (t : FTy) (d : VDst) (a : VSrc) : Issue := vfloat1 8 (fun f a => rounded f (exp2V (fval f a))) noItems1 h t d a true
def execVexp2 (h : VHdr) (t : FTy) (d : VDst) (a : VSrc) (s : State) : Host.Outcome State Fault Refusal :=
  runSlot (issueVexp2 h t d a) s

/-- VTANH: correctly rounded; its item is the result (R78, R127, R146). -/
def issueVtanh (h : VHdr) (t : FTy) (d : VDst) (a : VSrc) : Issue := vfloat1 8 (fun f a => rounded f (tanhV (fval f a))) noItems1 h t d a true
def execVtanh (h : VHdr) (t : FTy) (d : VDst) (a : VSrc) (s : State) : Host.Outcome State Fault Refusal :=
  runSlot (issueVtanh h t d a) s

/-- VLOG2: correctly rounded; its item is a (R78, R127, R146). -/
def issueVlog2 (h : VHdr) (t : FTy) (d : VDst) (a : VSrc) : Issue := vfloat1 8 (fun f a => rounded f (log2V (fval f a))) operandItem h t d a
def execVlog2 (h : VHdr) (t : FTy) (d : VDst) (a : VSrc) (s : State) : Host.Outcome State Fault Refusal :=
  runSlot (issueVlog2 h t d a) s

/-! ### Integer and bitwise arithmetic (R128) -/

/-- VIADD modulo 2^w (R128). -/
def issueViadd (h : VHdr) (w : IW) (d : VDst) (a b : VSrc) : Issue := vint2 2 (fun _ a b => a + b) h w d a b
def execViadd (h : VHdr) (w : IW) (d : VDst) (a b : VSrc) (s : State) : Host.Outcome State Fault Refusal :=
  runSlot (issueViadd h w d a b) s

/-- VISUB modulo 2^w (R128). -/
def issueVisub (h : VHdr) (w : IW) (d : VDst) (a b : VSrc) : Issue := vint2 2 (fun n a b => a + (2 ^ n - b)) h w d a b
def execVisub (h : VHdr) (w : IW) (d : VDst) (a b : VSrc) (s : State) : Host.Outcome State Fault Refusal :=
  runSlot (issueVisub h w d a b) s

/-- VIMUL modulo 2^w (R128). -/
def issueVimul (h : VHdr) (w : IW) (d : VDst) (a b : VSrc) : Issue := vint2 4 (fun _ a b => a * b) h w d a b
def execVimul (h : VHdr) (w : IW) (d : VDst) (a b : VSrc) (s : State) : Host.Outcome State Fault Refusal :=
  runSlot (issueVimul h w d a b) s

/-- VSHL modulo 2^w (R128). -/
def issueVshl (h : VHdr) (w : IW) (d : VDst) (a b : VSrc) : Issue := vint2 2 (fun n a b => a * 2 ^ (b % n)) h w d a b
def execVshl (h : VHdr) (w : IW) (d : VDst) (a b : VSrc) (s : State) : Host.Outcome State Fault Refusal :=
  runSlot (issueVshl h w d a b) s

/-- VSHR modulo 2^w (R128). -/
def issueVshr (h : VHdr) (w : IW) (d : VDst) (a b : VSrc) : Issue := vint2 2 (fun n a b => a / 2 ^ (b % n)) h w d a b
def execVshr (h : VHdr) (w : IW) (d : VDst) (a b : VSrc) (s : State) : Host.Outcome State Fault Refusal :=
  runSlot (issueVshr h w d a b) s

/-- VSAR modulo 2^w (R128). -/
def issueVsar (h : VHdr) (w : IW) (d : VDst) (a b : VSrc) : Issue := vint2 2 (fun n a b => unsignedOf n (sextNat n a / (2 ^ (b % n) : Nat))) h w d a b
def execVsar (h : VHdr) (w : IW) (d : VDst) (a b : VSrc) (s : State) : Host.Outcome State Fault Refusal :=
  runSlot (issueVsar h w d a b) s

/-- VIMAD: the low bits of a × b + c (R128). -/
def issueVimad (h : VHdr) (w : IW) (d : VDst) (a b : VSrc) (c : Fin 64) : Issue := vintMad h w d a b c
def execVimad (h : VHdr) (w : IW) (d : VDst) (a b : VSrc) (c : Fin 64) (s : State) : Host.Outcome State Fault Refusal :=
  runSlot (issueVimad h w d a b c) s

/-- VIMIN, signed or unsigned (R128). -/
def issueVimin (h : VHdr) (w : IW) (u : Bool) (d : VDst) (a b : VSrc) : Issue := 
  vint2 2 (fun n a b => let (a, b) : Int × Int := if u then (a, b) else (sextNat n a, sextNat n b)
    unsignedOf n (if a ≤ b then a else b)) h w d a b
def execVimin (h : VHdr) (w : IW) (u : Bool) (d : VDst) (a b : VSrc) (s : State) : Host.Outcome State Fault Refusal :=
  runSlot (issueVimin h w u d a b) s

/-- VIMAX, signed or unsigned (R128). -/
def issueVimax (h : VHdr) (w : IW) (u : Bool) (d : VDst) (a b : VSrc) : Issue := 
  vint2 2 (fun n a b => let (a, b) : Int × Int := if u then (a, b) else (sextNat n a, sextNat n b)
    unsignedOf n (if a ≤ b then b else a)) h w d a b
def execVimax (h : VHdr) (w : IW) (u : Bool) (d : VDst) (a b : VSrc) (s : State) : Host.Outcome State Fault Refusal :=
  runSlot (issueVimax h w u d a b) s

/-- VAND: bitwise over all 4,096 bits (R128). -/
def issueVand (h : VHdr) (d : VDst) (a b : VSrc) : Issue := vbits (fun x y => x &&& y) h d a b
def execVand (h : VHdr) (d : VDst) (a b : VSrc) (s : State) : Host.Outcome State Fault Refusal :=
  runSlot (issueVand h d a b) s

/-- VOR: bitwise over all 4,096 bits (R128). -/
def issueVor (h : VHdr) (d : VDst) (a b : VSrc) : Issue := vbits (fun x y => x ||| y) h d a b
def execVor (h : VHdr) (d : VDst) (a b : VSrc) (s : State) : Host.Outcome State Fault Refusal :=
  runSlot (issueVor h d a b) s

/-- VXOR: bitwise over all 4,096 bits (R128). -/
def issueVxor (h : VHdr) (d : VDst) (a b : VSrc) : Issue := vbits (fun x y => x ^^^ y) h d a b
def execVxor (h : VHdr) (d : VDst) (a b : VSrc) (s : State) : Host.Outcome State Fault Refusal :=
  runSlot (issueVxor h d a b) s

/-! ### Compare, select and move (R129, R130) -/

/-- The conditions of VCMP on two floating codes (R129). -/
def vccFloat (f : Fmt) (c : VCC) (a b : Nat) : Bool :=
  let nan := isNaN f a || isNaN f b
  match c with
  | .eq => !nan && feq f a b
  | .ne => nan || !feq f a b
  | .lt => !nan && flt f a b
  | .le => !nan && (flt f a b || feq f a b)
  | .gt => !nan && flt f b a
  | .ge => !nan && (flt f b a || feq f a b)
  | .ord => !nan
  | .unord => nan

/-- The conditions of VCMP on two signed 32-bit lanes (R129). -/
def vccInt (c : VCC) (a b : Int) : Bool :=
  match c with
  | .eq => a = b | .ne => a != b | .lt => a < b | .le => a ≤ b | .gt => b < a | .ge => b ≤ a
  | .ord => true | .unord => false

/-- The lanes' bits of a comparison. -/
def vcmpBits (ty : CmpTy) (c : VCC) (x y : Vec) : Nat :=
  match ty with
  | .i32 => laneBits 4 (List.zipWith (fun a b => vccInt c (sextNat 32 a) (sextNat 32 b)) (vLanes 32 x) (vLanes 32 y))
  | .f t =>
    let f := ftyFmt t
    let w := fwidth f
    laneBits (w / 8) (List.zipWith (vccFloat f c) (vLanes w x) (vLanes w y))

def cmpWidth : CmpTy → Nat
  | .i32 => 32
  | .f t => fwidth (ftyFmt t)

/-- A mask result, written bit by bit under the mask (R123). -/
def State.emitM (s : State) (t : Task) (lat : Nat) (md : Nat) (v : Nat) (m : Mask) : State :=
  s.emit t lat { dest := .m md, val := BitVec.ofNat 4096 v, en := m }

/-- VCMP (R129). -/
def issueVcmp (h : VHdr) (t : CmpTy) (cc : VCC) (md : Fin 8) (a b : VSrc) : Issue :=
  whenPred h.pr fun s tk =>
    readV s tk (cmpWidth t) a fun x s tk => readV s tk (cmpWidth t) b fun y s tk =>
      .ok (s.emitM tk 2 md.val (vcmpBits t cc x y) (tk.arch.rm h.msk.val))
def execVcmp (h : VHdr) (t : CmpTy) (cc : VCC) (md : Fin 8) (a b : VSrc) (s : State) :
    Host.Outcome State Fault Refusal := runSlot (issueVcmp h t cc md a b) s

/-- The bit of a mask at the lowest byte of each 32-bit lane (R146). -/
def maskLanes (m : Mask) : List Bool := (List.range 128).map fun i => m.getLsbD (4 * i)

/-- VSEL (R130, R146). -/
def issueVsel (h : VHdr) (d : VDst) (a b : VSrc) (mc : Fin 8) : Issue :=
  whenPred h.pr fun s t =>
    readV s t 32 a fun x s t => readV s t 32 b fun y s t =>
      let c := t.arch.rm mc.val
      pushItems s t [selVec (maskLanes c)] fun s t =>
        writeV s t 2 d (t.arch.rm h.msk.val) (mergeBytes y x c) []
def execVsel (h : VHdr) (d : VDst) (a b : VSrc) (mc : Fin 8) (s : State) : Host.Outcome State Fault Refusal :=
  runSlot (issueVsel h d a b mc) s

/-- VMOV (R130). -/
def issueVmov (h : VHdr) (d : VDst) (a : VSrc) : Issue :=
  whenPred h.pr fun s t => readV s t 64 a fun x s t => writeV s t 2 d (t.arch.rm h.msk.val) x []
def execVmov (h : VHdr) (d : VDst) (a : VSrc) (s : State) : Host.Outcome State Fault Refusal :=
  runSlot (issueVmov h d a) s

/-- VSPLAT (R130). -/
def issueVsplat (h : VHdr) (w : IW) (d : VDst) (a : VSrc) (ln : Fin 256) : Issue :=
  whenPred h.pr fun s t =>
    let n := iwBits w
    readV s t n a fun x s t => writeV s t 3 d (t.arch.rm h.msk.val) (splatLanes n (4096 / n) (lane n x ln.val)) []
def execVsplat (h : VHdr) (w : IW) (d : VDst) (a : VSrc) (ln : Fin 256) (s : State) :
    Host.Outcome State Fault Refusal := runSlot (issueVsplat h w d a ln) s

/-- The three forms of VLI (R50, R130). -/
def vliVec (k : VliKind) (imm : BitVec 16) : Vec :=
  match k with
  | .i32 => splatLanes 32 128 (imm.signExtend 32).toNat
  | .i16 => splatLanes 16 256 imm.toNat
  | .hi => splatLanes 32 128 (imm.toNat * 2 ^ 16)

/-- VLI (R130). -/
def issueVli (h : VHdr) (k : VliKind) (d : VDst) (imm : BitVec 16) : Issue :=
  whenPred h.pr fun s t => writeV s t 2 d (t.arch.rm h.msk.val) (vliVec k imm) []
def execVli (h : VHdr) (k : VliKind) (d : VDst) (imm : BitVec 16) (s : State) : Host.Outcome State Fault Refusal :=
  runSlot (issueVli h k d imm) s

/-- VIOTA: lane i receives i, modulo 256 at 8 bits (R130). -/
def issueViota (h : VHdr) (w : IW) (d : VDst) : Issue :=
  whenPred h.pr fun s t =>
    let n := iwBits w
    writeV s t 2 d (t.arch.rm h.msk.val) (ofLanes n (List.range (4096 / n))) []
def execViota (h : VHdr) (w : IW) (d : VDst) (s : State) : Host.Outcome State Fault Refusal :=
  runSlot (issueViota h w d) s

/-! ### Permute, pack and convert (R131 to R134) -/

/-- VPERM: an index at or above the lane count selects 0; at 32 bits its item is the index vector (R131, R146). -/
def issueVperm (h : VHdr) (w : IW) (d : VDst) (a b : VSrc) : Issue :=
  whenPred h.pr fun s t =>
    let n := iwBits w
    readV s t n a fun x s t => readV s t n b fun y s t =>
      vfinish s t 3 n h d ((vLanes n y).map fun k => (if k < 4096 / n then lane n x k else 0, 0))
        (if w = .w32 then [y] else [])
def execVperm (h : VHdr) (w : IW) (d : VDst) (a b : VSrc) (s : State) : Host.Outcome State Fault Refusal :=
  runSlot (issueVperm h w d a b) s

/-- The lanes rotated upwards by n places (R131). -/
def rotLanes (l : List Nat) (n : Nat) : List Nat := l.drop (l.length - n) ++ l.take (l.length - n)

/-- VROT (R131). -/
def issueVrot (h : VHdr) (w : IW) (d : VDst) (a : VSrc) (n : Fin 256) : Issue :=
  whenPred h.pr fun s t =>
    let b := iwBits w
    readV s t b a fun x s t => vfinish s t 3 b h d ((rotLanes (vLanes b x) n.val).map fun k => (k, 0)) []
def execVrot (h : VHdr) (w : IW) (d : VDst) (a : VSrc) (n : Fin 256) (s : State) : Host.Outcome State Fault Refusal :=
  runSlot (issueVrot h w d a n) s

/-- One lane narrowed to n bits with saturation (R132). -/
def narrow (u : Bool) (n x : Nat) : Nat × Evs :=
  let v : Int := if u then (x : Int) else sextNat (2 * n) x
  let lo : Int := if u then 0 else -(2 ^ (n - 1) : Nat)
  let hi : Int := if u then (2 ^ n : Nat) - 1 else (2 ^ (n - 1) : Nat) - 1
  let c := if v < lo then lo else if hi < v then hi else v
  (unsignedOf n c, if c = v then 0 else evISAT)

/-- VPACK: one ISAT event when any enabled lane clamps; a broadcast vb is replicated at the width 2w of the source lanes (R132;
DESIGN CHOICE, log entry 16). -/
def issueVpack (h : VHdr) (w : IW) (u : Bool) (d : VDst) (a b : VSrc) : Issue :=
  whenPred h.pr fun s t =>
    let n := iwBits w
    readV s t (2 * n) a fun x s t => readV s t (2 * n) b fun y s t =>
      vfinish s t 3 n h d ((vLanes (2 * n) x ++ vLanes (2 * n) y).map (narrow u n)) []
def execVpack (h : VHdr) (w : IW) (u : Bool) (d : VDst) (a b : VSrc) (s : State) : Host.Outcome State Fault Refusal :=
  runSlot (issueVpack h w u d a b) s

/-- VUNPK (R132). -/
def issueVunpk (h : VHdr) (w : IW) (u : Bool) (d : VDst) (a : VSrc) : Issue :=
  whenPred h.pr fun s t =>
    let n := iwBits w
    readV s t (n / 2) a fun x s t =>
      vfinish s t 3 n h d
        ((lanes (n / 2) (4096 / n) x).map fun k => (if u then k else unsignedOf n (sextNat (n / 2) k), 0)) []
def execVunpk (h : VHdr) (w : IW) (u : Bool) (d : VDst) (a : VSrc) (s : State) : Host.Outcome State Fault Refusal :=
  runSlot (issueVunpk h w u d a) s

/-- The enabled elements of a 128-element vector in a format: those with a mask bit over some byte of theirs (R123). -/
def fmtEnabled (f : Fmt) (m : Mask) : List Bool :=
  (List.range 128).map fun i =>
    let lo := i * fwidth f / 8
    let n := if fwidth f < 8 then 1 else fwidth f / 8
    (m.toNat >>> lo) % 2 ^ n != 0

/-- VCVT: 128 elements between formats; bytes beyond element 127 are zero (R133). -/
def issueVcvt (h : VHdr) (d : VDst) (a : VSrc) (src dst : Fmt) (rm : Rm) : Issue :=
  whenPred h.pr fun s t =>
    readV s t 64 a fun x s t =>
      let r := (lanes (fwidth src) 128 x).map (cvtFmt src dst rm)
      let m := t.arch.rm h.msk.val
      writeV s t 3 d m (ofLanes (fwidth dst) (r.map (·.1))) (laneEvents (fmtEnabled dst m) (r.map (·.2)))
def execVcvt (h : VHdr) (d : VDst) (a : VSrc) (src dst : Fmt) (rm : Rm) (s : State) :
    Host.Outcome State Fault Refusal := runSlot (issueVcvt h d a src dst rm) s

/-- A value times a power of two. -/
def scaleFV (x : FV) (k : Int) : FV :=
  match x with
  | .fin n m e => .fin n m (e + k)
  | v => v

/-- VSCL (R134). -/
def issueVscl (h : VHdr) (t : FTy) (d : VDst) (a : VSrc) (k : BitVec 8) : Issue :=
  vfloat1 3 (fun f x => rne f (scaleFV (fval f x) k.toInt)) noItems1 h t d a
def execVscl (h : VHdr) (t : FTy) (d : VDst) (a : VSrc) (k : BitVec 8) (s : State) : Host.Outcome State Fault Refusal :=
  runSlot (issueVscl h t d a k) s

/-! ### Reductions and scans (R135) -/

/-- The identity of a reduction (R135). -/
def redId (f : Fmt) : RedOp → Nat
  | .sum => signBit f true
  | .max => signBit f true + (finfCode f).getD 0
  | .min => (finfCode f).getD 0

/-- One combination of a reduction, with its events; sums are formed in f32 (R83, R84). -/
def redOp (f : Fmt) : RedOp → CE → CE → CE
  | .sum => addCE
  | .max => fun a b => (fmax f a.1 b.1, 0)
  | .min => fun a b => (fmin f a.1 b.1, 0)

/-- The inputs of a reduction: disabled lanes hold the identity, a sum takes f32 lanes, and a NaN is the canonical one, for
no payload is propagated (R64, R83, R135). -/
def redInputs (f : Fmt) (op : RedOp) (en : List Bool) (x : Vec) : List CE :=
  List.zipWith (fun (e : Bool) c =>
    let c := if e then c else redId f op
    (if op = .sum then toF32 f c else if isNaN f c then fnan f else c, 0)) en (vLanes (fwidth f) x)

/-- The result of a reduction in its type, rounded once from f32 for a 16-bit sum (R83). -/
def redOut (f : Fmt) (op : RedOp) (r : CE) : Nat × Evs :=
  if op = .sum && f != .f32 then
    let (c, e) := rne f (fval .f32 r.1)
    (c, e ||| r.2)
  else r

/-- The lowest enabled lane among the first n whose code is the result, 0xFFFFFFFF when there is none (R135). -/
def winner (f : Fmt) (en : List Bool) (x : List Nat) (n r : Nat) : Nat :=
  if isNaN f r then 0xFFFFFFFF
  else ((List.range n).find? fun i => nth false en i && nth 0 x i = r).getD 0xFFFFFFFF

def laneLog (f : Fmt) : Nat := if fwidth f = 32 then 7 else 8

/-- VRED: the result in lane 0, +0 elsewhere; each event kind once, when lane 0 is enabled (R135). -/
def issueVred (h : VHdr) (t : FTy) (op : RedOp) (d : VDst) (a : VSrc) : Issue :=
  whenPred h.pr fun s tk =>
    let f := ftyFmt t
    let w := fwidth f
    readV s tk w a fun x s tk =>
      let m := tk.arch.rm h.msk.val
      let en := enabled (w / 8) (4096 / w) m
      let r := redOut f op (((tree (redOp f op) (laneLog f) (redInputs f op en x)).head?).getD (0, 0))
      let items := if op = .sum then [] else [ofLanes 32 [winner f en (vLanes w x) (4096 / w) r.1]]
      pushItems s tk items fun s tk =>
        writeV s tk 6 d m (ofLanes w [r.1]) (kindCounts [(nth false en 0, r.2)])
def execVred (h : VHdr) (t : FTy) (op : RedOp) (d : VDst) (a : VSrc) (s : State) : Host.Outcome State Fault Refusal :=
  runSlot (issueVred h t op d a) s

/-- VSCAN (R84, R135). -/
def issueVscan (h : VHdr) (t : FTy) (op : RedOp) (d : VDst) (a : VSrc) : Issue :=
  whenPred h.pr fun s tk =>
    let f := ftyFmt t
    let w := fwidth f
    readV s tk w a fun x s tk =>
      let m := tk.arch.rm h.msk.val
      let en := enabled (w / 8) (4096 / w) m
      let r := (scan (redOp f op) (laneLog f) 1 (redInputs f op en x)).map (redOut f op)
      let xs := vLanes w x
      let items := if op = .sum then []
        else [ofLanes 32 (r.mapIdx fun i c => winner f en xs (i + 1) c.1)]
      vfinish s tk 6 w h d r items
def execVscan (h : VHdr) (t : FTy) (op : RedOp) (d : VDst) (a : VSrc) (s : State) : Host.Outcome State Fault Refusal :=
  runSlot (issueVscan h t op d a) s

/-! ### Partition (R136) -/

/-- The lanes that take part with outcome o, in ascending order. -/
def partList (en : List Bool) (x : List Nat) (o : Nat) : List Nat :=
  (List.range 128).filter fun i => nth false en i && nth 0 x i = o

/-- The residual item of PART: outcome and rank of each lane (R146). -/
def partItem (en : List Bool) (x : List Nat) (n : Nat) : Vec :=
  ofLanes 32 ((List.range 128).map fun i =>
    let o := nth 0 x i
    if nth false en i && o < n then o * 256 + ((partList en x o).takeWhile fun j => j < i).length else 0xFFFF)

/-- PART: n lists and the counts land on vd to vd + n − 1 and vd + 4, whole, 8 cycles later (R136). -/
def issuePart (h : VHdr) (d : Fin 64) (a : VSrc) (n : Fin 4) : Issue :=
  whenPred h.pr fun s t =>
    readV s t 32 a fun v s t =>
      let en := enabled 4 128 (t.arch.rm h.msk.val)
      let x := vLanes 32 v
      let k := n.val + 1
      let ls := (List.range k).map fun o => partList en x o
      pushItems s t [partItem en x k] fun s t =>
        let s1 := (List.range k).foldl (fun (st : State) o =>
          let l := nth [] ls o
          st.emitV t 8 (d.val + o) (ofLanes 32 (l ++ List.replicate (128 - l.length) 0xFFFFFFFF)) (BitVec.allOnes 512) []) s
        .ok (s1.emitV t 8 (d.val + 4) (ofLanes 32 (ls.map (·.length))) (BitVec.allOnes 512) [])
def execPart (h : VHdr) (d : Fin 64) (a : VSrc) (n : Fin 4) (s : State) : Host.Outcome State Fault Refusal :=
  runSlot (issuePart h d a n) s

/-! ### Random numbers and dropout (R137 to R139) -/

/-- VRNG (R138). -/
def issueVrng (h : VHdr) (d : VDst) (a b : VSrc) (w : Fin 4) : Issue :=
  whenPred h.pr fun s t =>
    readV s t 32 a fun x s t => readV s t 32 b fun k s t =>
      vfinish s t 6 32 h d
        ((vLanes 32 x).map fun e => (philox e (lane 32 k 2) (lane 32 k 0, lane 32 k 1) w.val, 0)) []
def execVrng (h : VHdr) (d : VDst) (a b : VSrc) (w : Fin 4) (s : State) : Host.Outcome State Fault Refusal :=
  runSlot (issueVrng h d a b w) s

/-- Lane i is kept (R139). -/
def dropKeep (k : Vec) (theta i : Nat) : Bool :=
  philox ((lane 32 k 3 + i) % 2 ^ 32) (lane 32 k 2) (lane 32 k 0, lane 32 k 1) 0 / 2 ^ 26 ≥ theta

/-- A kept lane: a × 64 / (64 − θ), rounded once (R139). -/
def dropScale (f : Fmt) (theta a : Nat) : Nat × Evs :=
  rounded f (FV.div (scaleFV (fval f a) 6) (fvInt ((64 - theta : Nat) : Int)))

/-- VDROP (R139). -/
def issueVdrop (h : VHdr) (t : FTy) (d : VDst) (a : VSrc) (key : Fin 4) (theta : Fin 64) : Issue :=
  whenPred h.pr fun s tk =>
    let f := ftyFmt t
    let w := fwidth f
    readV s tk w a fun x s tk =>
      let k := tk.arch.rv key.val
      vfinish s tk 6 w h d
        ((vLanes w x).mapIdx fun i c => if dropKeep k theta.val i then dropScale f theta.val c else (0, 0)) []
def execVdrop (h : VHdr) (t : FTy) (d : VDst) (a : VSrc) (key : Fin 4) (theta : Fin 64) (s : State) :
    Host.Outcome State Fault Refusal := runSlot (issueVdrop h t d a key theta) s

/-! ### Mask operations (R140) -/

/-- MAND (R140). -/
def issueMand (h : VHdr) (d a b : Fin 8) : Issue :=
  whenPred h.pr fun s t =>
    .ok (s.emitM t 2 d.val (t.arch.rm a.val &&& t.arch.rm b.val).toNat (t.arch.rm h.msk.val))
def execMand (h : VHdr) (d a b : Fin 8) (s : State) : Host.Outcome State Fault Refusal := runSlot (issueMand h d a b) s

/-- MOR (R140). -/
def issueMor (h : VHdr) (d a b : Fin 8) : Issue :=
  whenPred h.pr fun s t =>
    .ok (s.emitM t 2 d.val (t.arch.rm a.val ||| t.arch.rm b.val).toNat (t.arch.rm h.msk.val))
def execMor (h : VHdr) (d a b : Fin 8) (s : State) : Host.Outcome State Fault Refusal := runSlot (issueMor h d a b) s

/-- MNOT (R140). -/
def issueMnot (h : VHdr) (d a : Fin 8) : Issue :=
  whenPred h.pr fun s t => .ok (s.emitM t 2 d.val (~~~(t.arch.rm a.val)).toNat (t.arch.rm h.msk.val))
def execMnot (h : VHdr) (d a : Fin 8) (s : State) : Host.Outcome State Fault Refusal := runSlot (issueMnot h d a) s

/-- MCNT: the count of ones in lane 0, other lanes zero (R140). -/
def issueMcnt (h : VHdr) (d : Fin 64) (a : Fin 8) : Issue :=
  whenPred h.pr fun s t =>
    .ok (s.emitV t 3 d.val (BitVec.ofNat 4096 (popc (t.arch.rm a.val))) (t.arch.rm h.msk.val) [])
def execMcnt (h : VHdr) (d : Fin 64) (a : Fin 8) (s : State) : Host.Outcome State Fault Refusal :=
  runSlot (issueMcnt h d a) s

/-- The all-zero V slot (R446). -/
def issueVNop : Issue := fun s _ => .ok s
def execVNop (s : State) : Host.Outcome State Fault Refusal := runSlot issueVNop s

end Sys2Proof.Machine
end

