-- ==== Sys2Proof/Machine/Adjoint.lean ====
section
/-! DEFINITION. The adjoints that a reverse walk runs at a position: the residual items and words it pops, the
contributions of the V-slot operations (R142 to R147), of the M slot (R168) and of the LS slot (R193), and their
delivery (R145, R246). -/

namespace Sys2Proof.Machine

/-! ### Residual items and words (R265) -/

/-- The stack below a scalar-packing item that the walk has taken already (R262, R265). -/
def skipHole (t : Task) : Task :=
  match t.arch.walk.hole with
  | some o => if t.arch.top = o + 512 then { t with arch := { t.arch with top := o, walk := { t.arch.walk with hole := none } } } else t
  | none => t

/-- The next residual item of the frame. -/
def popItem (s : State) (t : Task) (k : Vec → State → Task → Res) : Res :=
  popBytes s (skipHole t) 512 fun v s t => k (BitVec.ofNat 4096 v) s t

def Arch.modWalk (a : Arch) (f : Walk → Walk) : Arch := { a with walk := f a.walk }
def Task.modArch (t : Task) (f : Arch → Arch) : Task := { t with arch := f t.arch }

/-- The next scalar-packing item: the item on top, or one that lies below the vector items of the bundle that filled it, which
the walk pops after it (R262, R265). -/
def popPack (s : State) (t : Task) (k : Vec → State → Task → Res) : Res :=
  match (t.arch.frames.getLast?).bind (·.packs.getLast?) with
  | none => popItem s t k
  | some o =>
    let t0 := t.modArch fun a => modLastFrame a fun f => { f with packs := f.packs.dropLast }
    if o + 512 = t.arch.top then popItem s t0 k
    else
      match readCheck s t o 512 with
      | some r => r
      | none =>
        let v := BitVec.ofNat 4096 (winRead (windowMem s s.at_ t) s.at_ t o 8)
        let t1 := t0.modArch fun a => a.modWalk fun w => { w with hole := some o }
        k v (s.setTask s.at_ t1) t1

/-- The next scalar word; the unpacking buffer is refilled from the next item when it is empty. -/
def popWord (s : State) (t : Task) (k : Word → State → Task → Res) : Res :=
  let take (s : State) (t : Task) : Res :=
    match t.arch.walk.unpack.getLast? with
    | some w =>
      let t1 := t.modArch fun a => a.modWalk fun x => { x with unpack := x.unpack.dropLast }
      k w (s.setTask s.at_ t1) t1
    | none => k 0 s t
  if t.arch.walk.unpack.isEmpty then
    popPack s t fun v s t =>
      let t1 := t.modArch fun a => a.modWalk fun x => { x with unpack := (lanes 64 64 v).map (BitVec.ofNat 64) }
      take (s.setTask s.at_ t1) t1
  else take s t

/-! ### Contributions -/

/-- One lane's contribution: the lane of the operand, the exact expression and its events (R145). -/
abbrev Contrib := Nat × FV × Evs

/-- The events a position records for an operation: each kind with the lanes that raised it (R88, R145). -/
def revEvents (s : State) (t : Task) (bundle slot : Nat) (e : List Evs) : Task :=
  t.events s.now slot true t.timed bundle (s.gcc s.at_ t % 2 ^ 24) (elemEvents e)

/-- The events of an adjoint's deliveries are kept until the last of them: at most one record of each kind, with the lanes
and elements that some delivery of the operation affected (R88, R145). -/
def keepRev (t : Task) (e : List (Nat × Evs)) : Task :=
  t.modArch fun a => a.modWalk fun w => { w with evs := w.evs ++ e.filter fun x => x.2 != 0 }

/-- The records of an adjoint whose deliveries are done: each lane once, then the elements of the plane; its stores record
none of these kinds again (R88, R168). -/
def flushRev (s : State) (t : Task) (bundle slot : Nat) (k : State → Task → Res) : Res :=
  let e := t.arch.walk.evs
  let l := s.at_
  if e.isEmpty then k s t
  else
    let lanes := (List.range 128).map fun i => e.foldl (fun (m : Evs) x => if x.1 = i then m ||| x.2 else m) 0
    let all := lanes ++ (e.filter fun x => decide (x.1 ≥ 128)).map (·.2)
    let t1 := revEvents s (t.modArch fun a => a.modWalk fun w => { w with evs := [] }) bundle slot all
    let s1 := muteAdjoint (s.setTask l t1) l bundle slot s.now (kindsOf all)
    match s1.task l with
    | some t2 => k s1 t2
    | none => .ok s1

/-- Contributions accumulate into lanes of a vector, one after another: c rounded once, then the sum rounded (R145). -/
def accLanes (v : Vec) (c : List Contrib) : Vec × List (Nat × Evs) :=
  let r := c.foldl (fun (acc : List Nat × List (Nat × Evs)) x =>
    let z := rounded .f32 x.2
    let y := accF32 (nth 0 acc.1 x.1) z.1
    (acc.1.set x.1 y.1, acc.2 ++ [(x.1, y.2 ||| z.2)])) (lanes 32 128 v, [])
  (ofLanes 32 r.1, r.2)

/-- A store that the walk makes at a position: withheld in free code, performed after its latency in a region (R181,
R193). -/
def walkStore (bundle slot : Nat) (s : State) (t : Task) (a : Access) (k : State → Task → Res) : Res :=
  let l := s.at_
  if !accessLegal (s.die l.die) t.launch t.ctl.asid a.shape a.en then s.fail 0x0B
  else
    let a := { a with src := some l, bundle, slot, issued := s.now, timed := t.timed, rev := true, asid := t.ctl.asid
                      port := portOf l.core a.shape.base, time := s.gcc l t % 2 ^ 24, launch := t.launch }
    if t.timed then k (s.postAccess (storeDue s l t a s.now) none { a with start := s.now }) t
    else if t.sbuf.length + t.fsts.length ≥ 256 then s.fail 0x0C
    else
      let t1 := { t with sbuf := t.sbuf ++ [a] }
      k (s.setTask l t1) t1

/-- The index vector of a list of element indices; the rest is skipped. -/
def indexVec (l : List Nat) : Vec := ofLanes 32 (l ++ List.replicate (128 - l.length) 0xFFFFFFFF)

/-- An operand's gradient goes to its register's gradient register, to its stream's gradient path, or nowhere (R145,
R246). -/
def contribute (bundle slot : Nat) (o : VSrc) (c : List Contrib) (s : State) (t : Task) (k : State → Task → Res) : Res :=
  match o with
  | .bcast => k s t
  | .v n =>
    let ph := t.arch.phys n.val
    let (v, e) := accLanes (rd t.arch.g ph) c
    let t1 := keepRev { t with arch := { t.arch with g := mset t.arch.g ph v } } e
    k (s.setTask s.at_ t1) t1
  | .z z =>
    let st := t.arch.strm z.val
    if st.k = 0 then s.fail 0x0E
    else
      let t1 := t.modStrm z.val fun x => { x with k := x.k - 1 }
      if c.isEmpty then k (s.setTask s.at_ t1) t1
      else
      let r := c.map fun x => (x.1, rounded .f32 x.2)
      let t2 := keepRev t1 (r.map fun x => (x.1, x.2.2))
      let a : Access := { die := s.at_.die, op := .addF32, lat := 2, data := ofLanes 32 (r.map fun x => x.2.1)
                          shape := { base := wrap64 (st.addr (st.k - 1) + t.arch.goff.toInt), idx := some (indexVec (r.map (·.1))) } }
      walkStore bundle slot (s.setTask s.at_ t2) t2 a k

/-- The sampled output gradient of the operation issued at a position in a slot, for a destination number; +0 where
there is none (R143). -/
def sampleOf (t : Task) (ipos slot dst : Nat) : Vec :=
  match t.arch.walk.samples.find? fun e => e.1 = ipos && e.2.1 = slot && e.2.2.1 = dst with
  | some e => e.2.2.2
  | none => 0

def f32v (c : Nat) : FV := fval .f32 c
def ce0 (x : FV) : FV × Evs := (x, 0)
/-- A product of exact values, with the events of both. -/
def mulE (a b : FV × Evs) : FV × Evs := let r := a.1.mul b.1; (r.1, r.2 ||| a.2 ||| b.2)
def addE (a b : FV × Evs) : FV × Evs := let r := a.1.add b.1; (r.1, r.2 ||| a.2 ||| b.2)
def divE (a b : FV × Evs) : FV × Evs := let r := a.1.div b.1; (r.1, r.2 ||| a.2 ||| b.2)
def negE (a : FV × Evs) : FV × Evs := (a.1.neg, a.2)

/-- One contribution for each enabled lane. -/
def perLane (en : List Bool) (f : Nat → FV × Evs) : List Contrib :=
  (List.range 128).filterMap fun i => if nth false en i then some (i, f i) else none

def selBit (v : Vec) (i : Nat) : Bool := v.getLsbD i

/-- A contribution of t and one residual y, lane by lane. -/
def withItem (bundle slot : Nat) (en : List Bool) (tl : List Nat) (a : VSrc) (f : FV → FV → FV × Evs) (s : State) (t : Task)
    (k : State → Task → Res) : Res :=
  popItem s t fun y s t =>
    let yl := lanes 32 128 y
    contribute bundle slot a (perLane en fun i => f (f32v (nth 0 tl i)) (f32v (nth 0 yl i))) s t k

/-- A product form: pops b then a; ta, tb are t with the sign of the form (R146). -/
def mulAdj (bundle slot : Nat) (en : List Bool) (tl : List Nat) (neg : Bool) (a b : VSrc) (s : State) (t : Task)
    (k : State → Task → Res) : Res :=
  popItem s t fun bv s t => popItem s t fun av s t =>
    let al := lanes 32 128 av
    let bl := lanes 32 128 bv
    let sg (x : FV × Evs) : FV × Evs := if neg then negE x else x
    contribute bundle slot a (perLane en fun i => sg (mulE (ce0 (f32v (nth 0 tl i))) (ce0 (f32v (nth 0 bl i))))) s t fun s t =>
      contribute bundle slot b (perLane en fun i => sg (mulE (ce0 (f32v (nth 0 tl i))) (ce0 (f32v (nth 0 al i))))) s t k

/-- A selection form: t to a where the bit is set and to b elsewhere. -/
def selAdj (bundle slot : Nat) (en : List Bool) (tl : List Nat) (a b : VSrc) (s : State) (t : Task)
    (k : State → Task → Res) : Res :=
  popItem s t fun sel s t =>
    let pick (w : Bool) : List Contrib :=
      (perLane en fun i => ce0 (f32v (nth 0 tl i))).filter fun c => selBit sel c.1 == w
    contribute bundle slot a (pick true) s t fun s t => contribute bundle slot b (pick false) s t k

/-- A sign form: −t where the bit is set. -/
def signAdj (bundle slot : Nat) (en : List Bool) (tl : List Nat) (a : VSrc) (s : State) (t : Task)
    (k : State → Task → Res) : Res :=
  popItem s t fun sel s t =>
    contribute bundle slot a (perLane en fun i =>
      let x := ce0 (f32v (nth 0 tl i)); if selBit sel i then negE x else x) s t k

/-- tree_sum of the gradient with non-enabled lanes as −0 (R146, R193). -/
def treeT (en : List Bool) (tl : List Nat) : CE :=
  treeSum 7 ((List.range 128).map fun i => (if nth false en i then nth 0 tl i else 0x80000000, 0))

/-- The reverse scan of the gradient (R146). -/
def revScan (en : List Bool) (tl : List Nat) : List CE :=
  (scan addCE 7 1 ((List.range 128).map fun i =>
    let j := 127 - i
    ((if nth false en j then nth 0 tl j else 0x80000000 : Nat), 0))).reverse

/-- The first operand of an operation whose row of R146 contributes nothing; broadcast where it has none. -/
def idleOperand : Instr → VSrc
  | .viadd _ _ _ a _ | .visub _ _ _ a _ | .vimul _ _ _ a _ | .vimad _ _ _ a _ _ => a
  | .vimin _ _ _ _ a _ | .vimax _ _ _ _ a _ => a
  | .vand _ _ a _ | .vor _ _ a _ | .vxor _ _ a _ => a
  | .vshl _ _ _ a _ | .vshr _ _ _ a _ | .vsar _ _ _ a _ => a
  | .vcmp _ _ _ _ a _ => a
  | .vsplat _ _ _ a _ | .vperm _ _ _ a _ | .vrot _ _ _ a _ => a
  | .vpack _ _ _ _ a _ => a
  | .vunpk _ _ _ _ a => a
  | .part _ _ a _ => a
  | .vrng _ _ a _ _ => a
  | _ => .bcast

/-- The delivery of a V-slot operation (R146); the operations of its last row deliver nothing, but a stream that one
of them popped still steps back (R246). -/
def vAdjoint (bundle slot : Nat) (i : Instr) (tl : List Nat) (enOf : Fin 8 → List Bool) (s : State) (t : Task)
    (k : State → Task → Res) : Res :=
  let tv (j : Nat) : FV × Evs := ce0 (f32v (nth 0 tl j))
  match i with
  | .vadd h _ _ a b =>
    let c := perLane (enOf h.msk) tv
    contribute bundle slot a c s t fun s t => contribute bundle slot b c s t k
  | .vsub h _ _ a b =>
    contribute bundle slot a (perLane (enOf h.msk) tv) s t fun s t =>
      contribute bundle slot b (perLane (enOf h.msk) fun j => negE (tv j)) s t k
  | .vmul h _ _ a b => mulAdj bundle slot (enOf h.msk) tl false a b s t k
  | .vfma h _ _ a b c =>
    mulAdj bundle slot (enOf h.msk) tl false a b s t fun s t =>
      contribute bundle slot (.v c) (perLane (enOf h.msk) tv) s t k
  | .vfms h _ _ a b c =>
    mulAdj bundle slot (enOf h.msk) tl false a b s t fun s t =>
      contribute bundle slot (.v c) (perLane (enOf h.msk) fun j => negE (tv j)) s t k
  | .vfnma h _ _ a b c =>
    mulAdj bundle slot (enOf h.msk) tl true a b s t fun s t =>
      contribute bundle slot (.v c) (perLane (enOf h.msk) tv) s t k
  | .vmin h _ _ a b => selAdj bundle slot (enOf h.msk) tl a b s t k
  | .vmax h _ _ a b => selAdj bundle slot (enOf h.msk) tl a b s t k
  | .vabs h _ _ a => signAdj bundle slot (enOf h.msk) tl a s t k
  | .vcps h _ _ a _ => signAdj bundle slot (enOf h.msk) tl a s t k
  | .vneg h _ _ a => contribute bundle slot a (perLane (enOf h.msk) fun j => negE (tv j)) s t k
  | .vrcp h _ _ a =>
    withItem bundle slot (enOf h.msk) tl a (fun x y => negE (mulE (mulE (ce0 x) (ce0 y)) (ce0 y))) s t k
  | .vrsq h _ _ a =>
    withItem bundle slot (enOf h.msk) tl a (fun x y =>
      let z := negE (mulE (mulE (mulE (ce0 x) (ce0 y)) (ce0 y)) (ce0 y))
      (scaleFV z.1 (-1), z.2)) s t k
  | .vsqrt h _ _ a => withItem bundle slot (enOf h.msk) tl a (fun x y => divE (ce0 x) (ce0 (scaleFV y 1))) s t k
  | .vexp2 h _ _ a => withItem bundle slot (enOf h.msk) tl a (fun x y => mulE (mulE (ce0 x) (ce0 y)) (ce0 ln2V)) s t k
  | .vlog2 h _ _ a => withItem bundle slot (enOf h.msk) tl a (fun x y => divE (ce0 x) (mulE (ce0 y) (ce0 ln2V))) s t k
  | .vtanh h _ _ a =>
    withItem bundle slot (enOf h.msk) tl a (fun x y =>
      mulE (ce0 x) (addE (ce0 (fvInt 1)) (negE (mulE (ce0 y) (ce0 y))))) s t k
  | .vmov h _ a => contribute bundle slot a (perLane (enOf h.msk) tv) s t k
  | .vsel h _ a b _ => selAdj bundle slot (enOf h.msk) tl a b s t k
  | .vsplat h .w32 _ a ln =>
    let r := treeT (enOf h.msk) tl
    contribute bundle slot a (if ln.val < 128 then [(ln.val, f32v r.1, r.2)] else []) s t k
  | .vperm h .w32 _ a _ =>
    popItem s t fun ix s t =>
      contribute bundle slot a ((List.range 128).filterMap fun j =>
        let x := lane 32 ix j
        if nth false (enOf h.msk) j && decide (x < 128) then some (x, tv j) else none) s t k
  | .vrot h .w32 _ a n =>
    contribute bundle slot a ((List.range 128).filterMap fun j =>
      let x := (j + n.val) % 128
      if nth false (enOf h.msk) x then some (j, tv x) else none) s t k
  | .vcvt h _ a f g _ =>
    contribute bundle slot a (if isFloat f && isFloat g then perLane (enOf h.msk) tv else []) s t k
  | .vscl h _ _ a e =>
    contribute bundle slot a (perLane (enOf h.msk) fun j => ce0 (scaleFV (tv j).1 e.toInt)) s t k
  | .vred h _ .sum _ a => contribute bundle slot a (perLane (enOf h.msk) fun _ => tv 0) s t k
  | .vred _ _ _ _ a =>
    popItem s t fun ix s t =>
      let w := lane 32 ix 0
      contribute bundle slot a (if w < 128 then [(w, tv 0)] else []) s t k
  | .vscan h _ .sum _ a =>
    let r := revScan (enOf h.msk) tl
    contribute bundle slot a (perLane (enOf h.msk) fun j => let c := nth (0, 0) r j; (f32v c.1, c.2)) s t k
  | .vscan h _ _ _ a =>
    popItem s t fun ix s t =>
      contribute bundle slot a ((List.range 128).filterMap fun j =>
        let w := lane 32 ix j
        if nth false (enOf h.msk) j && decide (w < 128) then some (w, tv j) else none) s t k
  | .vdrop h _ _ a key theta =>
    let kv := t.arch.rv key.val
    contribute bundle slot a ((List.range 128).filterMap fun j =>
      if nth false (enOf h.msk) j && dropKeep kv theta.val j then
        some (j, divE (ce0 (scaleFV (tv j).1 6)) (ce0 (fvInt ((64 - theta.val : Nat) : Int))))
      else none) s t k
  | .part _ d a n =>
    contribute bundle slot a [] s t fun s t => popItem s t fun item s t =>
      let c := (List.range 128).map fun j => lane 32 item j
      let ls := (List.range (n.val + 1)).map fun o =>
        (List.range 128).filter fun j => nth 0xFFFF c j != 0xFFFF && nth 0 c j / 256 = o
      let put (a : Arch) (r : Nat) (v : Vec) : Arch := { a with v := mset a.v (a.phys r) v }
      let a1 := (List.range (n.val + 1)).foldl (fun a o => put a (d.val + o) (indexVec (nth [] ls o))) t.arch
      let t1 := { t with arch := put a1 (d.val + 4) (ofLanes 32 (ls.map (·.length))) }
      k (s.setTask s.at_ t1) t1
  | i => contribute bundle slot (idleOperand i) [] s t k

/-! ### The M slot (R168) -/

/-- The operand of an M-slot source. -/
def mOperand : MSrc → VSrc
  | .v n => .v n
  | .z n => .z n

/-- The live elements of line m of the tile as terms with t, by output n: W[m][n], or W[n][m] transposed. -/
def tileTerms (m : Mat) (trans : Bool) (tl : List Nat) (row : Nat) : List (FV × FV) :=
  (List.range 128).filterMap fun n =>
    let (i, j) := if trans then (n, row) else (row, n)
    let live := if m.dirW then j < m.edge else i < m.edge
    if live then some (f32v (nth 0 tl n), tileElem m i j) else none

/-- The plane's update by A[m] × t[n] for live elements, with its events (R168). -/
def planeUpdate (m : Mat) (trans : Bool) (al tl : List Nat) : Map Vec × List Evs :=
  (List.range 128).foldl (fun (acc : Map Vec × List Evs) i =>
    let old := lanes 32 128 (rd acc.1 i)
    let r := old.mapIdx fun j o =>
      let live := if m.dirW then j < m.edge else i < m.edge
      if live then
        let d := dotF32 (if trans then [(f32v (nth 0 tl i), f32v (nth 0 al j))] else [(f32v (nth 0 al i), f32v (nth 0 tl j))])
        let z := accF32 o d.1
        (z.1, z.2 ||| d.2)
      else (o, 0)
    if (if m.dirW then m.edge = 0 else i ≥ m.edge) then acc
    else (mset acc.1 i (ofLanes 32 (r.map (·.1))), acc.2 ++ r.map (·.2))) (m.plane, [])

/-- The delivery of a floating-path beat: the activation's gradient in the first cycle, the plane in the second. -/
def beatAdjoint (bundle slot : Nat) (trans : Bool) (src : MSrc) (tl : List Nat) (s : State) (t : Task)
    (k : State → Task → Res) : Res :=
  popItem s t fun av s t =>
    let al := lanes 32 128 av
    let d := (List.range 128).map fun m => dotF32 (tileTerms t.mat trans tl m)
    contribute bundle slot (mOperand src) (d.mapIdx fun i x => (i, f32v x.1, x.2)) s t fun s t =>
      let (p, e) := planeUpdate t.mat trans al tl
      let t1 := keepRev { t with mat := { t.mat with plane := p } } (e.mapIdx fun i x => (128 + i, x))
      k (s.setTask s.at_ t1) t1

/-- The delivery of an M-slot operation; the path of a beat is that of its forward issue (R160, R168). -/
def mAdjoint (bundle slot : Nat) (float : Bool) (i : Instr) (tl : List Nat) (s : State) (t : Task) (k : State → Task → Res) : Res :=
  match i with
  | .mbeat _ _ _ _ src =>
    if float then beatAdjoint bundle slot false src tl s t k else contribute bundle slot (mOperand src) [] s t k
  | .mbeatt _ _ _ _ src =>
    if float then beatAdjoint bundle slot true src tl s t k else contribute bundle slot (mOperand src) [] s t k
  | .mbeat2 _ _ _ _ src => contribute bundle slot (mOperand src) [] s t k
  | _ => k s t

/-! ### The LS slot (R193) -/

/-- Memory as a walk's read sees it: as it stood before the cycle's writes, with the walk's own earlier writes (R193,
R222). -/
def walkMem (s : State) (t : Task) : Mem :=
  let l := s.at_
  let d := s.die l.die
  let done := if d.walked.1 = s.now then d.walked.2.filter fun a => a.src = some l else []
  let pend := s.calendar.filterMap fun e =>
    match e.what with
    | .accessPerform a => if a.src = some l && a.rev && a.mem == .scratch then some a else none
    | _ => none
  let s0 := s.modDie l.die fun d => { d with scratch := scratchNow s.now d }
  ((done ++ pend ++ t.sbuf.filter fun a => a.ready && a.mem == .scratch).foldl performWrite s0).die l.die |>.scratch

/-- The words of the gradient path that an adjoint reads. -/
def adjWords (s : State) (t : Task) (sh : Shape) (en : Mask) : Vec :=
  let es := shadowsOf s s.at_.die t.ctl.asid
  BitVec.ofNat 4096 (readElems (walkMem s t) sh ((elems sh en).map fun e => (e.1, remap es false e.2.1, e.2.2)))

/-- The bytes of the lanes that take part. -/
def laneMask (en : List Bool) : Mask := BitVec.ofNat 512 (laneBits 4 en)

/-- A checked read of the gradient path. -/
def adjRead (sh : Shape) (en : List Bool) (s : State) (t : Task) (k : Vec → State → Task → Res) : Res :=
  if accessLegal (s.die s.at_.die) t.launch t.ctl.asid sh (laneMask en) then k (adjWords s t sh (laneMask en)) s t
  else s.fail 0x0B

/-- A source's gradient from memory words, for the lanes that take part; then the words are zeroed, when the form says
so (R193). -/
def storeAdjoint (bundle slot lat : Nat) (src : VSrc) (sh : Shape) (en : List Bool) (zero : Bool) (s : State) (t : Task)
    (k : State → Task → Res) : Res :=
  adjRead sh en s t fun v s t =>
    let w := lanes 32 128 v
    contribute bundle slot src (perLane en fun i => ce0 (f32v (nth 0 w i))) s t fun s t =>
      if zero then walkStore bundle slot s t { die := s.at_.die, op := .write, shape := sh, data := 0, en := laneMask en, lat } k
      else k s t

/-- The highest element of each word receives; the others have no part (SCAT of R193). -/
def winners (vi : Vec) (en : List Bool) : List Bool :=
  (List.range 128).map fun i =>
    nth false en i && lane 32 vi i != 0xFFFFFFFF && !((List.range 128).any fun j => decide (j > i) && nth false en j && lane 32 vi j = lane 32 vi i)

/-- The gradient of a load goes to memory as one accumulating store (R193). -/
def loadAdjoint (bundle slot lat : Nat) (sh : Shape) (en : List Bool) (tl : List Nat) (s : State) (t : Task)
    (k : State → Task → Res) : Res :=
  walkStore bundle slot s t { die := s.at_.die, op := .addF32, shape := sh, data := ofLanes 32 tl, en := laneMask en, lat } k

/-- GOFF added to an address. -/
def gAddr (t : Task) (a : Nat) : Nat := wrap64 ((a : Int) + t.arch.goff.toInt)

/-- A queue entry pushed by an adjoint is ready at once (R193, R247). -/
def adjPush (q : Nat) (v : Vec) (s : State) (t : Task) (k : State → Task → Res) : Res :=
  if (t.queue q).occupancy ≥ 16 then s.fail 0x10
  else
    let t1 := t.modQueue q fun x => { x with ents := x.ents ++ [{ id := x.nextId, ready := s.now, val := v }], nextId := x.nextId + 1 }
    k (s.setTask s.at_ t1) t1

def lsAdjoint (bundle slot : Nat) (i : Instr) (tl : List Nat) (enOf : Fin 8 → List Bool) (s : State) (t : Task)
    (k : State → Task → Res) : Res :=
  let unit_ (n : Nat) : Shape := { base := gAddr t n }
  match i with
  | .ldv h _ xa off _ => loadAdjoint bundle slot 6 (unit_ (lsAddr t xa off 64)) (enOf h.msk) tl s t k
  | .ldvs h .w32 _ xa xs off _ =>
    loadAdjoint bundle slot 8 { unit_ (lsAddr t xa off 64) with stride := (t.arch.rx xs.val).toInt } (enOf h.msk) tl s t k
  | .gath h .w32 _ xa _ =>
    popItem s t fun vi s t =>
      loadAdjoint bundle slot 8 { base := gAddr t (t.arch.rx xa.val).toNat, idx := some vi } (enOf h.msk) tl s t k
  | .ldb h _ xa off _ =>
    let r := treeT (enOf h.msk) tl
    let t1 := keepRev t [(0, r.2)]
    walkStore bundle slot (s.setTask s.at_ t1) t1
      { die := s.at_.die, op := .addF32, shape := { base := gAddr t (lsAddr t xa off 4), n := 1 }
        data := BitVec.ofNat 4096 r.1, en := BitVec.ofNat 512 15, lat := 6 } k
  | .stv h src xa off _ => storeAdjoint bundle slot 2 (mOperand src) (unit_ (lsAddr t xa off 64)) (enOf h.msk) true s t k
  | .stvs h .w32 src xa xs off _ =>
    storeAdjoint bundle slot 4 (mOperand src) { unit_ (lsAddr t xa off 64) with stride := (t.arch.rx xs.val).toInt }
      (enOf h.msk) true s t k
  | .scat h .w32 v xa _ =>
    popItem s t fun vi s t =>
      storeAdjoint bundle slot 4 (.v v) { base := gAddr t (t.arch.rx xa.val).toNat, idx := some vi }
        (winners vi (enOf h.msk)) true s t k
  | .scata h v xa _ =>
    popItem s t fun vi s t =>
      let en := (List.range 128).map fun j => nth false (enOf h.msk) j && lane 32 vi j != 0xFFFFFFFF
      storeAdjoint bundle slot 4 (.v v) { base := gAddr t (t.arch.rx xa.val).toNat, idx := some vi } en false s t k
  | .qpop _ _ q => adjPush q.val (ofLanes 32 tl) s t k
  | .qst h q xa off _ =>
    let en := enOf h.msk
    adjRead (unit_ (lsAddr t xa off 64)) en s t fun v s t =>
      walkStore bundle slot s t { die := s.at_.die, op := .write, shape := unit_ (lsAddr t xa off 64), data := 0, en := laneMask en, lat := 2 } fun s t =>
        adjPush q.val v s t k
  | _ => k s t

end Sys2Proof.Machine
end

