-- ==== Sys2Proof/Machine/Routes.lean ====
section
/-! DEFINITION. The torus: links and routes (R329 to R331, R425, R449), the spans of timed transfers (R334, R335), counted
traffic on its way (R336, R449), and the paired channels (R279, R280). -/

namespace Sys2Proof.Machine

/-! ### Coordinates and links (R329) -/

def dieX (d : Nat) : Nat := d / 64 % 8
def dieY (d : Nat) : Nat := d / 8 % 8
def dieZ (d : Nat) : Nat := d % 8
def mkDie (x y z : Nat) : Nat := x * 64 + y * 8 + z

/-- The extent of a dimension, 0 for x. -/
def extent (s : State) (dim : Nat) : Nat := if dim = 0 then s.ext.1 else if dim = 1 then s.ext.2.1 else s.ext.2.2
def coord (d dim : Nat) : Nat := if dim = 0 then dieX d else if dim = 1 then dieY d else dieZ d
def withCoord (d dim c : Nat) : Nat :=
  if dim = 0 then mkDie c (dieY d) (dieZ d) else if dim = 1 then mkDie (dieX d) c (dieZ d) else mkDie (dieX d) (dieY d) c

/-- The die is one of the group. -/
def inGroup (s : State) (d : Nat) : Bool := dieX d < s.ext.1 && dieY d < s.ext.2.1 && dieZ d < s.ext.2.2 && d < 512

/-- The die across link n: xp, xn, yp, yn, zp, zn. -/
def neighbour (s : State) (d n : Nat) : Nat :=
  let dim := n / 2
  let e := Nat.max (extent s dim) 1
  withCoord d dim ((coord d dim + (if n % 2 = 0 then 1 else e - 1)) % e)

def linkOf (s : State) (d n : Nat) : Link := (mget (s.die d).links n).getD {}

/-- The steps and link of the shorter way in a dimension; the positive one when both are equal. -/
def shortWay (e a b : Nat) : Nat × Bool :=
  let f := (b + e - a) % e
  if 2 * f ≤ e then (f, true) else (e - f, false)

/-- A way of n steps over one link direction: (die, link) pairs. -/
def walkLinks (s : State) (link : Nat) : Nat → Nat → List (Nat × Nat)
  | _, 0 => []
  | d, n + 1 => (d, link) :: walkLinks s link (neighbour s d link) n

/-- Every link of the way meets a test of its state. -/
def wayOk (s : State) (ok : Nat → Bool) (w : List (Nat × Nat)) : Bool := w.all fun x => ok (linkOf s x.1 x.2).state

/-- The way along one dimension: the shorter, or with a DOWN link on it the other way round (R329, R425, R449). -/
def dimWay (s : State) (ok : Nat → Bool) (dim a b : Nat) : Option (List (Nat × Nat)) :=
  let e := Nat.max (extent s dim) 1
  let (n, pos) := shortWay e (coord a dim) (coord b dim)
  if n = 0 then some []
  else
    let way (pos : Bool) (n : Nat) := walkLinks s (2 * dim + (if pos then 0 else 1)) a n
    let w := way pos n
    if wayOk s ok w then some w
    else if (w.any fun x => (linkOf s x.1 x.2).state = 0) then
      let v := way (!pos) (e - n)
      if wayOk s ok v then some v else none
    else none

/-- A route in dimension order: x, then y, then z. -/
def route (s : State) (ok : Nat → Bool) (src dst : Nat) : Option (List (Nat × Nat)) :=
  let p1 := mkDie (dieX dst) (dieY src) (dieZ src)
  let p2 := mkDie (dieX dst) (dieY dst) (dieZ src)
  (dimWay s ok 0 src dst).bind fun a => (dimWay s ok 1 p1 dst).bind fun b => (dimWay s ok 2 p2 dst).map fun c => a ++ b ++ c

/-- Timed traffic takes UP links only; counted traffic UP and DEGRADED ones (R333, R449). -/
def timedOk (st : Nat) : Bool := st = 2
def countedOk (st : Nat) : Bool := st = 2 || st = 3

/-- The path latency L of a route (R330). -/
def pathLatency (s : State) (w : List (Nat × Nat)) : Nat :=
  w.foldl (fun n x => n + (linkOf s x.1 x.2).lat) 0 + 24 * (w.length - 1)

/-- The word rate W of a route (R331). -/
def wordRate (s : State) (w : List (Nat × Nat)) : Nat :=
  w.foldl (fun n x => Nat.min n ((linkOf s x.1 x.2).width / 4)) 192

/-- Each link of a route with the latency spent before it. -/
def routeHops (s : State) : Nat → List (Nat × Nat) → List (Nat × Nat × Nat)
  | _, [] => []
  | n, x :: r => (x.1, x.2, n) :: routeHops s (n + (linkOf s x.1 x.2).lat + 24) r

/-! ### Timed transfers (R334, R335) -/

/-- The departure cycle a 16-bit stamp names, counted from this cycle, or none when it has passed (R334). -/
def stampDelay (gcc stamp : Nat) : Option Nat :=
  let d := (stamp + 65536 - gcc % 65536) % 65536
  if 1 ≤ d && d ≤ 32767 then some d else none

/-- Departure cycles of a transfer's words after the first. -/
def spanLength (n rate gap : Nat) : Nat := if n = 0 then 0 else (n - 1) / rate * gap

/-- Spans that still matter: a span that ended before this cycle overlaps nothing new. -/
def liveSpans (s : State) (d : Nat) : List Span := (s.die d).spans.filter fun x => x.last ≥ s.now

/-- A span on an output link overlaps one already known there (R335). -/
def spanClash (s : State) (d link first last : Nat) : Option Span :=
  (liveSpans s d).find? fun x => x.link = link && x.first ≤ last && first ≤ x.last

def addSpan (s : State) (d : Nat) (x : Span) : State := s.modDie d fun y => { y with spans := (y.spans.filter fun z => z.last ≥ s.now) ++ [x] }

/-- A timed transfer is scheduled: its span on the first link, its departures, and its header at each later router
(R334, R335). -/
def launchTransfer (s : State) (t : Transfer) : State :=
  let last := t.depart + spanLength t.n t.rate t.gap
  match t.hops with
  | [] => s
  | (d, link, _) :: rest =>
    let s1 := addSpan s d { link, first := t.depart, last, task := t.task, launch := t.launch, id := t.id }
    let s2 := s1.postUnit (t.depart - (if t.tile.isSome then 1 else 0)) rkRead (.fabricDeparture t)
    rest.foldl (fun st x => st.postUnit (t.depart + x.2.2) rkArrive (.routerForward x.1 x.2.1 t)) s2

/-- A fresh number for a transfer or a message. -/
def State.fresh (s : State) : Nat × State := (s.seq, { s with seq := s.seq + 1 })

/-! ### Paired channels (R279, R280, R349) -/

/-- The pair entry of a channel of a launch on a die, when it is valid. -/
def pairEntry (s : State) (launch die ch : Nat) : Option (BitVec 128) :=
  match (s.launch launch).bind fun x => mget x.pairs (die * 256 + ch) with
  | some e => if bits e.toNat 15 15 = 1 then some e else none
  | none => none
def pairPeer (e : BitVec 128) : Nat := bits e.toNat 8 0
def pairBack (e : BitVec 128) : Nat := bits e.toNat 23 16
def pairLat (e : BitVec 128) : Nat := bits e.toNat 63 32

/-- The first checks of any use of a channel: an entry, and one task of the launch as its user on the die (R279). -/
def chanUse (s : State) (l : Loc) (t : Task) (ch : Nat) : Option (BitVec 128) :=
  match pairEntry s t.launch l.die ch with
  | none => none
  | some e =>
    match (s.chan l.die t.launch ch).user with
    | none => some e
    | some u => if u = t.ident then some e else none

/-- A vector leaves on a channel: counted in free code, a timed transfer of 128 words in a region (R280, R349). -/
def sendPair (s : State) (l : Loc) (t : Task) (ch : Nat) (e : BitVec 128) (v : Vec) (delay : Nat) : Except Nat State :=
  let body : PairVec := { dst := pairPeer e, launch := t.launch, chan := ch, val := v, src := l.die
                          seq := (s.chan l.die t.launch ch).nextSend }
  if !t.timed then .ok ((s.modChan l.die t.launch ch fun c => { c with sent := c.sent + 1, nextSend := c.nextSend + 1 }).sendCounted { at_ := l.die, dst := pairPeer e, src := l.die, launch := t.launch, asid := t.ctl.asid, body := .pair body })
  else
    match route s timedOk l.die (pairPeer e) with
    | none => .error 0x26
    | some w =>
      let rate := wordRate s w
      let c := s.now + delay
      let last := c + spanLength 128 rate 1
      match w with
      | [] => .error 0x26
      | (d, link) :: _ =>
        if (spanClash s d link c last).isSome then .error 0x27
        else
          let (id, s1) := s.fresh
          let s1 := s1.modChan l.die t.launch ch fun c => { c with sent := c.sent + 1, nextSend := c.nextSend + 1 }
          .ok (launchTransfer s1 { src := l.die, dst := pairPeer e, task := some l, asid := t.ctl.asid, launch := t.launch
                                   depart := c, rate, lat := pairLat e, addr := 0, id, n := 128
                                   words := (lanes 32 128 v).map (BitVec.ofNat 32), hops := routeHops s1 0 w, pair := some (ch, body.seq) })

/-- The oldest vector of a channel is taken; its sender's count falls (R280). -/
def takeVector (s : State) (l : Loc) (launch ch : Nat) (peer : Nat) : Option (Vec × State) :=
  match (s.chan l.die launch ch).buf with
  | v :: r => some (v, (s.modChan l.die launch ch fun c => { c with buf := r }).modChan peer launch ch fun c => { c with sent := c.sent - 1 })
  | [] => none

/-! ### The drain horizon (R391) -/

/-- Lmax: the largest path latency in a gang's timetables and pair table (R391). -/
def gangLmax (s : State) (x : Launch) : Nat :=
  let tts := x.homes.flatMap fun m => (s.die m).tts.flatMap fun e =>
    if e.2.asid = x.asid then
      e.2.sends.map fun q => ((route s timedOk m q.dest).map (pathLatency s)).getD 0
    else []
  (tts ++ x.pairs.map fun e => pairLat e.2).foldl Nat.max 0

/-- The drain horizon of a die after this stop cycle (R391). -/
def postHorizon (s : State) (die id : Nat) : State :=
  match s.launch id with
  | some x =>
    if x.desc.gang then
      let h := s.now + gangLmax s x + Config.jitter + 1
      (s.modDie die fun d => { d with horizon := some h }).postUnit h rkRead (.drainHorizon die id)
    else s
  | none => s

/-- The region of a core ends: its windows stay armed with the die, and when no task of the launch on the die is left in
a region the drain horizon follows (R339, R391). -/
def leaveRegion (s : State) (l : Loc) (t : Task) : State :=
  let s1 := s.modDie l.die fun d => { d with left := d.left ++ t.windows.map fun w => (t.launch, w) }
  let s2 := s1.modTask l fun t => { t with windows := [], timed := false }
  if (s2.die l.die).tasks.any fun e => e.2.launch = t.launch && e.2.timed then s2 else postHorizon s2 l.die t.launch

end Sys2Proof.Machine
end

