-- ==== Sys2Proof/Machine/Fabric.lean ====
section
/-! DEFINITION. The sends and receives of the FB slot: timed sends and windows (R334 to R339), paired channels (R280), and
the virtual accesses FLD, FST and FATOM (R321, R322). -/

namespace Sys2Proof.Machine

/-- The all-zero FB slot (R446). -/
def issueFbNop : Issue := fun s _ => .ok s
def execFbNop (s : State) : Host.Outcome State Fault Refusal := runSlot issueFbNop s

/-! ### Timed sends (R334, R335, R337, R338) -/

/-- The destination die of DK (R338); one outside the group, or the issuing die for DK = 6, is none. -/
def dkTarget (s : State) (l : Loc) (t : Task) : Dk → Option Nat
  | .link n => some (neighbour s l.die n.val)
  | .routed xd =>
    let x := (t.arch.rx xd.val).toNat
    if x ≥ 512 || x = l.die || !inGroup s x then none else some x

/-- The route of DK: one hop over a named link, or the route of R329; its links are UP. -/
def dkRoute (s : State) (l : Loc) (d : Dk) (dst : Nat) : Option (List (Nat × Nat)) :=
  match d with
  | .link n => if timedOk (linkOf s l.die n.val).state then some [(l.die, n.val)] else none
  | .routed _ => route s timedOk l.die dst

/-- A range of the task's own scratch window in its own slice (R337). -/
def ownWindow (s : State) (l : Loc) (t : Task) (a n : Nat) : Bool :=
  a < 2 ^ 29 && saSlice a = l.core && t.ctl.swbase ≤ a && a + n ≤ t.ctl.swbase + t.ctl.swsize &&
    rangeLegal (s.die l.die) t.launch t.ctl.asid a n

/-- A timed send of n words: from scratchpad, or words already popped. -/
def sendOp (s : State) (t : Task) (d : Dk) (xr n stamp : Nat) (op : AccOp) (src : Option Nat) (words : List (BitVec 32)) : Res :=
  let l := s.at_
  let pend := t.sends.filter fun x => x.last > s.now
  match stampDelay (s.gcc l t) stamp, dkTarget s l t d with
  | some dly, some dst =>
    match dkRoute s l d dst with
    | some ((d0, k0) :: rest) =>
      let w := (d0, k0) :: rest
      let rate := wordRate s w
      let c := s.now + dly
      let last := c + spanLength n rate 1
      if pend.length ≥ 4 then s.fail 0x26
      else if (spanClash s d0 k0 c last).isSome then s.fail 0x27
      else
        let (id, s1) := s.fresh
        let s2 := launchTransfer s1 { src := l.die, dst, task := some l, asid := t.ctl.asid, launch := t.launch, depart := c, rate
                                      lat := pathLatency s1 w, addr := xr, op, id, n, words, from_ := src, hops := routeHops s1 0 w }
        .ok (s2.modTask l fun t => { t with sends := pend ++ [{ id, depart := c, last }] })
    | _ => s.fail 0x26
  | _, _ => s.fail 0x26

/-- The checks every form of R337 makes of its addresses: alignment, then the window. -/
def sendCheck (s : State) (t : Task) (a : Option (Nat × Nat)) (xr : Nat) : Option Nat :=
  if !t.timed then some 0x06
  else
    match a with
    | some (x, n) => if x % 4 != 0 || xr % 4 != 0 then some 0x0A else if ownWindow s s.at_ t x n then none else some 0x0B
    | none => if xr % 4 != 0 then some 0x0A else none

/-- FSEND and FSENDA (R338). -/
def fsendOp (op : AccOp) (p : Fin 16) (dk : Dk) (xa xr : Fin 32) (cnt : Fin 4096) (stamp : BitVec 16) : Issue :=
  whenPred p fun s t =>
    let a := (t.arch.rx xa.val).toNat
    let r := (t.arch.rx xr.val).toNat
    match sendCheck s t (some (a, 4 * (cnt.val + 1))) r with
    | some c => s.fail c
    | none => sendOp s t dk r (cnt.val + 1) stamp.toNat op (some a) []

/-- FSEND: a plain write of each word at the receiver (R338). -/
def issueFsend (p : Fin 16) (dk : Dk) (xa xr : Fin 32) (cnt : Fin 4096) (stamp : BitVec 16) : Issue :=
  fsendOp .write p dk xa xr cnt stamp
def execFsend (p : Fin 16) (dk : Dk) (xa xr : Fin 32) (cnt : Fin 4096) (stamp : BitVec 16) (s : State) :
    Host.Outcome State Fault Refusal := runSlot (issueFsend p dk xa xr cnt stamp) s

/-- FSENDA: an f32 accumulate of each word at the receiver (R338). -/
def issueFsenda (p : Fin 16) (dk : Dk) (xa xr : Fin 32) (cnt : Fin 4096) (stamp : BitVec 16) : Issue :=
  fsendOp .addF32 p dk xa xr cnt stamp
def execFsenda (p : Fin 16) (dk : Dk) (xa xr : Fin 32) (cnt : Fin 4096) (stamp : BitVec 16) (s : State) :
    Host.Outcome State Fault Refusal := runSlot (issueFsenda p dk xa xr cnt stamp) s

/-- Pops e entries of a queue, oldest first (R165, R338). -/
def popEntries (q : Nat) : Nat → List Vec → (List Vec → State → Task → Res) → State → Task → Res
  | 0, acc, k, s, t => k acc s t
  | e + 1, acc, k, s, t => popQueue s t q fun v s t => popEntries q e (acc ++ [v]) k s t

/-- FSENDQ: e entries popped at issue, sent as 128 words each, entry 0 first (R338). -/
def issueFsendq (p : Fin 16) (dk : Dk) (q : Fin 4) (xr : Fin 32) (cnt : Fin 16) (stamp : BitVec 16) : Issue :=
  whenPred p fun s t =>
    let r := (t.arch.rx xr.val).toNat
    match sendCheck s t none r with
    | some c => s.fail c
    | none =>
      popEntries q.val (cnt.val + 1) [] (fun vs s t =>
        sendOp s t dk r (128 * (cnt.val + 1)) stamp.toNat .write none
          (vs.flatMap fun v => (lanes 32 128 v).map (BitVec.ofNat 32))) s t
def execFsendq (p : Fin 16) (dk : Dk) (q : Fin 4) (xr : Fin 32) (cnt : Fin 16) (stamp : BitVec 16) (s : State) :
    Host.Outcome State Fault Refusal := runSlot (issueFsendq p dk q xr cnt stamp) s

/-- The windows of the die still armed. -/
def dieWindows (d : Die) : List Window := (d.tasks.flatMap fun e => e.2.windows) ++ d.left.map (·.2)

/-- FRECV arms a window of n words from issue + 1; an overlap with an armed window of the die, or a 17th of the core, is
the ingress fault (R339). -/
def issueFrecv (p : Fin 16) (xa : Fin 32) (cnt : Fin 4096) : Issue :=
  whenPred p fun s t =>
    let a := (t.arch.rx xa.val).toNat
    let n := cnt.val + 1
    match sendCheck s t (some (a, 4 * n)) 0 with
    | some c => s.fail c
    | none =>
      let clash := (dieWindows (s.die s.at_.die)).any fun w => w.base < a + 4 * n && a < w.base + 4 * w.words
      if clash || t.windows.length ≥ 16 then s.fail 0x29
      else .ok (s.modTask s.at_ fun t => { t with windows := t.windows ++ [{ base := a, words := n }] })
def execFrecv (p : Fin 16) (xa : Fin 32) (cnt : Fin 4096) (s : State) : Host.Outcome State Fault Refusal :=
  runSlot (issueFrecv p xa cnt) s

/-! ### Paired channels (R280, R281) -/

/-- A channel used inside a block stands in its PAIRS (R259). -/
def chanInBlock (s : State) (t : Task) (ch : Nat) : Bool :=
  match t.arch.blk with
  | none => true
  | some b => blkPaired (blockEntry s s.at_ t b.block) ch

/-- PSEND: in free code the vector leaves at the next checkpoint, in a region at its stamp (R280). -/
def issuePsend (p : Fin 16) (ch : Fin 256) (vr : Fin 64) (g : Bool) (stamp : BitVec 16) : Issue :=
  whenPred p fun s t =>
    let l := s.at_
    if !chanInBlock s t ch.val then s.fail 0x16
    else if t.arch.walk.mode == .replay then .ok s
    else
      match chanUse s l t ch.val with
      | none => s.fail 0x1C
      | some e =>
        let waiting := (t.psends.filter fun c => match c.body with | .pair v => v.chan = ch.val | _ => false).length
        if (s.chan l.die t.launch ch.val).sent + waiting ≥ 8 then (if t.timed then s.fail 0x1C else .stall .stall)
        else
          let v := if g then t.arch.rg vr.val else t.arch.rv vr.val
          let s1 := s.modChan l.die t.launch ch.val fun c => { c with user := some t.ident }
          if t.timed then
            match stampDelay (s.gcc l t) stamp.toNat with
            | none => s.fail 0x26
            | some d =>
              match sendPair s1 l t ch.val e v d with
              | .ok s2 => .ok s2
              | .error c => s.fail c
          else
            let m : Counted := { at_ := l.die, dst := pairPeer e, src := l.die, launch := t.launch, asid := t.ctl.asid
                                 body := .pair { dst := pairPeer e, launch := t.launch, chan := ch.val, val := v, src := l.die } }
            .ok (s1.modTask l fun t => { t with psends := t.psends ++ [m] })
def execPsend (p : Fin 16) (ch : Fin 256) (vr : Fin 64) (g : Bool) (stamp : BitVec 16) (s : State) :
    Host.Outcome State Fault Refusal := runSlot (issuePsend p ch vr g stamp) s

/-- A received vector lands on its register, or accumulates into its gradient register, at issue + 3 (R280). -/
def recvLand (s : State) (t : Task) (vr : Fin 64) (g : Bool) (v : Vec) : State :=
  if g then s.emit t 3 { dest := .g (t.arch.phys vr.val), mode := .f32acc, val := v }
  else s.emitV t 3 vr.val v (BitVec.allOnes 512) []

/-- PRECV: the oldest vector of the channel; in a replay the next one of the boundary frame (R270, R280). -/
def issuePrecv (p : Fin 16) (ch : Fin 256) (vr : Fin 64) (g : Bool) : Issue :=
  whenPred p fun s t =>
    let l := s.at_
    if !chanInBlock s t ch.val then s.fail 0x16
    else if t.arch.walk.mode == .replay then
      match t.arch.walk.recvs with
      | v :: r =>
        let t1 := { t with arch := { t.arch with walk := { t.arch.walk with recvs := r } } }
        .ok (recvLand (s.setTask l t1) t1 vr g v)
      | [] => s.fail 0x18
    else
      match chanUse s l t ch.val with
      | none => s.fail 0x1C
      | some e =>
        match takeVector s l t.launch ch.val (pairPeer e) with
        | none => if t.timed then s.fail 0x1D else .stall .stall
        | some (v, s1) =>
          let s2 := s1.modChan l.die t.launch ch.val fun c => { c with user := some t.ident }
          if boundaryFrame s t then pushItem s2 t v fun s t => .ok (recvLand s t vr g v)
          else .ok (recvLand s2 t vr g v)
def execPrecv (p : Fin 16) (ch : Fin 256) (vr : Fin 64) (g : Bool) (s : State) : Host.Outcome State Fault Refusal :=
  runSlot (issuePrecv p ch vr g) s

/-! ### Virtual accesses (R321, R322) -/

/-- The regime and alignment of the three forms (R321, R322). -/
def virtCheck (s : State) (t : Task) (va al : Nat) : Option Res :=
  if t.timed then some (s.fail 0x06)
  else if va % al != 0 then some (s.fail 0x0A)
  else if held s s.at_.die t.ctl.asid va al then some (.stall .stall)
  else none

/-- The translation fault of R314, and the permit fault of R318. -/
def xlateFail (s : State) (cause va : Nat) : Res := .fault { code := 0x20, slot := s.slot.code, va := some va, cause }
def permitFail (s : State) (va : Nat) : Res := .fault { code := 0x21, slot := s.slot.code, va := some va }

/-- The local access of FLD, FST or FATOM, through the Mule port of the cluster (R321). -/
def virtAccess (s : State) (t : Task) (op : AccOp) (va n : Nat) (data : Vec) (land : Option Landing) : Access :=
  { die := s.at_.die, mem := .virt, op, shape := { base := va, n }, data, en := BitVec.ofNat 512 (2 ^ (4 * n) - 1)
    port := 2 * (s.at_.core / 32), asid := t.ctl.asid, src := some s.at_, bundle := t.fetch.pc, slot := s.slot.code
    issued := s.now, cls := .remote, land, launch := t.launch, time := s.gcc s.at_ t % 2 ^ 24 }

/-- An access whose value the core waits for: local at a cycle that is not fixed, or a request to another die, behind the
FSTs that the bundle's own checkpoint releases (R231, R322, R429). -/
def waitRemote (s : State) (t : Task) (x : Xlate) (va n : Nat) (op : AccOp) (kind : Option (Option Aop)) (data : Vec)
    (r : Landing) : Res :=
  let l := s.at_
  let r := s.landing t r
  let s0 := releaseSome (tlbFill s l.die t.ctl.asid va) l fun a => a.cls == .remote
  match x with
  | .bad c => xlateFail s c va
  | .dpa _ =>
    let (f, s1) := s0.nextFree
    let s2 := s1.postAccess (s1.now + 1 + f % 65536) none (virtAccess s t op va n data (some r))
    .ok (s2.modTask l fun t => { t with wait := .remote r.id })
  | .away e _ =>
    let q : ApReq := { dst := apDie e, tasid := apAsid e, src := l.die, sasid := t.ctl.asid, loc := l
                       va := (va + apOffset e) % 2 ^ 52, sva := va, kind, data, land := some r, id := r.id }
    let s1 := s0.sendCounted { at_ := l.die, dst := q.dst, src := l.die, launch := t.launch, asid := t.ctl.asid, body := .request q }
    .ok (s1.modTask l fun t => { t with wait := .remote r.id, rems := t.rems ++ [(q.dst, r.id)] })

/-- FLD (R321). -/
def issueFld (p : Fin 16) (vd : Fin 64) (xa : Fin 32) : Issue :=
  whenPred p fun s t =>
    let va := (t.arch.rx xa.val).toNat
    match virtCheck s t va 512 with
    | some r => r
    | none =>
      waitRemote s t (xlate s s.at_.die t.ctl.asid va true false) va 128 .read none 0
        { dest := .v (t.arch.phys vd.val) }
def execFld (p : Fin 16) (vd : Fin 64) (xa : Fin 32) (s : State) : Host.Outcome State Fault Refusal :=
  runSlot (issueFld p vd xa) s

/-- FST: one store-buffer entry that leaves at its releasing checkpoint (R321, R322). -/
def issueFst (p : Fin 16) (vs : Fin 64) (xa : Fin 32) : Issue :=
  whenPred p fun s t =>
    let l := s.at_
    let va := (t.arch.rx xa.val).toNat
    let v := t.arch.rv vs.val
    match virtCheck s t va 512 with
    | some r => r
    | none =>
      match xlate s l.die t.ctl.asid va false true with
      | .bad c => xlateFail s c va
      | .dpa _ =>
        let (f, s1) := (tlbFill s l.die t.ctl.asid va).nextFree
        issueStore s1 t { virtAccess s t .write va 128 v none with lat := 1 + f % 65536 }
      | .away e _ =>
        if t.sbuf.length + t.fsts.length ≥ 256 then s.fail 0x0C
        else
          let (id, s1) := (tlbFill s l.die t.ctl.asid va).fresh
          let q : ApReq := { dst := apDie e, tasid := apAsid e, src := l.die, sasid := t.ctl.asid, loc := l
                             va := (va + apOffset e) % 2 ^ 52, sva := va, kind := some none, data := v, id }
          .ok (s1.modTask l fun t => { t with fsts := t.fsts ++ [q] })
def execFst (p : Fin 16) (vs : Fin 64) (xa : Fin 32) (s : State) : Host.Outcome State Fault Refusal :=
  runSlot (issueFst p vs xa) s

/-- FATOM: an aperture leaf without RA is the permit fault at the source (R318, R321). -/
def issueFatom (p : Fin 16) (op : Aop) (vr : Fin 64) (xa : Fin 32) : Issue :=
  whenPred p fun s t =>
    let va := (t.arch.rx xa.val).toNat
    match virtCheck s t va 4 with
    | some r => r
    | none =>
      let x := xlate s s.at_.die t.ctl.asid va true true
      match x with
      | .away _ false => permitFail s va
      | _ =>
        waitRemote s t x va 1 (.atom op) (some (some op)) (t.arch.rv vr.val)
          { dest := .v (t.arch.phys vr.val), en := BitVec.ofNat 512 15 }
def execFatom (p : Fin 16) (op : Aop) (vr : Fin 64) (xa : Fin 32) (s : State) : Host.Outcome State Fault Refusal :=
  runSlot (issueFatom p op vr xa) s

end Sys2Proof.Machine
end

