-- ==== Sys2Proof/Machine/Blocks.lean ====
section
/-! DEFINITION. The RP slot: the residual stack's instructions (R275, R276, R282), the open and close of a block (R258, R260,
R268), BLK.REV and the reverse walk (R264 to R267, R270, R281), and the residual controller (R274). -/

namespace Sys2Proof.Machine

/-- The all-zero RP slot (R446). -/
def issueRpNop : Issue := fun s _ => .ok s
def execRpNop (s : State) : Host.Outcome State Fault Refusal := runSlot issueRpNop s

/-! ### Loose items (R263, R276) -/

/-- RPUSH: inside a block an item of its frame, outside a loose item (R263, R276). -/
def issueRpush (p : Fin 16) (va : Fin 64) (g : Bool) : Issue :=
  whenPred p fun s t =>
    let v := if g then t.arch.rg va.val else t.arch.rv va.val
    if t.arch.blk.isSome then pushOutput s t 2 v fun s _ => .ok s
    else
      let t1 := t.modArch fun a => { a with frames := a.frames ++ [{ start := a.top, block := 0, kind := 3 }] }
      pushLater (s.setTask s.at_ t1) t1 2 v fun s _ => .ok s
def execRpush (p : Fin 16) (va : Fin 64) (g : Bool) (s : State) : Host.Outcome State Fault Refusal :=
  runSlot (issueRpush p va g) s

/-- The top frame of the model's trace. -/
def topFrame (t : Task) : Option FrameRec := t.arch.frames.getLast?
def dropFrame (a : Arch) : Arch := { a with frames := a.frames.dropLast }

/-- RPOP: the top item lands 6 cycles after issue; a frame on top is the residual-order fault (R276, R282). -/
def issueRpop (p : Fin 16) (vd : Fin 64) (g : Bool) : Issue :=
  whenPred p fun s t =>
    if t.arch.blk.isSome then s.fail 0x16
    else
      match topFrame t with
      | some f =>
        if f.kind != 3 then s.fail 0x18
        else
          popItem s t fun v s t =>
            let t1 := t.modArch dropFrame
            let s1 := s.setTask s.at_ t1
            if g then .ok (s1.emit t1 6 { dest := .g (t1.arch.phys vd.val), val := v })
            else .ok (s1.emitV t1 6 vd.val v (BitVec.allOnes 512) [])
      | none => s.fail 0x18
def execRpop (p : Fin 16) (vd : Fin 64) (g : Bool) (s : State) : Host.Outcome State Fault Refusal :=
  runSlot (issueRpop p vd g) s

/-- A frame's copy in the CXL tier is given up, and its bytes of the context's quota (R218, R276). -/
def forgetFrame (s : State) (l : Loc) (start : Nat) : State :=
  let key := coreOrd l * 2 ^ 40 + start
  match mget (s.die l.die).frames key with
  | none => s
  | some f => (s.modDie l.die fun d => { d with frames := mdel d.frames key }).modCtx l.die f.asid fun c =>
      { c with cxlUsed := c.cxlUsed - f.stored }

/-- The frame of the CXL tier that holds bytes of a segment of a task at a place. -/
def tierFrame (s : State) (place : Loc) (launch g : Nat) : Option CxlFrame :=
  ((s.die place.die).frames.find? fun f => f.2.loc = place && f.2.launch = launch &&
    f.2.start < 4096 * (g + 1) && 4096 * g < f.2.start + f.2.bytes.length).map (·.2)

/-- RDROP: the top n frames are discarded without being filled, what the CXL tier holds of them included (R276). -/
def issueRdrop (p : Fin 16) (n : Fin 16) : Issue :=
  whenPred p fun s t =>
    let fs := t.arch.frames
    let gone := fs.drop (fs.length - n.val)
    if fs.length < n.val || gone.any (fun f => f.kind = 3) then s.fail 0x18
    else
      let top := ((gone.head?).map (·.start)).getD t.arch.top
      let t1 := t.modArch fun a => { a with frames := fs.take (fs.length - n.val), top }
      let stays (g : Nat) : Bool := 4096 * g < heldTop t1
      let t2 := { t1 with res := { t1.res with
        segs := liveSegs (heldTop t1) t1.res.segs, owed := t1.res.owed.filter stays, later := t1.res.later.filter stays } }
      .ok (gone.foldl (fun st f => forgetFrame st s.at_ f.start) (s.setTask s.at_ t2))
def execRdrop (p : Fin 16) (n : Fin 16) (s : State) : Host.Outcome State Fault Refusal := runSlot (issueRdrop p n) s

/-! ### RSPILL and RFILL (R272, R274, R275) -/

def setSeg (t : Task) (g : Nat) (x : Seg) : Task := { t with res := { t.res with segs := mset t.res.segs g x } }

/-- A refresh cycle lies in the occupancy (R202, R215, R275). -/
def meetsRefresh (gcc len : Nat) : Bool :=
  gcc % 16384 + len ≥ 16128

/-- The cycles until the next one whose occupancy of this length meets no refresh window. -/
def afterRefresh (gcc len : Nat) : Nat := if meetsRefresh gcc len then 16384 - gcc % 16384 else 0

/-- The oldest RESIDENT segments that lie wholly below a bound, and the newest AWAY ones. -/
def oldestResident (t : Task) (top : Nat) : List Nat :=
  (t.res.segs.filter fun e => e.2.st == .resident && decide ((e.1 + 1) * 4096 ≤ top)).map (·.1)
def newestAway (t : Task) : List Nat := ((t.res.segs.filter fun e => e.2.st == .away).map (·.1)).reverse

/-- The enable of one 64 B block. -/
def allBlock : Mask := BitVec.ofNat 512 (2 ^ 64 - 1)

/-- Block k of a segment on its way out of the window: read 6k cycles after the segment's start, written 640 cycles later
(R275). -/
def segOutAccess (l : Loc) (asid launch g k : Nat) : Access :=
  { die := l.die, op := .segOut l.core g k, shape := { base := 0, n := 0 }, cls := .engine, asid, launch }

/-- Block k of a segment that comes in: read and written into the window 640 + 6k cycles after the segment's start (R275). -/
def segInAccess (l : Loc) (asid launch g k : Nat) : Access :=
  { die := l.die, mem := .virt, op := .segIn l.core g k, shape := { base := 0, n := 0 }, cls := .engine, asid, launch }

/-- The cycles in which the transfers of some segments start, one after another, each clear of a refresh window (R275). -/
def segStarts (phase : Nat) : List Nat → Nat → List (Nat × Nat)
  | [], _ => []
  | g :: r, start =>
    let st := start + afterRefresh (phase + start) (640 + 6 * 63)
    (g, st) :: segStarts phase r (st + 384)

/-- The segments' transfers with their starts: of a region's, which meets no refresh window, exactly 384 cycles apart. -/
def segTimes (s : State) (l : Loc) (t : Task) (start : Nat) (gs : List Nat) : List (Nat × Nat) :=
  segStarts (s.gcc l t + 16384 - s.now % 16384) gs start

/-- Transfers start for the segments in order; a segment's state changes 1 cycle after its last block (R272, R275). -/
def startTransfers (s : State) (l : Loc) (out op : Bool) (start : Nat) (gs : List Nat) : State :=
  match s.task l with
  | none => s
  | some t =>
    let s1 := gs.foldl (fun (st : State) g => st.modTask l fun t =>
      setSeg t g { ((segState t g).getD {}) with st := if out then .outbound else .inbound, bad := false, op }) s
    (segTimes s l t start gs).foldl (fun (st : State) x =>
      let first := if out then st.postAccess x.2 none (segOutAccess l t.ctl.asid t.launch x.1 0)
        else st.postAccess (x.2 + 640) none (segInAccess l t.ctl.asid t.launch x.1 0)
      first.postUnit (x.2 + 640 + 6 * 63 + 1) rkDrain (.segmentTransferComplete l x.1)) s1

/-- An RSPILL or RFILL starts its transfers: the next one waits for the cycle in which the last block performs (R275). -/
def startMove (s : State) (l : Loc) (out : Bool) (start : Nat) (gs : List Nat) : State :=
  match s.task l with
  | none => s
  | some t =>
    let last := ((segTimes s l t start gs).getLast?).map fun x => x.2 + 640 + 6 * 63
    (startTransfers s l out true start gs).modTask l fun t => { t with res := { t.res with moveEnd := last.getD t.res.moveEnd } }

/-- A block of a spill is read from the window, and is on its way to the spill area (R275). -/
def segOutBlock (s : State) (a : Access) (core g k : Nat) : State :=
  let l : Loc := { die := a.die, core }
  match s.task l with
  | none => s
  | some t =>
    let s0 := correctRange s l.die (winAddr l t (4096 * g + 64 * k)) 64
    let v := Mem.num (scratchNow s.now (s0.die l.die)) (winAddr l t (4096 * g + 64 * k)) 64
    let w : Access := { a with mem := .virt, op := .write, shape := { base := spillAddr t g + 64 * k, n := 16 }
                               data := BitVec.ofNat 4096 v, en := allBlock, port := 18 }
    let s1 := s0.postAccess (s.now + 640) none w
    if k = 63 then s1 else s1.postAccess (s.now + 6) none (segOutAccess l a.asid a.launch g (k + 1))

/-- A block of a fill is read in the spill area and written into the window; a transfer whose segment has been dropped
completes and is discarded (R275, R276). -/
def segInBlock (s : State) (a : Access) (core g k : Nat) : State :=
  let l : Loc := { die := a.die, core }
  match s.task l with
  | none => s
  | some t =>
    let r : Access := { a with op := .read, shape := { base := spillAddr t g + 64 * k, n := 16 }, en := allBlock }
    let s0 := correctAccess (if t.timed then s else tlbFill s l.die a.asid (spillAddr t g)) r
    let s1 := match readPoison s0 r with
      | some d => s0.postUnit s.now rkArrive (.uncorrectableMemoryError a.die d (unitField (if dpaHbm d then 7 else 8) (dpaStack d) (dpaPc d)))
      | none =>
        if (segState t g).any fun x => x.st == .inbound then
          s0.postAccess s.now none { r with mem := .scratch, op := .write, port := 26, data := readValue s0 r
                                            shape := { base := winAddr l t (4096 * g + 64 * k), n := 16 } }
        else s0
    if k = 63 then s1 else s1.postAccess (s.now + 6) none (segInAccess l a.asid a.launch g (k + 1))

/-- A fill of a segment must wait for the holder of its window slot (R275). -/
def slotHeld (t : Task) (g : Nat) : Bool := (slotHolder t g).isSome

/-- An RSPILL or RFILL of a region: fixed timing, with the faults that free code knows as waits (R275). -/
def moveTimed (out : Bool) (k : Nat) (gs : List Nat) : Issue := fun s t =>
  let l := s.at_
  if meetsRefresh (s.gcc l t) (640 + 6 * (64 * k - 1)) || s.now ≤ t.res.moveEnd then s.fail 0x23
  else if !out && gs.any (slotHeld t) then s.fail 0x18
  else
    match gs.findSome? fun g => (spillCause s l t out g).map fun c => (g, c) with
    | some (g, c) => .fault { code := 0x1B, slot := s.slot.code, va := some (spillAddr t g), cause := c }
    | none => .ok (startMove s l out s.now gs)

/-- An RSPILL or RFILL of free code, through the residual controller: it stops at a missing page, a fill waits for its
window slot, and a spill for the checkpoint that frees reused bytes (R274, R275, R277). -/
def moveFree (out : Bool) (gs : List Nat) : Issue := fun s t =>
  let l := s.at_
  let good := gs.takeWhile fun g => (spillCause s l t out g).isNone
  let stop := gs.drop good.length
  let s0 := s.modTask l fun t => stop.foldl (fun t g => setSeg t g { ((segState t g).getD {}) with bad := true }) t
  let waits (g : Nat) : Bool := if out then reused l t g else slotHeld t g
  let go := good.filter fun g => !waits g
  let held := good.filter waits
  let (f, s1) := s0.nextFree
  let start := Nat.max s.now (t.res.moveEnd + 1) + f % 4096
  .ok ((startMove s1 l out start go).modTask l fun t => { t with res :=
    if out then { t.res with later := t.res.later ++ held } else { t.res with owed := t.res.owed ++ held } })

/-- RSPILL and RFILL (R275). -/
def moveOp (out : Bool) (n : Nat) : Issue := fun s t =>
  let k := (n + 3) / 4
  let gs := if out then (oldestResident t t.arch.top).take k else (newestAway t).take k
  if t.arch.walk.mode == .replay then .ok s
  else if out && t.res.spillSize = 0 then s.fail 0x19
  else if gs.length < k || (!out && gs.any fun g => ((segState t g).getD {}).cxl) then s.fail 0x18
  else if k = 0 then .ok s
  else if t.timed then moveTimed out k gs s t
  else moveFree out gs s t

/-- RSPILL (R275). -/
def issueRspill (p : Fin 16) (n : Fin 4096) : Issue := whenPred p (moveOp true n.val)
def execRspill (p : Fin 16) (n : Fin 4096) (s : State) : Host.Outcome State Fault Refusal := runSlot (issueRspill p n) s

/-- RFILL (R275). -/
def issueRfill (p : Fin 16) (n : Fin 4096) : Issue := whenPred p (moveOp false n.val)
def execRfill (p : Fin 16) (n : Fin 4096) (s : State) : Host.Outcome State Fault Refusal := runSlot (issueRfill p n) s

/-! ### The residual controller (R272, R274) -/

/-- Bytes of the window that hold no segment's bytes. -/
def freeWindow (t : Task) : Nat :=
  t.res.rw - 4096 * (t.res.segs.filter fun e => e.2.st != .away).length

/-- Free bytes of the window above TOP: what can be pushed before a segment must leave (R270). -/
def freeAbove (t : Task) : Nat :=
  let g := (t.arch.top + 4095) / 4096
  let free (n : Nat) : Bool := (List.range (n + 1)).all fun i => (slotHolder t (g + i)).isNone
  4096 * g - t.arch.top + 4096 * ((List.range (winSlots t)).takeWhile free).length

/-- RESIDENT bytes above the newest AWAY segment, up to TOP. -/
def residentAbove (t : Task) : Nat :=
  match newestAway t with
  | g :: _ => ((t.res.segs.filter fun e => decide (e.1 > g) && e.2.st == .resident).map fun e =>
      Nat.min 4096 (t.arch.top - 4096 * e.1)).sum
  | [] => t.res.rw

/-- The segment the controller would spill (R274). -/
def spillChoice (l : Loc) (t : Task) : Option Nat := (spillable l t).head?

/-- The boundary frame that a stalled BLK.REV reads in place (R270, R273). -/
def waitingRev (s : State) (l : Loc) (t : Task) : Option FrameRec :=
  if t.wait == .stall && ((bundleAt s l t t.fetch.pc).any fun b => b.ops.any fun o => match o.2 with
      | .blkRev p _ => t.arch.pred p
      | _ => false) then
    (t.arch.frames.getLast?).filter fun f => f.kind = 1
  else none

/-- The controller spills: free window bytes run low, or a stalled BLK.REV has no room for its replay (R270, R274). -/
def wantsSpill (s : State) (l : Loc) (t : Task) : Bool :=
  4 * freeWindow t < t.res.rw || (waitingRev s l t).any fun f => freeAbove t < blkFrame (blockEntry s l t f.block) * 64

/-- The controller fills segment g: resident bytes above it run low, or a stalled BLK.REV reads some of its bytes (R270, R273,
R274). -/
def wantsFill (s : State) (l : Loc) (t : Task) (g : Nat) : Bool :=
  4 * residentAbove t < t.res.rw || (waitingRev s l t).any fun f => f.start < 4096 * (g + 1)

/-- The spills that waited for a checkpoint start (R277). -/
def startLater (s : State) (l : Loc) : State :=
  match s.task l with
  | none => s
  | some t =>
    if t.res.later.isEmpty || !t.res.saved.isEmpty then s
    else
      let (f, s1) := s.nextFree
      let start := Nat.max s.now (t.res.moveEnd + 1) + f % 4096
      let gs := t.res.later.filter fun g => (segState t g).any fun x => x.st == .resident
      startMove (s1.modTask l fun t => { t with res := { t.res with later := [] } }) l true start gs

/-- The controller would spill or fill now (R274); it looks after each bundle of free code. -/
def controllerWork (s : State) (l : Loc) : State :=
  let s := startLater s l
  match s.task l with
  | none => s
  | some t =>
    if t.timed || t.res.spillSize = 0 || t.res.moving || t.phase != .running then s
    else
      let (f, s1) := s.nextFree
      if wantsSpill s l t && (spillChoice l t).isSome then
        (s1.modTask l fun t => { t with res := { t.res with moving := true } }).postCore l (s.now + 1 + f % 64) rkArrive .residualControllerSpill
      else
        match newestAway t with
        | g :: _ =>
          if wantsFill s l t g && !slotHeld t g then
            (s1.modTask l fun t => { t with res := { t.res with moving := true } }).postCore l (s.now + 1 + f % 64) rkArrive .residualControllerFill
          else s
        | [] => s

/-- The controller's transfer of one segment: it stops at a missing or forbidding page (R274). -/
def controllerMove (s : State) (l : Loc) (t : Task) (out : Bool) (g : Nat) : State :=
  match spillCause s l t out g with
  | some _ =>
    s.setTask l { (setSeg t g { ((segState t g).getD {}) with bad := true }) with res := { (setSeg t g { ((segState t g).getD {}) with bad := true }).res with moving := false } }
  | none =>
    let (f, s1) := s.nextFree
    startTransfers s1 l out false (s.now + f % 4096) [g]

/-- RESIDUAL_CONTROLLER_SPILL (R274). -/
def execResidualControllerSpill (s : State) : Host.Outcome State Fault Refusal :=
  let l := s.at_
  match s.task l with
  | none => .next s
  | some t =>
    match spillChoice l t with
    | some g => if t.timed then .next (s.modTask l fun t => { t with res := { t.res with moving := false } }) else .next (controllerMove s l t true g)
    | none => .next (s.modTask l fun t => { t with res := { t.res with moving := false } })

/-- RESIDUAL_CONTROLLER_FILL: a segment in the CXL tier asks Ebile for its frame first (R274). -/
def execResidualControllerFill (s : State) : Host.Outcome State Fault Refusal :=
  let l := s.at_
  match s.task l with
  | none => .next s
  | some t =>
    match newestAway t with
    | g :: _ =>
      if t.timed || slotHeld t g then .next (s.modTask l fun t => { t with res := { t.res with moving := false } })
      else if ((segState t g).getD {}).cxl then
        let (f, s1) := s.nextFree
        let fr := ((tierFrame s l t.launch g).map (·.start)).getD 0
        .next ((s1.postUnit (s1.now + 1 + f % 65536) rkArrive (.cxlFrameMove l fr false)).modTask l fun t =>
          { t with res := { t.res with moving := false } })
      else .next (controllerMove s l t false g)
    | [] => .next (s.modTask l fun t => { t with res := { t.res with moving := false } })

/-- SEGMENT_TRANSFER_COMPLETE: OUTBOUND becomes AWAY, INBOUND becomes RESIDENT; fills that waited for the slot start
(R272, R275). -/
def execSegmentTransferComplete (l : Loc) (g : Nat) (s : State) : Host.Outcome State Fault Refusal :=
  match s.task l with
  | none => .next s
  | some t =>
    let done (s : State) : State :=
      let s1 := s.modTask l fun t => { t with res := { t.res with moving := false } }
      match s1.task l with
      | none => s1
      | some t =>
        let ready := t.res.owed.filter fun g => !slotHeld t g && (match segState t g with | some x => x.st == .away | none => false)
        if ready.isEmpty then controllerWork s1 l
        else
          let (f, s2) := s1.nextFree
          startMove (s2.modTask l fun t => { t with res := { t.res with owed := t.res.owed.filter fun g => !ready.contains g } })
            l false (Nat.max s.now (t.res.moveEnd + 1) + f % 4096) ready
    match segState t g with
    | none => .next (done s)
    | some x =>
      match x.st with
      | .outbound => .next (done (s.modTask l fun t => setSeg t g { x with st := .away }))
      | .inbound => .next (done (s.modTask l fun t => setSeg t g { x with st := .resident }))
      | _ => .next (done s)

/-! ### Opening and closing a block (R258, R260, R268) -/

/-- A landing of R258 is still to come after this cycle: a stream's binding and an item's place are none. -/
def landingToCome (s : State) (l : Loc) (t : Task) : Bool :=
  let register : Dest → Bool
    | .bind _ => false | .item _ => false | .none => false | _ => true
  (s.calendar.any fun e =>
    decide (e.due > s.now) && match e.what with
      | .resultLanding k r => k = l && (match r.dest with
        | .tileN _ _ => false | .tileW _ _ => false | d => register d)
      | .accessPerform a => a.src = some l && a.land.any fun r => register r.dest
      | _ => false) ||
  t.mat.queues.any fun q => q.ents.any fun e => decide (e.ready > s.now)

/-- The names of the bits set below n, ascending. -/
def namesOf (mask n : Nat) : List Nat := (List.range n).filter fun i => mask / 2 ^ i % 2 = 1

/-- A recompute block has scalar or predicate boundary inputs, and so an item of them (R268). -/
def scalarInputs (e : Nat) : Bool := blkBix e != 0 || blkBip e != 0

/-- The boundary items of a recompute block: the v registers, then the x registers with the p bits where there are any
(R268). -/
def boundaryItems (a : Arch) (e : Nat) : List Vec :=
  let xs := (namesOf (blkBix e) 32).map fun n => (a.rx n).toNat
  let ps := (namesOf (blkBip e) 16).foldl (fun w n => w + (if a.pred n then 2 ^ n else 0)) 0
  (namesOf (blkBiv e) 64).map a.rv ++ if scalarInputs e then [ofLanes 64 (xs ++ [ps])] else []

/-- A frame header (R260). -/
def frameHeader (n kind rrb : Nat) : Nat := n + kind * 2 ^ 16 + rrb * 2 ^ 24

/-- Pushes the frame's boundary items, whatever the mode. -/
def pushAll (s : State) (t : Task) : List Vec → (State → Task → Res) → Res
  | [], k => k s t
  | v :: r, k => pushItem s t v fun s t => pushAll s t r k

/-- BLK.BEGIN (R258, R260, R268, R269). -/
def issueBlkBegin (p : Fin 16) (n : Fin 4096) : Issue :=
  whenPred p fun s t =>
    let e := blockEntry s s.at_ t n.val
    let replay := t.arch.walk.mode == .replay
    if !blkValid e || blkStart e != t.fetch.pc || t.arch.blk.isSome || landingToCome s s.at_ t then s.fail 0x16
    else if blkRecompute e && t.mat.queues.any (fun q => !(q.ents.drop q.popped).isEmpty) then s.fail 0x16
    else
      let kind := if replay then 2 else if blkRecompute e then 1 else 0
      let a := t.arch
      let t1 := { t with arch := { a with
        blk := some { block := n.val, start := a.top, depth := a.ldepth, opened := t.fetch.pc }
        pack := [], fresh := [], frames := a.frames ++ [{ start := a.top, block := n.val, kind }] } }
      pushBytes (s.setTask s.at_ t1) t1 64 (frameHeader n.val kind a.rrb) fun s t =>
        if kind = 1 then pushAll s t (boundaryItems a e) fun s _ => .ok s else .ok s
def execBlkBegin (p : Fin 16) (n : Fin 4096) (s : State) : Host.Outcome State Fault Refusal := runSlot (issueBlkBegin p n) s

/-- A frame trailer (R260). -/
def frameTrailer (n ec rrb ldepth words items : Nat) : Nat :=
  n % 2 ^ 32 + ec * 2 ^ 32 + rrb * 2 ^ 48 + ldepth * 2 ^ 56 + words % 2 ^ 32 * 2 ^ 64 + items % 2 ^ 32 * 2 ^ 96

/-- BLK.END: the last words and the trailer are pushed, and the block closes (R258, R260). -/
def issueBlkEnd (p : Fin 16) (n : Fin 4096) : Issue :=
  whenPred p fun s t =>
    match t.arch.blk with
    | none => s.fail 0x16
    | some b =>
      let e := blockEntry s s.at_ t b.block
      if b.block != n.val || blkEndIx e != t.fetch.pc || landingToCome s s.at_ t then s.fail 0x16
      else
        flushPack s t fun s t =>
          let last (s : State) (t : Task) (k : State → Task → Res) : Res :=
            if t.arch.pack.isEmpty then k s t
            else pushItem s t (ofLanes 64 (t.arch.pack.map (·.toNat))) k
          last s t fun s t =>
            let fr := (topFrame t).getD default
            pushBytes s t 64 (frameTrailer (b.n + 1) t.arch.ec t.arch.rrb t.arch.ldepth fr.words fr.items) fun s t =>
              .ok (s.setTask s.at_ (t.modArch fun a => { a with blk := none, pack := [] }))
def execBlkEnd (p : Fin 16) (n : Fin 4096) (s : State) : Host.Outcome State Fault Refusal := runSlot (issueBlkEnd p n) s

/-! ### BLK.REV (R264, R270) -/

/-- The walk over the frame on top starts: the trailer is read, and the final scalar item when there is one (R264). -/
def startWalk (s : State) (t : Task) (base : Nat) (k : State → Task → Res) : Res :=
  match topFrame t with
  | none => s.fail 0x18
  | some f =>
    popBytes s t 64 fun tr s t =>
      let n := tr % 2 ^ 32
      let ec := tr / 2 ^ 32 % 2 ^ 16
      let rrb := tr / 2 ^ 48 % 2 ^ 8
      let words := tr / 2 ^ 64 % 2 ^ 32
      let go (u : List Word) (s : State) (t : Task) : Res :=
        let t1 := t.modArch fun a => { a with
          rrb, ec
          walk := { mode := .reverse, block := f.block, pos := n, n, start := true, unpack := u, base } }
        k (s.setTask s.at_ t1) t1
      if words % 64 != 0 then
        popItem s t fun v s t => go (((lanes 64 64 v).take (words % 64)).map (BitVec.ofNat 64)) s t
      else go [] s t

/-- A frame's vector item at a place counted from its header. -/
def frameItem (s : State) (t : Task) (start i : Nat) : Vec :=
  BitVec.ofNat 4096 (winRead (s.die s.at_.die).scratch s.at_ t (start + 64 + 512 * i) 8)

/-- The boundary inputs land in their registers at r + 6, and RRB is the header's (R270). -/
def landBoundary (s : State) (t : Task) (f : FrameRec) (e : Nat) : State :=
  let rrb := winRead (s.die s.at_.die).scratch s.at_ t f.start 1 / 2 ^ 24 % 2 ^ 8
  let t1 := t.modArch fun a => { a with rrb }
  let s1 := s.setTask s.at_ t1
  let vs := namesOf (blkBiv e) 64
  let s2 := (vs.mapIdx fun i n => (i, n)).foldl (fun (st : State) x =>
    st.emitV t1 6 x.2 (frameItem s t f.start x.1) (BitVec.allOnes 512) []) s1
  let sc := frameItem s t f.start vs.length
  let xs := namesOf (blkBix e) 32
  let s3 := (xs.mapIdx fun i n => (i, n)).foldl (fun (st : State) x =>
    st.emitX t1 6 x.2 (BitVec.ofNat 64 (lane 64 sc x.1))) s2
  (namesOf (blkBip e) 16).foldl (fun (st : State) n => st.emitP t1 6 n ((lane 64 sc xs.length) / 2 ^ n % 2 = 1)) s3

/-- The vectors a boundary frame holds for the block's PRECVs, in forward order. -/
def boundaryRecvs (s : State) (t : Task) (f : FrameRec) (e : Nat) : List Vec :=
  let first := (namesOf (blkBiv e) 64).length + bit (scalarInputs e)
  let n := (t.arch.top - f.start - 128) / 512
  (List.range (n - first)).map fun i => frameItem s t f.start (first + i)

/-- BLK.REV (R264, R267, R270). -/
def issueBlkRev (p : Fin 16) (n : Fin 4096) : Issue :=
  whenPred p fun s t =>
    let l := s.at_
    if t.arch.blk.isSome then s.fail 0x16
    else
      match topFrame t with
      | none => s.fail 0x18
      | some f =>
        if f.block != n.val || !(f.kind = 0 || f.kind = 1) then s.fail 0x18
        else if f.kind = 0 then
          startWalk s t f.start fun s _ =>
            .ok ((s.modTask l fun t => { t with wait := .walk }).postCore l (s.now + 1) rkWalk .reversePosition)
        else
          let e := blockEntry s l t n.val
          match readCheck s t f.start (t.arch.top - f.start) with
          | some r => r
          | none =>
            if freeAbove t < blkFrame e * 64 then
              if t.timed || t.res.spillSize = 0 || ((spillChoice l t).isNone && !(t.res.segs.any fun x => x.2.st == .outbound)) then s.fail 0x19
              else .stall .stall
            else
              let s1 := landBoundary s t f e
              let s2 := s1.modTask l fun t => { t.modArch (fun a => { a with
                walk := { mode := .replay, block := n.val, recvs := boundaryRecvs s t f e, base := a.top } }) with wait := .walk }
              .ok (s2.postCore l (s.now + 6) rkIssue .replayPosition)
def execBlkRev (p : Fin 16) (n : Fin 4096) (s : State) : Host.Outcome State Fault Refusal := runSlot (issueBlkRev p n) s

/-! ### One reversed position (R265) -/

/-- The lanes that were enabled forward, by the mask file of the position's issue (R123, R145, R193). -/
def revEnable (masks : Map Mask) (i : Instr) (mk : Fin 8) : List Bool :=
  let m := ({ m := masks } : Arch).rm mk.val
  match i with
  | .vcvt _ _ _ _ g _ => (List.range 128).map fun j =>
      let w := fwidth g
      (m.toNat >>> (j * w / 8)) % 2 ^ (Nat.max (w / 8) 1) != 0
  | _ => enabled 4 128 m

/-- The destination number a delivery's sample was taken for: its first destination. -/
def mainSample (t : Task) (ipos slot : Nat) : List Nat := lanes 32 128 (sampleOf t ipos slot 0)

/-- What is left of an operation for the end of its position's deliveries: an RPUSH writes its item back, a PSEND accumulates
the vector it took (R263, R281). -/
inductive LateDelivery where
  | none
  | restore (g : Bool) (phys : Nat) (v : Vec)
  | gradient (bundle slot : Nat) (vr : Fin 64) (v : Vec)
deriving DecidableEq, Repr, Inhabited

def deliverLate (d : LateDelivery) (s : State) (t : Task) (k : State → Task → Res) : Res :=
  match d with
  | .none => k s t
  | .restore g ph v =>
    let t1 := t.modArch fun a => if g then { a with g := mset a.g ph v } else { a with v := mset a.v ph v }
    k (s.setTask s.at_ t1) t1
  | .gradient bundle slot vr v =>
    contribute bundle slot (.v vr) ((lanes 32 128 v).mapIdx fun j x => (j, f32v x, 0)) s t fun s t => flushRev s t bundle slot k

/-- The delivery of one operation issued at the position (R148, R263, R281). -/
def deliverOp (pos : Nat) (p : PosRec) (sl : Slot) (i : Instr) (s : State) (t : Task) (k0 : LateDelivery → State → Task → Res) : Res :=
  let l := s.at_
  let bundle := p.bundle
  let k := k0 .none
  let tl := mainSample t pos sl.code
  if i.isNop || (encXB i).isSome || !t.arch.pred (predOf i) then k s t
  else
    let s := { s with slot := sl }
    match i with
    | .rpush _ va g =>
      popItem s t fun v s t =>
        k0 (.restore g (t.arch.phys va.val) v) s t
    | .psend _ ch vr _ _ =>
      match chanUse s l t ch.val with
      | none => s.fail 0x1C
      | some e =>
        let back := pairBack e
        match chanUse s l t back with
        | none => s.fail 0x1C
        | some e2 =>
          match takeVector s l t.launch back (pairPeer e2) with
          | none => if t.timed then s.fail 0x1D else .stall .walk
          | some (v, s1) =>
            let s2 := s1.modChan l.die t.launch back fun c => { c with user := some t.ident }
            k0 (.gradient bundle sl.code vr v) s2 t
    | .precv _ ch _ _ =>
      match chanUse s l t ch.val with
      | none => s.fail 0x1C
      | some e =>
        let back := pairBack e
        match chanUse s l t back with
        | none => s.fail 0x1C
        | some e2 =>
          let waiting := (t.psends.filter fun c => match c.body with | .pair v => v.chan = back | _ => false).length
          if (s.chan l.die t.launch back).sent + waiting ≥ 8 then (if t.timed then s.fail 0x1C else .stall .walk)
          else
            let s1 := s.modChan l.die t.launch back fun c => { c with user := some t.ident }
            let v := ofLanes 32 tl
            if t.timed then
              match sendPair s1 l t back e2 v 0 with
              | .ok s2 => match s2.task l with | some t2 => k s2 t2 | none => .ok s2
              | .error c => s.fail c
            else
              let m : Counted := { at_ := l.die, dst := pairPeer e2, src := l.die, launch := t.launch, asid := t.ctl.asid
                                   body := .pair { dst := pairPeer e2, launch := t.launch, chan := back, val := v, src := l.die } }
              let t1 := { t with psends := t.psends ++ [m] }
              k (s1.setTask l t1) t1
    | _ =>
      if (encVSlot i).isSome then vAdjoint bundle sl.code i tl (revEnable p.masks i) s t k
      else if (encM i).isSome then mAdjoint bundle sl.code p.float i tl s t k
      else if (encLS i).isSome then lsAdjoint bundle sl.code i tl (revEnable p.masks i) s t k
      else k s t

/-- The deliveries of the position, in descending slot position (R148); what an operation leaves for their end follows
them, the RP slot's last (R263, R281). -/
def deliverAll (pos : Nat) (p : PosRec) : List (Slot × Instr) → (State → Task → Res) → State → Task → Res
  | [], k, s, t => k s t
  | (sl, i) :: r, k, s, t => deliverOp pos p sl i s t fun d s t =>
      flushRev s t p.bundle sl.code fun s t => deliverAll pos p r (fun s t => deliverLate d s t k) s t

/-- The lanes a landing's sample takes: whole 32-bit lanes that it wrote, of a 16-bit or 8-bit operation those with some byte
written (R143; DEDUCED, log entry 89). -/
def sampleMask (i : Option Instr) (en : Mask) : Mask :=
  match i with
  | some (.vcvt _ _ _ _ g _) =>
    let w := fwidth g
    laneMask ((List.range 128).map fun j => (en.toNat >>> (j * w / 8)) % 2 ^ (Nat.max (w / 8) 1) != 0)
  | some (.viadd _ w _ _ _) | some (.visub _ w _ _ _) | some (.vimul _ w _ _ _) | some (.vimad _ w _ _ _ _)
  | some (.vimin _ w _ _ _ _) | some (.vimax _ w _ _ _ _) | some (.vshl _ w _ _ _) | some (.vshr _ w _ _ _)
  | some (.vsar _ w _ _ _) | some (.vsplat _ w _ _ _) | some (.viota _ w _) | some (.vperm _ w _ _ _)
  | some (.vrot _ w _ _ _) =>
    if w = .w32 then laneMask (enabled 4 128 en)
    else laneMask ((List.range 128).map fun j => bits en.toNat (4 * j + 3) (4 * j) != 0)
  | _ => laneMask (enabled 4 128 en)

def addSample (t : Task) (r : LandRec) (dst : Nat) (v : Vec) : Task :=
  t.modArch fun a => a.modWalk fun w => { w with samples := (r.ipos, r.slot, dst, v) :: w.samples }

/-- The latency of the write that clears a pushed vector's gradient: a load's own (R193), else that of a push (R246). -/
def pushLat : Option Instr → Nat
  | some (.ldv _ _ _ _ _) | some (.ldb _ _ _ _ _) => 6
  | some (.ldvs _ _ _ _ _ _ _) => 8
  | _ => 2

/-- The sample of one landing (R143, R146, R168, R193, R246). -/
def sampleOne (posOf : Nat → PosRec) (r : LandRec) (s : State) (t : Task) (k : State → Task → Res) : Res :=
  let l := s.at_
  let op := opAt s l t (posOf r.ipos).bundle r.slot
  match r.dest with
  | .v ph =>
    if r.lost then k s t
    else
      let m := sampleMask op r.en
      let g := rd t.arch.g ph
      let keep := spread m
      let t1 := addSample (t.modArch fun a => { a with g := mset a.g ph (g &&& ~~~keep) }) r 0 (g &&& keep)
      k (s.setTask l t1) t1
  | .acc row =>
    let zero (t : Task) : Task := { t with mat := { t.mat with acc := mset t.mat.acc row 0 } }
    let t0 := saveRow t row
    let set_ : Bool := match op with
      | some (.mbeat _ _ b _ _) => b | some (.mbeatt _ _ b _ _) => b | some (.mbeat2 _ _ b _ _) => b | _ => true
    let flt : Bool := match op with
      | some (.mbeat ..) => (posOf r.ipos).float | some (.mbeatt ..) => (posOf r.ipos).float | _ => false
    let t1 := if flt then addSample t0 r 0 (rd t0.mat.acc row) else t0
    let t2 := if set_ then zero t1 else t1
    k (s.setTask l t2) t2
  | .push z _ =>
    let st := t.arch.strm z
    if st.k = 0 then s.fail 0x0E
    else
      let t1 := t.modStrm z fun x => { x with k := x.k - 1 }
      let all := List.replicate 128 true
      let sh : Shape := { base := gAddr t1 (st.addr (st.k - 1)) }
      adjRead sh all (s.setTask l t1) t1 fun v s t =>
        walkStore (posOf r.ipos).bundle r.slot s (addSample t r 0 (v &&& spread (sampleMask op r.en)))
          { die := l.die, op := .write, shape := sh, data := 0, en := laneMask all, lat := pushLat op } k
  | _ => k s t

def sampleAll (posOf : Nat → PosRec) : List LandRec → (State → Task → Res) → State → Task → Res
  | [], k, s, t => k s t
  | r :: rs, k, s, t => sampleOne posOf r s t fun s t => sampleAll posOf rs k s t

/-- MDRN's adjoint at the position after its issue: the oldest entry joins its row, or is discarded (R168). -/
def drainAdjoint (posOf : Nat → PosRec) (r : LandRec) (s : State) (t : Task) (k : State → Task → Res) : Res :=
  match r.dest with
  | .drain q _ row f _ =>
    popQueue { s with slot := .m } t q fun v s t =>
      if isFloat f then
        let t0 := saveRow t row
        let x := List.zipWith accF32 (lanes 32 128 (rd t0.mat.acc row)) (lanes 32 128 v)
        let t1 := revEvents s { t0 with mat := { t0.mat with acc := mset t0.mat.acc row (ofLanes 32 (x.map (·.1))) } }
          (posOf r.ipos).bundle r.slot (x.map (·.2))
        k (s.setTask s.at_ t1) t1
      else k s t
  | _ => k s t

def drainAll (posOf : Nat → PosRec) : List LandRec → (State → Task → Res) → State → Task → Res
  | [], k, s, t => k s t
  | r :: rs, k, s, t => drainAdjoint posOf r s t fun s t => drainAll posOf rs k s t

/-- A scalar source as an operation of the position before read it: a loop index as it stood before that position's close, 0
of a level that its own bundle opened (R96, R119). -/
def srcAt (a : Arch) (p : PosRec) : SSrc → Word
  | .x n => a.rx n.val
  | .li n =>
    if p.opened = some n.val then 0
    else
      match p.closed with
      | some c => if c.lv = n.val then c.level.idx else a.li n.val
      | none => a.li n.val

/-- The inverse of an invertible write (R119, R265). -/
def invertWrite (a : Arch) (p : PosRec) (i : Option Instr) (d : Nat) : Word :=
  let v := a.rx d
  match i with
  | some (.addi _ _ _ imm) => v - imm.signExtend 64
  | some (.xori _ _ _ imm) => v ^^^ imm.signExtend 64
  | some (.add _ _ _ b) => v - srcAt a p b
  | some (.sub _ _ _ b) => v + srcAt a p b
  | some (.xor _ _ _ b) => v ^^^ srcAt a p b
  | some (.ldv _ _ _ off _) => v - off.signExtend 64 * 64
  | some (.stv _ _ _ off _) => v - off.signExtend 64 * 64
  | some (.ldb _ _ _ off _) => v - off.signExtend 64 * 4
  | some (.ldg _ _ _ off _) => v - off.signExtend 64 * 64
  | some (.stg _ _ _ off _) => v - off.signExtend 64 * 64
  | some (.qst _ _ _ off _) => v - off.signExtend 64 * 64
  | some (.ldvs _ _ _ _ _ off _) => v - off.signExtend 64 * 64
  | some (.stvs _ _ _ _ _ off _) => v - off.signExtend 64 * 64
  | _ => v

/-- The restore of one scalar write that landed at the position (R265). -/
def restoreOne (posOf : Nat → PosRec) (r : LandRec) (s : State) (t : Task) (k : State → Task → Res) : Res :=
  let l := s.at_
  let put (w : Word) (s : State) (t : Task) : Res :=
    let t1 : Task := match r.dest with
      | .x n => t.modArch fun a => { a with x := mset a.x n w }
      | .p n => t.modArch fun a => { a with p := setPred a.p n (w.toNat % 2 = 1) }
      | .stage b => t.modArch fun a => { a with p := setPred a.p (8 + b) (w.toNat % 2 = 1) }
      | .creg n => writeCreg t n w.toNat
      | _ => t
    k (s.setTask l t1) t1
  match r.dest with
  | .x n =>
    let p := posOf r.ipos
    if r.pushed then popWord s t put
    else if r.lost then k s t
    else put (invertWrite t.arch p (opAt s l t p.bundle r.slot) n) s t
  | .p _ | .stage _ | .creg _ => popWord s t put
  | _ => k s t

def restoreAll (posOf : Nat → PosRec) : List LandRec → (State → Task → Res) → State → Task → Res
  | [], k, s, t => k s t
  | r :: rs, k, s, t => restoreOne posOf r s t fun s t => restoreAll posOf rs k s t

/-- The undoing of a position's close: the trip words reopen a level that ended, the stage word returns to p15, the index,
RRB and EC step back (R265 steps 1 and 5). It stands before the deliveries, so that these read the names and predicates that
their forward issue saw, as R143 and the end of R265 say (DEDUCED, log entry 32). -/
def undoClose (c : CloseRec) (s : State) (t : Task) (k : State → Task → Res) : Res :=
  let l := s.at_
  let reopen (idx : Word) (ec0 : Nat) (s : State) (t : Task) : Res :=
    let t1 := t.modArch fun a =>
      let a1 := { a with levels := a.levels.set c.lv { c.level with idx }, ldepth := c.lv + 1 }
      (a1.modWalk fun w => { w with rev := { lv := c.lv, ecOpen := ec0, idxOpen := idx } :: w.rev }).derive
    k (s.setTask l t1) t1
  if c.final then
    popWord s t fun w s t => popWord s t fun idx0 s t =>
      reopen (if c.level.null then idx0 else idx0 + BitVec.ofNat 64 (c.passes - 1) * c.level.str) (w.toNat / 2 ^ 32 % 2 ^ 16) s t
  else
    let back (w : Word) (s : State) (t : Task) : Res :=
      let t1 := t.modArch fun a =>
        let st := a.p.toNat / 256
        let a1 := if c.advance then
            { a with p := BitVec.ofNat 16 (a.p.toNat % 256 + 256 * (st / 2 + w.toNat % 2 * 128)), rrb := (a.rrb + 255) % 256 }
          else a
        let lev := nth {} a1.levels c.lv
        ({ a1 with levels := a1.levels.set c.lv { c.level with idx := lev.idx - c.level.str }
                   ec := if c.epilogue then (a1.ec + 1) % 2 ^ 16 else a1.ec } : Arch).derive
      k (s.setTask l t1) t1
    if c.advance then popWord s t back else back 0 s t

/-- Landings in descending slot position, and of one slot the later first. -/
def descLands (l : List LandRec) : List LandRec :=
  (List.range 9).reverse.flatMap fun sl => (l.filter fun r => r.slot = sl).reverse

/-- The undoing of the LOOP or LOOPI of a position: the level closes in reverse, with EC as at its open (R265 step 6). It
stands before the deliveries, as undoClose does. -/
def undoOpen (lv : Nat) (s : State) (t : Task) (k : State → Task → Res) : Res :=
  let t1 := t.modArch fun a =>
    let ec := ((a.walk.rev.find? fun x => x.lv = lv).map (·.ecOpen)).getD a.ec
    ({ a with ec, ldepth := lv, walk := { a.walk with rev := a.walk.rev.filter fun x => x.lv != lv } } : Arch).derive
  k (s.setTask s.at_ t1) t1

/-- One reversed position, whole (R148, R265). -/
def reversePos (f : FrameRec) (p : Nat) (k : State → Task → Res) (s : State) (t : Task) : Res :=
  let l := s.at_
  let rec_ := nth { bundle := 0 } f.pos p
  let posOf (i : Nat) : PosRec := nth { bundle := 0 } f.pos i
  let ops := if rec_.null then [] else (((bundleAt s l t rec_.bundle).map (·.ops)).getD []).reverse
  let lands := descLands (f.lands.filter fun r => r.pos = p)
  let body : State → Task → Res :=
    deliverAll p rec_ ops (drainAll posOf lands (sampleAll posOf lands (restoreAll posOf lands k)))
  let open_ (s : State) (t : Task) : Res :=
    match rec_.opened with
    | none => body s t
    | some lv => undoOpen lv s t body
  match rec_.closed with
  | none => open_ s t
  | some c => undoClose c s t open_

/-- The registers that BLK.REV clears, named under the trailer's RRB (R264). -/
def clearGrads (a : Arch) (mask : Nat) : Arch :=
  (namesOf mask 64).foldl (fun a n => { a with g := mset a.g (a.phys n) 0 }) a

/-- The end of a walk: TOP falls to the frame's start, a recompute block's boundary frame goes with it (R266, R270). -/
def endWalk (s : State) (l : Loc) (t : Task) (f : FrameRec) : State :=
  let two := f.kind = 2
  let start := if two then ((t.arch.frames.dropLast.getLast?).map (·.start)).getD f.start else f.start
  let t1 := t.modArch fun a => { a with
    top := start, frames := if two then a.frames.dropLast.dropLast else a.frames.dropLast, walk := {} }
  let t2 := { t1 with wait := .none, res := { t1.res with segs := liveSegs (heldTop t1) t1.res.segs } }
  let s1 := (List.range 8).foldl (fun (st : State) z =>
    let x := nth {} t.arch.strms z
    if x.valid && !x.write then
      (st.modTask l fun t => t.modUnit z fun u => { restartUnit x.k u with busy := true, from_ := 0 }).postUnit (s.now + 1) rkDrain (.streamFetch l (Fin.ofNat 8 z))
    else st) (s.setTask l t2)
  (controllerWork s1 l).postIssue (s.now + 1) l

/-- A cycle of a reversed position is frozen: its forward slot weights, which count in each of its two cycles, do not fit in
the window (R169, R170, R264). -/
def walkFrozen (s : State) (t : Task) (w : Nat) : Bool :=
  decide (w + ((t.weights.filter fun x => x.1 + 64 > s.now).map (·.2)).sum > t.ctl.curlim)

/-- The cycle's weights enter the window. -/
def countWalk (now : Nat) (t : Task) (w : Nat) : Task :=
  { t with weights := (t.weights.filter fun x => x.1 + 64 > now) ++ [(now, w)] }

/-- A freeze cycle delays the walk; in a region it is the current-limit fault (R170). -/
def freezeWalk (s : State) (l : Loc) (timed : Bool) (bundle : Nat) : State :=
  if timed then takeFault s l { code := 0x17, slot := 9, rev := true, bundle := some bundle }
  else
    let s1 := s.modTask l fun t => { t with ctl := { t.ctl with frzcnt := (t.ctl.frzcnt + 1) % 2 ^ 64 } }
    (delayCore (controllerWork s1 l) l).postCore l (s.now + 1) rkWalk .reversePosition

/-- The walk may stop here: a stop is asked for and the position's forward bundle has EQ (R267). -/
def walkStops (t : Task) (b : Option Bundled) : Bool :=
  t.stop != .none && ((b.map fun x => x.hdr.eq).getD false)

/-- REVERSE_POSITION: the clear of the gradient registers, or one cycle of a reversed position (R264 to R267). A fault
names the forward bundle; a stall delays the rest of the walk. -/
def execReversePosition (s : State) : Host.Outcome State Fault Refusal :=
  let l := s.at_
  match s.task l with
  | none => .next s
  | some t =>
    let w := t.arch.walk
    if w.mode != .reverse || t.phase != .running then .next s
    else
      match topFrame t with
      | none => .next (takeFault s l { code := 0x18, slot := 8, rev := true })
      | some f =>
        if w.start then
          let t1 := t.modArch fun a => (clearGrads a (blkGclr (blockEntry s l t w.block))).modWalk fun x => { x with start := false }
          .next ((s.setTask l t1).postCore l (if f.kind = 2 then s.now else s.now + 1) rkWalk .reversePosition)
        else if walkFrozen s t (nth { bundle := 0 } f.pos (w.pos - 1)).weight then
          .next (freezeWalk s l t.timed (nth { bundle := 0 } f.pos (w.pos - 1)).bundle)
        else if !w.second then
          let p := w.pos - 1
          match reversePos f p (fun s _ => .ok s) s t with
          | .ok s1 =>
            .next ((s1.modTask l fun t => (countWalk s.now t (nth { bundle := 0 } f.pos p).weight).modArch fun a => a.modWalk fun x => { x with second := true }).postCore l (s.now + 1) rkWalk .reversePosition)
          | .fault q => .next (takeFault s l { q with rev := true, bundle := some (nth { bundle := 0 } f.pos p).bundle })
          | .stall _ => .next ((delayCore (controllerWork s l) l).postCore l (s.now + 1) rkWalk .reversePosition)
        else
          let p := w.pos - 1
          let b := bundleAt s l t (nth { bundle := 0 } f.pos p).bundle
          let t1 := t.modArch fun a => a.modWalk fun x => { x with second := false, pos := p }
          let t1 := countWalk s.now t1 (nth { bundle := 0 } f.pos p).weight
          let s1 := s.setTask l t1
          let ck := !t.timed && (b.map fun x => x.hdr.ck).getD false
          if p = 0 then
            let s2 := endWalk s1 l t1 f
            let s3 := if ck then checkpoint s2 l else s2
            if walkStops t b then .next (s3.postCore l s.now rkCount .taskStop) else .next s3
          else
            let s2 := if ck then checkpoint s1 l else s1
            if walkStops t b then .next (s2.postCore l s.now rkCount .taskStop)
            else .next ((controllerWork s2 l).postCore l (s.now + 1) rkWalk .reversePosition)

end Sys2Proof.Machine
end

