-- ==== Sys2Proof/Machine/Commands.lean ====
section
/-! DEFINITION. Completion counters (R395 to R398), the commands of the Mules and of the bulk sequencer (R207 to R216),
publication (R227, R228), fences (R235 to R237), and TTGO (R344). -/

namespace Sys2Proof.Machine

/-! ### Counters (R395, R396) -/

/-- The counter is allocated to the context (R395). -/
def counterOk (s : State) (die asid cc : Nat) : Bool :=
  match mget (s.die die).counters cc with
  | some c => c.asid = asid
  | none => false

def counterVal (s : State) (die cc : Nat) : Nat := ((mget (s.die die).counters cc).map (·.val)).getD 0

/-- A queued launch of the die waits on the counter (R286). -/
def waitedOn (s : State) (die cc : Nat) : Bool :=
  s.launches.any fun x => x.2.phase = .queued && x.2.die = die && x.2.desc.waits.any fun w => w.1 = cc

/-- An increment applies; a counter stops at its highest value (R395). A launch that waits on it makes the scheduler look
(R288). -/
def incr (s : State) (die cc n : Nat) : State :=
  let s1 := s.modDie die fun d =>
    match mget d.counters cc with
    | some c => { d with counters := mset d.counters cc { c with val := Nat.min (c.val + n) (2 ^ 32 - 1) } }
    | none => d
  if waitedOn s die cc then s1.postDie die (s1.now + 1) rkCount .placementPass else s1

/-- CINC_APPLY (R398). -/
def execCincApply (die : Nat) (cc : Nat) (n : Nat) (s : State) : Host.Outcome State Fault Refusal := .next (incr s die cc n)

/-- CINC: in free code after the scratchpad stores that its checkpoint releases (R398); none in a replay (R270). -/
def issueCinc (p : Fin 16) (cc : Fin 256) (imm : BitVec 16) : Issue :=
  whenPred p fun s t =>
    let l := s.at_
    if t.arch.walk.mode == .replay then .ok s
    else if !counterOk s l.die t.ctl.asid cc.val then s.fail 0x22
    else
      let due := if t.timed then s.now + 4 else Nat.max (s.now + 4) (releaseBound s l t)
      .ok (s.postAt l due rkCount s.seq none (.cincApply l.die cc.val imm.toNat))
def execCinc (p : Fin 16) (cc : Fin 256) (imm : BitVec 16) (s : State) : Host.Outcome State Fault Refusal :=
  runSlot (issueCinc p cc imm) s

/-- CWAIT: satisfied, the bundle issues; else free code waits and a region faults (R397); none in a replay (R270). -/
def issueCwait (p : Fin 16) (cc : Fin 256) (xv : Fin 32) : Issue :=
  whenPred p fun s t =>
    let l := s.at_
    if t.arch.walk.mode == .replay then .ok s
    else if !counterOk s l.die t.ctl.asid cc.val then s.fail 0x22
    else if counterVal s l.die cc.val ≥ (t.arch.rx xv.val).toNat % 2 ^ 32 then .ok s
    else if t.timed then s.fail 0x09
    else .stall .cwait
def execCwait (p : Fin 16) (cc : Fin 256) (xv : Fin 32) (s : State) : Host.Outcome State Fault Refusal :=
  runSlot (issueCwait p cc xv) s

/-! ### Commands and their counters (R208, R209) -/

def State.cmd (s : State) (die id : Nat) : Option Cmd := mget (s.die die).cmds id
def State.modCmd (s : State) (die id : Nat) (f : Cmd → Cmd) : State :=
  s.modDie die fun d =>
    match mget d.cmds id with
    | some c => { d with cmds := mset d.cmds id (f c) }
    | none => d
def State.dropCmd (s : State) (die id : Nat) : State :=
  s.modDie die fun d => { d with cmds := mdel d.cmds id, oxq := d.oxq.filter fun x => x != id }

/-- A new command of the die. -/
def State.addCmd (s : State) (die : Nat) (c : Cmd) : Nat × State :=
  let id := (s.die die).nextCmd
  (id, s.modDie die fun d => { d with cmds := mset d.cmds id c, nextCmd := id + 1 })

/-- An earlier command of the same task and counter has not incremented yet (R209). -/
def earlierCmd (d : Die) (id : Nat) (c : Cmd) : Bool :=
  d.cmds.any fun e => e.1 < id && e.2.loc = c.loc && e.2.launch = c.launch && e.2.team = c.team && e.2.cc = c.cc

/-- Finished commands increment in issue order (R209). -/
def settleCmds (s : State) (die : Nat) : State :=
  (s.die die).cmds.foldl (fun st e =>
    if e.2.done && !earlierCmd (st.die die) e.1 e.2 then (incr st die e.2.cc 1).dropCmd die e.1 else st) s

/-- A command has finished. -/
def finishCmd (s : State) (die id : Nat) : State := settleCmds (s.modCmd die id fun c => { c with done := true }) die

/-- ZERO_COUNT_COMPLETION (R208). -/
def execZeroCountCompletion (die : Nat) (id : Nat) (s : State) : Host.Outcome State Fault Refusal := .next (finishCmd s die id)

/-- The command of the task in issue. -/
def newCmd (s : State) (t : Task) (k : CmdKind) (h : FeHdr) (cc : Nat) : Cmd :=
  { kind := k, loc := s.at_, launch := t.launch, team := t.team, asid := t.ctl.asid, bundle := t.fetch.pc, timed := t.timed, cc
    n := (t.arch.rx h.xc.val).toNat, guard := t.arch.rx h.xg.val, xa := (t.arch.rx h.xa.val).toNat, issued := s.now
    dlt := t.ctl.dlt, time := s.gcc s.at_ t % 2 ^ 24 }

/-- The group cycle of a command's task, whether or not the task is still there (R6). -/
def cmdGcc (s : State) (c : Cmd) : Nat := wrap64 (s.now + (s.die c.loc.die).lcc + c.dlt)

/-- The events of a command go to the queue of its issuing core, each kind once, with TIME of the issue (R87, R88, R248). -/
def cmdEvents (s : State) (c : Cmd) (evs : List Evs) : State :=
  s.modTask c.loc fun t =>
    if t.launch = c.launch && t.team = c.team then t.events s.now Slot.fb.code false c.timed c.bundle c.time (elemEvents evs) else t

/-- A zero-count command: only its counter's increment, 2 cycles after issue (R208). -/
def zeroCmd (s : State) (c : Cmd) : Res :=
  let (id, s1) := s.addCmd s.at_.die { c with acc := true }
  .ok (s1.postUnit (s.now + 2) rkCount (.zeroCountCompletion s.at_.die id))

/-- A command of free code waits for its acceptance (R207). -/
def awaitCmd (s : State) (c : Cmd) : Res :=
  let l := s.at_
  let (_, s1) := s.addCmd l.die c
  let (f, s2) := s1.nextFree
  .ok ((s2.modTask l fun t => { t with wait := .accept }).postCore l (s.now + 1 + f % 65536) rkIssue .commandAcceptance)

/-- Bytes of the scratchpad as a unit reads them in this cycle through the shadow map (R222, R326). -/
def readScratch (s : State) (die asid a n : Nat) : Nat :=
  let sh : Shape := { base := a, stride := 1, w := 1, n }
  readElems (scratchNow s.now (s.die die)) sh
    (resolved s { die, op := .read, shape := sh, en := BitVec.ofNat 512 (2 ^ n - 1), asid })

/-- A scratch range an engine may touch: lines of the context, no residual window (R211). -/
def engineRange (d : Die) (asid a n : Nat) : Bool :=
  a + n ≤ 2 ^ 29 && (linesOf a n).all fun x => saLegal d x && mget d.tags (x / 64) = some asid && !inResidual d x

/-- The descriptor of a command, with its guard (R208). -/
def cmdDesc (s : State) (c : Cmd) : Except Nat (BitVec 512) :=
  if !engineRange (s.die c.loc.die) c.asid c.xa 64 then .error 0x0B
  else
    let d : BitVec 512 := BitVec.ofNat 512 (readScratch s c.loc.die c.asid c.xa 64)
    if dfield d 56 8 = c.guard.toNat then .ok d else .error 0x1E

def cmdFault (c : Cmd) (code : Nat) : FaultReq := { code, slot := Slot.fb.code, bundle := some c.bundle }
def cmdXlate (c : Cmd) (x : Nat × Nat) : FaultReq :=
  { code := 0x20, slot := Slot.fb.code, bundle := some c.bundle, va := some x.1, cause := x.2 }

/-- A page that the command names is held by a migrate command: its acceptance waits (R320). -/
def cmdHeld (s : State) (c : Cmd) : Bool := c.pages.any fun x => held s c.loc.die c.asid x.1 x.2

/-! ### MCPY (R207, R210, R211) -/

/-- MCPY: illegal in a region; its counter is checked at issue whatever its count (R208, R211). -/
def issueMcpy (h : FeHdr) : Issue :=
  whenPred h.pr fun s t =>
    let c := newCmd s t .mcpy h h.cc.val
    if t.timed then s.fail 0x06
    else if !counterOk s s.at_.die t.ctl.asid h.cc.val then s.fail 0x22
    else if c.n = 0 then zeroCmd s c
    else awaitCmd s c
def execMcpy (h : FeHdr) (s : State) : Host.Outcome State Fault Refusal := runSlot (issueMcpy h) s

/-- A handle that a Mule may read, by its index (R324). -/
def handleAt (s : State) (die asid ix : Nat) : Option (BitVec 512) :=
  match (s.ctx die asid).bind fun c => mget c.handles ix with
  | some h => if hValid h && !hDropped h then some h else none
  | none => none

/-- The linear index of the tile at packed coordinates within the grid (R200, R210). -/
def coordTile (h : BitVec 512) (w : Nat) : Option Nat :=
  let tx := bits w 15 0
  let ty := bits w 31 16
  let i2 := bits w 47 32
  let i3 := bits w 63 48
  if tx < hNx h && ty < hNy h && i2 < hDim h 2 && i3 < hDim h 3 then some (tileIndex h tx ty i2 i3) else none

/-- The handle of a side, for kind 1. -/
def sideHandle (s : State) (c : Cmd) (kind a : Nat) : Option (BitVec 512) :=
  if kind = 1 && a < 4096 then handleAt s c.loc.die c.asid a else none

/-- One side of an MCPY: its first address, and for a handle the handle with the byte offset of its first tile (R211). -/
def mcpySide (h : Option (BitVec 512)) (kind a coord n : Nat) : Option (Nat × Option (BitVec 512 × Nat)) :=
  if kind = 1 then
    match h with
    | some h =>
      match coordTile h coord with
      | some t => if t + n ≤ hTiles h then some (hBase h + t * tileBytes h, some (h, t * tileBytes h)) else none
      | none => none
    | none => none
  else if coord != 0 || a % 64 != 0 || (kind = 2 && a ≥ 2 ^ 52) then none
  else some (a, none)

/-- The entry of the context's shadow map, when it is valid. -/
def shadowEntry (s : State) (die asid n : Nat) : Option (BitVec 256) :=
  match mget (shadowsOf s die asid) n with
  | some e => if shValid e then some e else none
  | none => none

/-- Both names of a destination range translate for a write (R207, R326). -/
def shadowCause (s : State) (die asid : Nat) (e : BitVec 256) (sh n : Nat) : Option (Nat × Nat) :=
  match rangeCause s die asid sh n false true with
  | some x => some x
  | none => rangeCause s die asid (sh - shS e + shV e) n false true

/-- The checks of an MCPY at acceptance, and the command with its addresses (R207, R210, R211, R219). -/
def mcpyCheck (s : State) (c : Cmd) (d : BitVec 512) : Except FaultReq Cmd :=
  let die := c.loc.die
  let ctl := dfield d 0 4
  let sk := ctl % 4
  let dk := ctl / 4 % 4
  let bad : Except FaultReq Cmd := .error (cmdFault c 0x1F)
  let hs := sideHandle s c sk (dfield d 24 8)
  let hd := sideHandle s c dk (dfield d 40 8)
  let unit_ := match hs, hd with
    | some h, _ => tileBytes h
    | none, some h => tileBytes h
    | none, none => 64
  let same := match hs, hd with
    | some a, some b => hFmt a == hFmt b && hClass a == hClass b && tileBytes a == tileBytes b
    | _, _ => true
  let n := c.n * unit_
  if ctl ≥ 16 || sk = 3 || dk = 3 || dfield d 4 8 != 0 || dfield d 12 4 ≥ 4096 || dfield d 16 8 != 0 || c.n > 2 ^ 24 ||
      !same || (hd.map hReadOnly).getD false then bad
  else
    match mcpySide hs sk (dfield d 24 8) (dfield d 32 8) c.n, mcpySide hd dk (dfield d 40 8) (dfield d 48 8) c.n,
        shadowEntry s die c.asid (dfield d 12 4) with
    | some (sa, st), some (da, dt), some e =>
      match toShadow e (dk != 0) da n with
      | none => bad
      | some sh =>
        let ok (a : Nat) : Bool := engineRange (s.die die) c.asid a n
        if (sk = 0 && !ok sa) || (dk = 0 && !(ok da && ok sh)) then .error (cmdFault c 0x0B)
        else
          let x := if sk != 0 then rangeCause s die c.asid sa n true false else none
          let y := if dk != 0 then shadowCause s die c.asid e sh n else none
          match x, y with
          | some k, _ => .error (cmdXlate c k)
          | none, some k => .error (cmdXlate c k)
          | none, none =>
            .ok { c with desc := d, src := sa, dst := sh, srcTile := st, dstTile := dt, shdw := some (dfield d 12 4), left := n / 64
                         pages := (if sk != 0 then [(sa, n)] else []) ++ (if dk != 0 then [(sh, n), (sh - shS e + shV e, n)] else []) }
    | _, _, _ => bad

/-! ### Engine block accesses (R222, R225, R226) -/

/-- The read of one 64 B block of a command's source. -/
def blockAccess (c : Cmd) (id : Nat) (m : MemKind) (a k : Nat) : Access :=
  { die := c.loc.die, mem := m, op := .block k, shape := { base := a, n := 16 }, en := allBlock, asid := c.asid
    bundle := c.bundle, slot := Slot.fb.code, issued := c.issued, timed := c.timed, cls := .engine, cmd := some id, launch := c.launch }

/-- The write of one block by a command, with the bits it writes. -/
def blockWrite (c : Cmd) (id : Nat) (m : MemKind) (port a : Nat) (v en : BitVec 512) : Access :=
  { die := c.loc.die, mem := m, op := if en = BitVec.allOnes 512 then .write else .bits en, shape := { base := a, n := 16 }
    data := v.setWidth 4096, en := allBlock, port, asid := c.asid, bundle := c.bundle, slot := Slot.fb.code, issued := c.issued
    timed := c.timed, cls := .engine, cmd := some id, launch := c.launch, shdw := c.shdw }

def kindMem (k : Nat) : MemKind := if k = 0 then .scratch else .virt

/-- The port of a Mule: 26 in the scratchpad, its own number in main memory (R180, R222). -/
def mulePort (m : MemKind) (mule : Nat) : Nat := if m == .scratch then 26 else mule

/-- An accepted MCPY: every block is read in a cycle that is not fixed (R220, R225). -/
def startMcpy (s : State) (id : Nat) (c : Cmd) : State :=
  let m := kindMem (dfield c.desc 0 4 % 4)
  (List.range c.left).foldl (fun (st : State) k =>
    let (f, s1) := st.nextFree
    s1.postAccess (s1.now + 1 + f % 65536) none (blockAccess c id m (c.src + 64 * k) k)) s

/-- A block of an MCPY has been read: edge elements read as the pad and are not written (R201, R211). -/
def mcpyBlock (s : State) (id : Nat) (c : Cmd) (k : Nat) (v : BitVec 512) : State :=
  let ones : BitVec 512 := BitVec.allOnes 512
  let v := match c.srcTile with
    | some (h, o) => let e := blockEdges h (o + 64 * k); (v &&& BitVec.ofNat 512 e.1) ||| BitVec.ofNat 512 e.2
    | none => v
  let en := match c.dstTile with
    | some (h, o) => BitVec.ofNat 512 (blockEdges h (o + 64 * k)).1
    | none => ones
  let m := kindMem (dfield c.desc 0 4 / 4 % 4)
  let (f, s1) := s.nextFree
  s1.postAccess (s1.now + 1 + f % 65536) none (blockWrite c id m (mulePort m c.mule) (c.dst + 64 * k) v en)

/-! ### MBULK and MCLOSE (R213 to R216) -/

/-- The tag is allocated to the launch on the stack (R214). -/
def tagAllocated (s : State) (launch stack tag : Nat) : Bool :=
  ((s.launch launch).map fun x => x.tags.contains (stack, tag)).getD false

/-- The reservation of a bank by a tag, or the reservation fault (R214). -/
def bulkReserve (s : State) (die launch tag dpa : Nat) : Option State :=
  let st := dpaStack dpa
  let d := s.die die
  if !tagAllocated s launch st tag then none
  else
    match d.reserves.find? fun r => r.stack = st && r.tag = tag with
    | some r => if r.pc = dpaPc dpa && r.bank = dpaBank dpa then some s else none
    | none =>
      if d.reserves.any fun r => r.stack = st && r.pc = dpaPc dpa then none
      else some (s.modDie die fun d => { d with reserves := d.reserves ++ [{ stack := st, tag, pc := dpaPc dpa, bank := dpaBank dpa, launch }] })

/-- The earliest issue of a tag's next MBULK (R215). -/
def bulkFree (d : Die) (stack tag : Nat) : Nat :=
  match d.reserves.find? fun r => r.stack = stack && r.tag = tag with
  | some r => if r.lastCount = 0 then 0 else r.lastIssue + 6 * r.lastCount
  | none => 0

/-- The checks of an MBULK's descriptor: the row's address and the command with its addresses (R213, R219). -/
def mbulkCheck (s : State) (c : Cmd) (d : BitVec 512) : Except FaultReq (Cmd × Nat) :=
  let die := c.loc.die
  let dir := dfield d 8 4
  let va := dfield d 0 8
  let sa := dfield d 16 8
  let n := 64 * c.n
  let bad : Except FaultReq (Cmd × Nat) := .error (cmdFault c 0x1F)
  if dir > 1 || dfield d 24 32 != 0 || va % 1024 != 0 || va ≥ 2 ^ 52 || sa % 64 != 0 || c.n > 16 || dfield d 12 4 ≥ 4096 ||
      (dir = 1 && dfield d 12 4 != 0) then bad
  else
    let dst := if dir = 1 then some sa
      else (shadowEntry s die c.asid (dfield d 12 4)).bind fun e => toShadow e false sa n
    match dst with
    | none => bad
    | some a =>
      if !(engineRange (s.die die) c.asid sa n && engineRange (s.die die) c.asid a n) then .error (cmdFault c 0x0B)
      else
        let x := if c.timed then xlateTimed s die c.asid c.launch va (dir = 0) (dir = 1) else xlateUnit s die c.asid va (dir = 0) (dir = 1)
        let cxl := match xlateUnit s die c.asid va (dir = 0) (dir = 1) with
          | .ok p => dpaCxl p
          | .error _ => false
        if cxl then .error (cmdFault c 0x06)
        else
          match x, xlateUnit s die c.asid (remap (shadowsOf s die c.asid) true va) false false with
          | .error k, _ => .error (cmdXlate c (va, k))
          | _, .error k => .error (cmdXlate c (va, k))
          | .ok _, .ok p =>
            .ok ({ c with desc := d, src := if dir = 0 then va else sa, dst := if dir = 0 then a else va
                          shdw := if dir = 0 then some (dfield d 12 4) else none, left := c.n, pages := [(va, n)] }, p)

/-- The blocks of an MBULK from its start: row accesses at start + 640 + 6k, scratch reads at start + 6k, the counter one
cycle after the last block (R213). -/
def startMbulk (s : State) (id : Nat) (c : Cmd) (start : Nat) (dpa : Nat) : State :=
  let die := c.loc.die
  let s0 := (s.modCmd die id fun _ => { c with acc := true, from_ := start }).modDie die fun d =>
    { d with reserves := d.reserves.map fun r =>
        if r.stack = dpaStack dpa && r.tag = c.aux then { r with lastIssue := start, lastCount := c.n, lastBlock := start + 640 + 6 * (c.n - 1) } else r }
  let s1 := (List.range c.n).foldl (fun (st : State) k =>
    if c.shdw.isSome then st.postDie die (start + 640 + 6 * k) rkRead (.mbulkBlock die id k)
    else (st.postAccess (start + 6 * k) none (blockAccess c id .scratch (c.src + 64 * k) k)).postDie die (start + 640 + 6 * k) (rkWrite + 16)
      (.mbulkBlock die id k)) s0
  s1.postDie die (start + 640 + 6 * (c.n - 1) + 1) rkCount (.muleCommandComplete die id)

/-- The start cycle of a free-code MBULK: after the tag's last and outside refresh windows (R215). -/
def bulkStart (s : State) (c : Cmd) (dpa : Nat) : Nat :=
  let st := Nat.max s.now (bulkFree (s.die c.loc.die) (dpaStack dpa) c.aux)
  st + afterRefresh (s.grp c.loc.die + (st - s.now)) (640 + 6 * (c.n - 1))

/-- MBULK: checked, accepted and started at issue in both regimes, so that its blocks perform at cycles counted from its issue;
in free code it waits for its tag and for refresh, in a region those are the bulk-timing fault (R213 to R215; log entry 37). -/
def issueMbulk (h : FeHdr) (tag : Fin 64) : Issue :=
  whenPred h.pr fun s t =>
    let c := { newCmd s t .mbulk h h.cc.val with aux := tag.val }
    let die := s.at_.die
    if !counterOk s die t.ctl.asid h.cc.val then s.fail 0x22
    else if c.n = 0 then zeroCmd s c
    else
      match cmdDesc s c with
      | .error k => s.fail k
      | .ok d =>
        match mbulkCheck s c d with
        | .error q => .fault q
        | .ok (c1, dpa) =>
          match bulkReserve s die t.launch tag.val dpa with
          | none => s.fail 0x22
          | some s1 =>
            if cmdHeld s c1 then .stall .stall
            else if t.timed && (meetsRefresh (s.gcc s.at_ t) (640 + 6 * (c.n - 1)) || s.now < bulkFree (s.die die) (dpaStack dpa) tag.val) then
              s.fail 0x23
            else
              let (id, s2) := s1.addCmd die c1
              let s3 := if t.timed then s2 else tlbFill s2 die t.ctl.asid (if c1.shdw.isSome then c1.src else c1.dst)
              .ok (startMbulk s3 id c1 (if t.timed then s.now else bulkStart s1 c1 dpa) dpa)
def execMbulk (h : FeHdr) (tag : Fin 64) (s : State) : Host.Outcome State Fault Refusal := runSlot (issueMbulk h tag) s

/-- MBULK_BLOCK: block k performs in the row; towards the scratchpad it performs there in the same cycle (R213). -/
def execMbulkBlock (die : Nat) (id : Nat) (k : Nat) (s : State) : Host.Outcome State Fault Refusal :=
  match s.cmd die id with
  | none => .next s
  | some c =>
    if c.shdw.isSome then
      let a := { blockAccess c id .virt (c.src + 64 * k) k with op := .read }
      let s := correctAccess s a
      match readPoison s a with
      | some d => .next (s.postUnit s.now rkArrive (.uncorrectableMemoryError die d (unitField 7 (dpaStack d) (dpaPc d))))
      | none => .next (s.postAccess s.now none (blockWrite c id .scratch 26 (c.dst + 64 * k) ((readValue s a).setWidth 512) (BitVec.allOnes 512)))
    else
      match mget c.buf k with
      | some v => .next (performWrite s (blockWrite c id .virt 16 (c.dst + 64 * k) v (BitVec.allOnes 512)))
      | none => .next s

/-- MCLOSE: the release follows the tag's last block (R216). -/
def issueMclose (p : Fin 16) (st : Fin 4) (tag : Fin 64) : Issue :=
  whenPred p fun s t =>
    let die := s.at_.die
    if !tagAllocated s t.launch st.val tag.val then s.fail 0x22
    else
      match (s.die die).reserves.find? fun r => r.stack = st.val && r.tag = tag.val with
      | none => .ok s
      | some r =>
        let due := if r.lastBlock ≥ s.now && r.lastCount > 0 then r.lastBlock + 1 else s.now
        .ok (s.postAt s.at_ due rkCount s.seq none (.mcloseRelease die st.val tag.val))
def execMclose (p : Fin 16) (st : Fin 4) (tag : Fin 64) (s : State) : Host.Outcome State Fault Refusal :=
  runSlot (issueMclose p st tag) s

/-- MCLOSE_RELEASE (R216). -/
def execMcloseRelease (die : Nat) (stack tag : Nat) (s : State) : Host.Outcome State Fault Refusal :=
  .next (s.modDie die fun d => { d with reserves := d.reserves.filter fun r => !(r.stack = stack && r.tag = tag) })

/-! ### PUBL (R227, R228) -/

/-- The entries an UPD will still publish: from its running tile on. -/
def updEntries (d : Die) (id : Nat) (c : Cmd) : Nat → Bool := fun e =>
  let k := match d.ox with
    | some o => if o.cmd = id then o.pubs else 0
    | none => 0
  let es := dfield c.desc 16 2
  let en := dfield c.desc 18 2
  (es + k ≤ e && e < es + c.n) || (en + k ≤ e && e < en + c.n)

/-- A command has a write to make: an MBULK until the cycle of its last block, another until its last write has performed. -/
def writesLeft (now : Nat) (c : Cmd) : Bool :=
  match c.kind with
  | .mbulk => decide (now < c.from_ + 640 + 6 * (c.n - 1))
  | .mcpy | .farr => decide (c.left > 0)
  | _ => !c.done

/-- An armed ingress window of a context covers a part of an entry's shadow (R228, R339). -/
def windowPending (s : State) (die asid e : Nat) : Bool :=
  let d := s.die die
  match mget (shadowsOf s die asid) e with
  | none => false
  | some x =>
    let hits (w : Window) : Bool := shValid x && !shVirt x && w.base < shS x + shSize x && shS x < w.base + 4 * w.words
    (d.tasks.any fun t => t.2.ctl.asid = asid && t.2.windows.any hits) ||
      d.left.any fun w => ((s.launch w.1).map (·.asid)) = some asid && hits w.2

/-- A write into the shadow of an entry of a context is pending: of an accepted command, of an armed chunk, or of an armed
window (R228). -/
def writePending (s : State) (die asid e : Nat) (besides : Option Nat) : Bool :=
  let d := s.die die
  (d.cmds.any fun x => some x.1 != besides && x.2.asid = asid && x.2.acc && !x.2.done && x.2.n > 0 &&
    (if x.2.kind = .upd then updEntries d x.1 x.2 e else writesLeft s.now x.2 && x.2.shdw = some e)) ||
  windowPending s die asid e ||
  (match d.ttRun.bind fun n => mget d.tts n with
    | some tt => tt.asid = asid && d.chunks.any fun x => x.2.armed && x.2.ready.isNone && ((tt.chunks[x.1]?).bind (·.shdw)) = some e
    | none => false)

/-- PUBL: entries e to e + n − 1 swap at issue + 4; a pending write stalls free code and faults a region (R227, R228). -/
def issuePubl (p : Fin 16) (xa : Fin 32) : Issue :=
  whenPred p fun s t =>
    let l := s.at_
    let w := (t.arch.rx xa.val).toNat
    let e := bits w 11 0
    let n := bits w 23 12 + 1
    let es := (List.range n).map fun i => e + i
    if w ≥ 2 ^ 24 || e + n > 4096 || es.any (fun i => (shadowEntry s l.die t.ctl.asid i).isNone) then s.fail 0x24
    else if es.any fun i => writePending s l.die t.ctl.asid i none then (if t.timed then s.fail 0x24 else .stall .stall)
    else
      .ok (s.postAccess (s.now + 4) none
        { die := l.die, op := .publish e n, shape := { base := 0, n := 0 }, asid := t.ctl.asid, src := some l, bundle := t.fetch.pc
          slot := s.slot.code, issued := s.now, timed := t.timed, cls := .publish, launch := t.launch })
def execPubl (p : Fin 16) (xa : Fin 32) (s : State) : Host.Outcome State Fault Refusal := runSlot (issuePubl p xa) s

/-! ### TTGO (R344) -/

/-- The first entry of a timetable at or behind an index that a walker from chunk RC sends. -/
def nextEntry (tt : Timetable) (rc i : Nat) : Option (Nat × TtSend) :=
  ((tt.sends.mapIdx fun j e => (j, e)).drop i).find? fun e => e.2.chunk ≥ rc

/-- The transfer of a send entry, when its route is up and its handle is valid (R331, R341). -/
def walkerTransfer (s : State) (die : Nat) (w : WalkerSt) (tt : Timetable) (i : Nat) (e : TtSend) : Except Nat Transfer :=
  match route s timedOk die e.dest with
  | none => .error 0x28
  | some r =>
    let op : AccOp := if e.op = 0 then .write else if e.op = 1 then .addF32 else .addI32
    let t : Transfer := { src := die, dst := e.dest, task := some w.loc, asid := tt.asid, launch := w.launch, depart := w.s0 + e.cycle
                          rate := wordRate s r, lat := pathLatency s r, addr := e.daddr, op, id := w.id0 + i, n := e.words
                          chunk := some e.chunk, hops := routeHops s 0 r }
    if e.sk = 0 then .ok { t with from_ := some e.src }
    else
      match handleAt s die tt.asid (e.src % 4096) with
      | none => .error 0x1F
      | some h =>
        match coordTile h e.coord with
        | none => .error 0x1F
        | some k => .ok { t with rate := 16, gap := 6, tile := some (h, k * tileBytes h + e.src / 4096 % 64 * 1024) }

/-- The transfers of the entries a walker sends, with their indices, or the first fault one raises. -/
def walkerTransfers (s : State) (die : Nat) (w : WalkerSt) (tt : Timetable) : Except Nat (List (Nat × Transfer)) :=
  (tt.sends.mapIdx fun i e => (i, e)).foldr (fun x acc =>
    match acc with
    | .error k => .error k
    | .ok r =>
      if x.2.chunk ≥ w.rc then
        match walkerTransfer s die w tt x.1 x.2 with
        | .ok t => .ok ((x.1, t) :: r)
        | .error k => .error k
      else .ok r) (.ok [])

/-- The last departure cycle of a transfer. -/
def lastDeparture (t : Transfer) : Nat := t.depart + spanLength t.n t.rate t.gap

/-- The span of a transfer on its first link. -/
def firstSpan (t : Transfer) : Option (Nat × Nat × Nat) :=
  match t.hops with
  | (_, k, _) :: _ => some (k, t.depart, lastDeparture t)
  | [] => none

/-- TTGO arms the chunks from RC at issue + 1 and starts the walker at S0; a span of an entry that meets a known one on its
first link is the link-collision fault (R335, R344). -/
def issueTtgo (p : Fin 16) (xa : Fin 32) (stamp : BitVec 16) : Issue :=
  whenPred p fun s t =>
    let l := s.at_
    let v := (t.arch.rx xa.val).toNat
    let d := s.die l.die
    if !t.timed then s.fail 0x06
    else
      match mget d.tts (bits v 11 0), stampDelay (s.gcc l t) stamp.toNat with
      | some tt, some dly =>
        let rc := bits v 27 16
        if tt.asid != t.ctl.asid || bits v 15 12 != 0 || v ≥ 2 ^ 28 || d.walker.isSome || (s.gcc l t + dly) % 16384 != tt.phase then s.fail 0x2A
        else
          let w : WalkerSt := { tt := bits v 11 0, s0 := s.now + dly, rc, next := 0, loc := l, launch := t.launch, id0 := s.seq }
          match walkerTransfers s l.die w tt with
          | .error k => s.fail k
          | .ok ts =>
            let spans := ts.filterMap fun x => (firstSpan x.2).map fun y => (x.2.id, y)
            if spans.any fun x => (spanClash s l.die x.2.1 x.2.2.1 x.2.2.2).isSome then s.fail 0x27
            else
              let s1 := { s with seq := s.seq + tt.sends.length }
              let s2 := spans.foldl (fun (st : State) x =>
                addSpan st l.die { link := x.2.1, first := x.2.2.1, last := x.2.2.2, task := some l, launch := t.launch, id := x.1 }) s1
              let arm := (List.range tt.chunks.length).foldl (fun m i => if i ≥ rc then mset m i { armed := true } else m) d.chunks
              let last := ts.foldl (fun m x => Nat.max m (lastDeparture x.2)) w.s0
              let s3 := s2.modDie l.die fun d => { d with
                chunks := arm, ttRun := some w.tt, ttLaunch := t.launch, horizon := none, walker := some { w with last } }
              let due := match nextEntry tt rc 0 with
                | some (_, e) => w.s0 + e.cycle - 1
                | none => w.s0
              .ok (s3.postDie l.die due (rkRead - 1) .walkerDeparture)
      | _, _ => s.fail 0x2A
def execTtgo (p : Fin 16) (xa : Fin 32) (stamp : BitVec 16) (s : State) : Host.Outcome State Fault Refusal :=
  runSlot (issueTtgo p xa stamp) s

/-! ### Fences (R235 to R237) -/

/-- A die inside the scope of a fence of a die (R234). -/
def inScope (sc : FScope) (own dst : Nat) : Bool :=
  match sc with
  | .task | .team | .die => dst = own
  | .module => dst = own || dst = sibling own
  | .group | .system => true

/-- A counted message still at its source, on a die. -/
def messageAt (s : State) (die : Nat) (f : Counted → Bool) : Bool :=
  (s.calendar.any fun e =>
    match e.what with
    | .countedFlitArrival c _ => c.at_ = die && f c
    | _ => false) || (s.die die).stuck.any fun c => c.at_ = die && f c

/-- A counted message anywhere. -/
def messageAny (s : State) (f : Counted → Bool) : Bool :=
  (s.calendar.any fun e =>
    match e.what with
    | .countedFlitArrival c _ => f c
    | _ => false) || s.dies.any fun d => d.2.stuck.any f

/-- An effect of an access of the core is still to come after this cycle. -/
def accessAhead (s : State) (l : Loc) (f : Access → Bool) : Bool :=
  s.calendar.any fun e =>
    decide (e.due > s.now) && match e.what with
      | .accessPerform a => a.src = some l && f a
      | _ => false

def isWrite (o : AccOp) : Bool :=
  match o with
  | .write | .addF32 | .addI32 | .atom _ | .bits _ => true
  | _ => false

/-- A command of the task has not incremented; for a FARS outside the scope, has not left the die (R236). -/
def cmdsAhead (s : State) (l : Loc) (t : Task) (sc : FScope) : Bool :=
  (s.die l.die).cmds.any fun e =>
    e.2.loc = l && e.2.launch = t.launch && e.2.team = t.team &&
    (if e.2.kind = .fars && sc != .system then e.2.unsent > 0 else true) &&
    !(s.calendar.any fun x => decide (x.due ≤ s.now) && match x.what with
      | .muleCommandComplete d i => d = l.die && i = e.1
      | .zeroCountCompletion d i => d = l.die && i = e.1
      | _ => false)

/-- FENCE.ENG: commands, releases, the walker, segments and main-memory pushes (R235, R236). -/
def engAhead (s : State) (l : Loc) (t : Task) (sc : FScope) : Bool :=
  cmdsAhead s l t sc ||
  (s.calendar.any fun e => decide (e.due > s.now) && match e.what with
    | .mcloseRelease _ _ _ => e.place = l
    | _ => false) ||
  (match (s.die l.die).walker with
    | some w => w.loc = l && w.launch = t.launch
    | none => false) ||
  !t.res.owed.isEmpty || !t.res.later.isEmpty || (t.res.segs.any fun g => g.2.op && (g.2.st == .outbound || g.2.st == .inbound)) ||
  t.units.any fun u => !u.drain.isEmpty

/-- FENCE.PUB (R235). -/
def pubAhead (s : State) (l : Loc) (t : Task) : Bool :=
  accessAhead s l (fun a => match a.op with | .publish _ _ => true | _ => false) ||
  (s.die l.die).cmds.any fun e => e.2.loc = l && e.2.launch = t.launch && e.2.team = t.team && e.2.kind = .upd && e.2.n > 0

/-- A remote access or a PSEND of the task: not performed inside the scope, not left outside it (R236). -/
def remAhead (s : State) (l : Loc) (t : Task) (sc : FScope) : Bool :=
  let mine (c : Counted) : Bool := match c.body with
    | .request r => r.loc = l && r.kind = some none
    | .pair v => v.src = l.die && v.launch = t.launch && (s.chan l.die t.launch v.chan).user = some t.ident
    | _ => false
  (t.rems.any fun r => inScope sc l.die r.1) || !t.fsts.isEmpty || !t.psends.isEmpty ||
  accessAhead s l (fun a => a.cls == .remote) || messageAt s l.die mine ||
  messageAny s fun c => mine c && inScope sc l.die c.dst

/-- FENCE.HOST: every write of the task (R235). -/
def hostAhead (s : State) (l : Loc) (t : Task) : Bool :=
  !t.sbuf.isEmpty || !t.wpend.isEmpty || accessAhead s l (fun a => isWrite a.op) || engAhead s l t .system || pubAhead s l t ||
  !t.rems.isEmpty || !t.fsts.isEmpty

/-- The class of the fence still has an effect to come. -/
def fenceAhead (s : State) (l : Loc) (t : Task) (k : FKind) (sc : FScope) : Bool :=
  match k with
  | .eng => engAhead s l t sc
  | .pub => pubAhead s l t
  | .host => hostAhead s l t
  | .rem => remAhead s l t sc

/-- FENCE: free code waits for its completion; a region faults when it is not complete at issue (R237); none in a replay. -/
def issueFence (p : Fin 16) (kind : FKind) (scope : FScope) : Issue :=
  whenPred p fun s t =>
    if t.arch.walk.mode == .replay then .ok s
    else if t.timed then (if fenceAhead s s.at_ t kind scope then s.fail 0x25 else .ok s)
    else .ok ((s.modTask s.at_ fun t => { t with wait := .fence kind scope }).postCore s.at_ s.now (rkSwap + 1) .fenceComplete)
def execFence (p : Fin 16) (kind : FKind) (scope : FScope) (s : State) : Host.Outcome State Fault Refusal :=
  runSlot (issueFence p kind scope) s

/-- FENCE_COMPLETE: looked at at the end of each cycle, of which those behind the issue are stall cycles; the next bundle
follows in the cycle after completion (R237). -/
def execFenceComplete (s : State) : Host.Outcome State Fault Refusal :=
  let l := s.at_
  match s.task l with
  | none => .next s
  | some t =>
    match t.wait, t.phase with
    | .fence k sc, .running =>
      let s1 := if t.lastAt < s.now then delayCore s l else s
      if fenceAhead s l t k sc then .next (s1.postCore l (s.now + 1) (rkSwap + 1) .fenceComplete)
      else .next ((s1.modTask l fun t => { t with wait := .none }).postIssue (s.now + 1) l)
    | _, _ => .next s

end Sys2Proof.Machine
end

