-- ==== Sys2Proof/Machine/Ox.lean ====
section
/-! DEFINITION. The Ox engine: its queue (R402), NORM (R403), and UPD with its gates, arithmetic and publication (R404 to
R413). -/

namespace Sys2Proof.Machine

/-! ### Issue (R402 to R404, R413) -/

/-- A command of a region enters the queue at issue; its descriptor is read in the next cycle (R402). -/
def queueTimed (s : State) (c : Cmd) : Res :=
  let die := s.at_.die
  if (s.die die).oxq.length ≥ 16 then s.fail 0x09
  else
    let (id, s1) := s.addCmd die { c with from_ := s.now + 8 }
    .ok ((s1.modDie die fun d => { d with oxq := d.oxq ++ [id] }).postCore s.at_ (s.now + 1) rkRead .commandAcceptance)

/-- NORM (R402, R403, R413). -/
def issueNorm (h : FeHdr) : Issue :=
  whenPred h.pr fun s t =>
    let c := newCmd s t .norm h h.cc.val
    if !counterOk s s.at_.die t.ctl.asid h.cc.val then s.fail 0x22
    else if c.n = 0 then zeroCmd s c
    else if t.timed then queueTimed s c
    else awaitCmd s c
def execNorm (h : FeHdr) (s : State) : Host.Outcome State Fault Refusal := runSlot (issueNorm h) s

/-- UPD: its cc field is the norm counter, the counter behind it the completion counter (R404, R413). -/
def issueUpd (h : FeHdr) (xv : Fin 32) : Issue :=
  whenPred h.pr fun s t =>
    let cc := (h.cc.val + 1) % 256
    let c : Cmd := { newCmd s t .upd h cc with aux := h.cc.val, xv := (t.arch.rx xv.val).toNat % 2 ^ 32 }
    if !counterOk s s.at_.die t.ctl.asid h.cc.val || !counterOk s s.at_.die t.ctl.asid cc then s.fail 0x22
    else if c.n = 0 then zeroCmd s c
    else if t.timed then queueTimed s c
    else awaitCmd s c
def execUpd (h : FeHdr) (xv : Fin 32) (s : State) : Host.Outcome State Fault Refusal := runSlot (issueUpd h xv) s

/-! ### Checks at acceptance (R402 to R405) -/

/-- A scratch operand of an Ox command. -/
def oxScratch (s : State) (c : Cmd) (a n : Nat) : Bool := engineRange (s.die c.loc.die) c.asid a n

/-- The checks of NORM (R403). -/
def normCheck (s : State) (c : Cmd) (d : BitVec 512) : Except FaultReq Cmd :=
  let ctl := dfield d 0 4
  let src := dfield d 24 8
  let dst := dfield d 40 8
  if (ctl != 0 && ctl != 2) || dfield d 4 20 != 0 || dfield d 32 8 != 0 || dfield d 48 8 != 0 || src % 1024 != 0 || dst % 4 != 0 ||
      c.n > 2 ^ 24 || (ctl = 2 && (src ≥ 2 ^ 52 || c.timed)) then .error (cmdFault c 0x1F)
  else if !oxScratch s c dst 4 || (ctl = 0 && !oxScratch s c src (1024 * c.n)) then .error (cmdFault c 0x0B)
  else
    match if ctl = 2 then rangeCause s c.loc.die c.asid src (1024 * c.n) true false else none with
    | some x => .error (cmdXlate c x)
    | none => .ok { c with desc := d, src, dst, left := 16 * c.n, pages := if ctl = 2 then [(src, 1024 * c.n)] else [] }

def updOpt (c : Cmd) : Nat := dfield c.desc 0 4 % 4
def updGk (c : Cmd) : Nat := dfield c.desc 0 4 / 4 % 4
def updFmt (d : BitVec 512) : Option Fmt :=
  match Fmt.ofCode (dfield d 0 4 / 16 % 64) with
  | some (.fp8 k) => some (.fp8 k)
  | some (.fp8inf k) => some (.fp8inf k)
  | _ => none
def updRm (c : Cmd) : Rm := match dfield c.desc 0 4 / 1024 % 4 with | 0 => .rne | 1 => .rtz | _ => .sat
def updGate (d : BitVec 512) : Bool := dfield d 0 4 / 4096 % 2 = 1

/-- The state and narrow entries of tile k. -/
def updEs (c : Cmd) (k : Nat) : Nat := dfield c.desc 16 2 + k
def updEn (c : Cmd) (k : Nat) : Nat := dfield c.desc 18 2 + k

/-- A value of the parameter block, by its byte offset (R405). -/
def param (p : BitVec 512) (o : Nat) : Nat := dfield p o 4

/-- The parameter block is legal (R405). -/
def paramsOk (p : BitVec 512) : Bool :=
  dfield p 40 24 = 0 && (FV.lt (fval .f32 0) (fval .f32 (param p 36))) && !isNaN .f32 (param p 36)

/-- An entry of the size UPD needs; in a region of a scratch kind (R402, R404). -/
def updEntryOk (s : State) (c : Cmd) (n units : Nat) : Bool :=
  match shadowEntry s c.loc.die c.asid n with
  | some e => shSize e = 64 * units && !(c.timed && shVirt e)
  | none => false

/-- An entry named by an UPD still queued or running (R404). -/
def entryNamed (s : State) (c : Cmd) (e : Nat) : Bool :=
  (s.die c.loc.die).cmds.any fun x => x.2.kind = .upd && x.2.acc && x.2.n > 0 && !x.2.done && x.2.asid = c.asid &&
    ((dfield x.2.desc 16 2 ≤ e && e < dfield x.2.desc 16 2 + x.2.n) || (dfield x.2.desc 18 2 ≤ e && e < dfield x.2.desc 18 2 + x.2.n))

/-- The translation of the entries of the virtual kind (R402). -/
def updEntryCause (s : State) (c : Cmd) (n : Nat) : Option (Nat × Nat) :=
  match shadowEntry s c.loc.die c.asid n with
  | some e =>
    if shVirt e then
      match rangeCause s c.loc.die c.asid (shV e) (shSize e) true true with
      | some x => some x
      | none => rangeCause s c.loc.die c.asid (shS e) (shSize e) true true
    else none
  | none => none

/-- The virtual ranges of an entry (R402). -/
def entryPages (s : State) (c : Cmd) (n : Nat) : List (Nat × Nat) :=
  match shadowEntry s c.loc.die c.asid n with
  | some e => if shVirt e then [(shV e, shSize e), (shS e, shSize e)] else []
  | none => []

/-- The checks of UPD (R402, R404, R405). The parameter block is kept beside the blocks, at index 4,096. -/
def updCheck (s : State) (c0 : Cmd) (d : BitVec 512) : Except FaultReq Cmd :=
  let c := { c0 with desc := d }
  let die := c.loc.die
  let gsrc := dfield d 48 8
  let naddr := dfield d 40 8
  let stat := dfield d 32 8
  let hp := dfield d 24 8
  let ks := List.range c.n
  let units := if updOpt c = 0 then 3072 else 2048
  let ctl := dfield d 0 4
  if dfield d 4 8 != 0 || dfield d 21 3 != 0 || ctl ≥ 2 ^ 13 || updOpt c > 1 || (updGk c != 0 && updGk c != 2) || (updFmt d).isNone ||
      ctl / 1024 % 4 = 3 || (!updGate d && (dfield d 20 1 != 0 || dfield d 12 4 != 0)) || c.n > 2048 ||
      updEs c 0 + c.n > 4096 || updEn c 0 + c.n > 4096 || hp % 64 != 0 || stat % 8 != 0 || naddr % 4 != 0 || gsrc % 64 != 0 ||
      (updGk c = 2 && (gsrc ≥ 2 ^ 52 || c.timed)) ||
      ks.any (fun k => !updEntryOk s c (updEs c k) units || !updEntryOk s c (updEn c k) 1024 || entryNamed s c (updEs c k) || entryNamed s c (updEn c k)) then
    .error (cmdFault c 0x1F)
  else if updGate d && !counterOk s die c.asid (dfield d 20 1) then .error (cmdFault c 0x22)
  else if !oxScratch s c hp 64 || !oxScratch s c stat 8 || !oxScratch s c naddr 4 || (updGk c = 0 && !oxScratch s c gsrc (65536 * c.n)) then
    .error (cmdFault c 0x0B)
  else
    let p : BitVec 512 := BitVec.ofNat 512 (readScratch s die c.asid hp 64)
    if !paramsOk p then .error (cmdFault c 0x1F)
    else
      let x := if updGk c = 2 then rangeCause s die c.asid gsrc (65536 * c.n) true false else none
      let y := ks.findSome? fun k => (updEntryCause s c (updEs c k)).orElse fun _ => updEntryCause s c (updEn c k)
      match x, y with
      | some k, _ => .error (cmdXlate c k)
      | none, some k => .error (cmdXlate c k)
      | none, none => .ok { c with
          src := gsrc, left := c.n, buf := [(4096, p)]
          pages := (if updGk c = 2 then [(gsrc, 65536 * c.n)] else []) ++
            ks.flatMap fun k => entryPages s c (updEs c k) ++ entryPages s c (updEn c k) }

/-! ### The queue (R402) -/

/-- Ox looks at the head of its queue at the head's earliest start. -/
def kickOx (s : State) (die : Nat) : State :=
  let d := s.die die
  match d.ox, d.oxq.head?.bind fun id => mget d.cmds id with
  | none, some c => s.postDie die (Nat.max c.from_ (s.now + 1)) (rkRead - 1) .oxCommandStart
  | _, _ => s

/-- The end of the running command: the next starts after it (R402). -/
def endOx (s : State) (die id : Nat) : State :=
  match (s.die die).ox with
  | some o => if o.cmd = id then kickOx (s.modDie die fun d => { d with ox := none }) die else s
  | none => s

/-- A NORM starts: its blocks are read before its result is written (R225, R403). -/
def startNorm (s : State) (die id : Nat) (c : Cmd) : State :=
  let m := kindMem (dfield c.desc 0 4 % 4)
  let s1 := (List.range (16 * c.n)).foldl (fun (st : State) k =>
    let (f, s1) := st.nextFree
    s1.postAccess (if c.timed then s1.now + f % (16 + 2 * c.n) else s1.now + f % 65536) none (blockAccess c id m (c.src + 64 * k) k)) s
  if c.timed then s1.postDie die (s1.now + 16 + 2 * c.n) (rkWrite + 26) .normResultWrite else s1

/-- OX_COMMAND_START (R402). -/
def execOxCommandStart (s : State) : Host.Outcome State Fault Refusal :=
  let die := s.at_.die
  let d := s.die die
  match d.ox, d.oxq with
  | none, id :: rest =>
    match mget d.cmds id with
    | none => .next (kickOx (s.modDie die fun d => { d with oxq := rest }) die)
    | some c =>
      if !c.acc || c.from_ > s.now then .next (kickOx s die)
      else
        let s1 := s.modDie die fun d => { d with oxq := rest, ox := some { cmd := id, start := s.now } }
        if c.kind = .norm then .next (startNorm s1 die id c)
        else .next (s1.postDie die (s.now + 1) rkRead .updNormGate)
  | _, _ => .next s

/-! ### NORM (R403) -/

/-- The words of a block. -/
def blockWords (b : BitVec 512) : List Nat := lanesGo 32 16 b.toNat

/-- The sum of squares over units of 256 values, with the events of each unit (R87, R403). -/
def normSum (b : Map (BitVec 512)) (c : Nat) : Nat × List Evs :=
  (List.range c).foldl (fun s u =>
    let xs := (List.range 16).flatMap fun i => blockWords (rd b (16 * u + i))
    let x := treeSum 8 (xs.map fun x => fmul .f32 x x)
    let y := fadd .f32 s.1 x.1
    (y.1, s.2 ++ [x.2 ||| y.2])) (0, [])

/-- A block of a NORM has been read; in free code the result follows the last (R403). -/
def normBlock (s : State) (die id : Nat) (c : Cmd) (k : Nat) (v : BitVec 512) : State :=
  let s1 := s.modCmd die id fun c => { c with buf := mset c.buf k v, left := c.left - 1 }
  if c.left = 1 && !c.timed then
    let (f, s2) := s1.nextFree
    s2.postDie die (s2.now + 1 + f % 65536) (rkWrite + 26) .normResultWrite
  else s1

/-- A plain write of n words by Ox through port 26 (R402, R412). -/
def oxWrite (c : Cmd) (id a n v : Nat) : Access :=
  { blockWrite c id .scratch 26 a (BitVec.ofNat 512 v) (BitVec.allOnes 512) with shape := { base := a, n }, en := BitVec.ofNat 512 (2 ^ (4 * n) - 1) }

/-- NORM_RESULT_WRITE: the sum is stored, with a record of each event kind; the counter increments one cycle later (R87,
R403). -/
def execNormResultWrite (s : State) : Host.Outcome State Fault Refusal :=
  let die := s.at_.die
  match (s.die die).ox with
  | none => .next s
  | some o =>
    match s.cmd die o.cmd with
    | none => .next s
    | some c =>
      if c.kind != .norm then .next s
      else
        let x := normSum c.buf c.n
        .next ((cmdEvents (performWrite s (oxWrite c o.cmd c.dst 1 x.1)) c x.2).postDie die (s.now + 1) rkCount (.muleCommandComplete die o.cmd))

/-! ### UPD: gates (R407, R408) -/

def fdiv32 (a b : Nat) : Nat × Evs := rounded .f32 ((fval .f32 a).div (fval .f32 b))
def fsqrt32 (a : Nat) : Nat × Evs := rounded .f32 (sqrtV (fval .f32 a))

/-- The clip factor from S and MAXN, or none when no tile is updated, with the events of its arithmetic (R87, R408). -/
def clipFactor (sum maxn : Nat) : Option Nat × Evs :=
  let n := fsqrt32 sum
  if isNaN .f32 n.1 || n.1 % 2 ^ 31 = 0x7F800000 then (none, n.2)
  else if flt .f32 maxn n.1 then
    let q := fdiv32 maxn n.1
    (some q.1, n.2 ||| q.2)
  else (some 0x3F800000, n.2)

def modOx (s : State) (die : Nat) (f : OxRun → OxRun) : State := s.modDie die fun d => { d with ox := d.ox.map f }

/-- The running command of a die. -/
def oxCmd (s : State) (die : Nat) : Option (OxRun × Cmd) :=
  match (s.die die).ox with
  | some o => (s.cmd die o.cmd).map fun c => (o, c)
  | none => none

/-- UPD_NORM_GATE: in cycle G0 Ox reads S and forms the clip factor, or skips every tile; the factor's events are recorded with
those of the first tile, or now when there is none (R407, R408, R410; log entry 44). -/
def execUpdNormGate (s : State) : Host.Outcome State Fault Refusal :=
  let die := s.at_.die
  match oxCmd s die with
  | none => .next s
  | some (o, c) =>
    if counterVal s die c.aux < c.xv then .next (s.postDie die (s.now + 1) rkRead .updNormGate)
    else
      let s1 := modOx s die fun o => { o with g0 := some s.now, g0gcc := cmdGcc s c }
      match clipFactor (readScratch s die c.asid (dfield c.desc 40 8) 4) (param (rd c.buf 4096) 36) with
      | (some f, e) => .next ((modOx s1 die fun o => { o with factor := f, clip := e }).postDie die (s.now + 1) (rkRead - 1) .updTileStart)
      | (none, e) =>
        .next (((cmdEvents (modOx s1 die fun o => { o with skip := true }) c [e]).postDie die s.now (rkWrite + 26) .updCompletion).postDie die
          (s.now + 1) rkCount (.muleCommandComplete die o.cmd))

/-- An operand of the command lies in main memory, so that its tiles take a time that is not fixed (R407). -/
def updFar (s : State) (c : Cmd) (k : Nat) : Bool :=
  updGk c = 2 || ((shadowEntry s c.loc.die c.asid (updEs c k)).map shVirt).getD false || ((shadowEntry s c.loc.die c.asid (updEn c k)).map shVirt).getD false

/-- A block of a record: its memory and its address by the visible or the shadow name. -/
def recordAddr (s : State) (c : Cmd) (n : Nat) (shadow : Bool) (o : Nat) : MemKind × Nat :=
  match shadowEntry s c.loc.die c.asid n with
  | some e => (if shVirt e then .virt else .scratch, (if shadow then shS e else shV e) + o)
  | none => (.scratch, 2 ^ 29)

/-- Where block `key` of tile k is read: gradient, master weights, first and second moments, 1,024 blocks each (R406). -/
def updSource (s : State) (c : Cmd) (k key : Nat) : MemKind × Nat :=
  if key < 1024 then (kindMem (updGk c), c.src + 65536 * k + 64 * key) else recordAddr s c (updEs c k) false (64 * (key - 1024))

/-- UPD_TILE_START: tile k starts in the first cycle that meets its gradient gate; each block is read once before Pk
(R407). -/
def execUpdTileStart (s : State) : Host.Outcome State Fault Refusal :=
  let die := s.at_.die
  match oxCmd s die with
  | none => .next s
  | some (o, c) =>
    if updGate c.desc && counterVal s die (dfield c.desc 20 1) < dfield c.desc 12 4 + o.tile + 1 then .next (s.postDie die (s.now + 1) (rkRead - 1) .updTileStart)
    else
      let (f, s0) := s.nextFree
      let dur := if !c.timed && updFar s c o.tile then 3 + f % 65536 else if updOpt c = 0 then 320 else 256
      let n := if updOpt c = 0 then 4096 else 3072
      let s1 := modOx s0 die fun o => { o with pk := some (s.now + dur), out := [], evs := if o.clip = 0 then [] else [o.clip], clip := 0 }
      let s2 := (List.range n).foldl (fun (st : State) key =>
        let (f, s3) := st.nextFree
        let a := updSource s c o.tile key
        s3.postAccess (s.now + f % (dur - 1)) none (blockAccess c o.cmd a.1 a.2 key)) s1
      .next (s2.postDie die (s.now + dur) rkSwap .updTilePublish)

/-! ### UPD: arithmetic (R409, R410) -/

/-- A chain of rounded operations: the value with every event so far. -/
abbrev RV := Nat × Evs
def rmul (a b : RV) : RV := let r := fmul .f32 a.1 b.1; (r.1, r.2 ||| a.2 ||| b.2)
def radd (a b : RV) : RV := let r := fadd .f32 a.1 b.1; (r.1, r.2 ||| a.2 ||| b.2)
def rsub (a b : RV) : RV := let r := fsub .f32 a.1 b.1; (r.1, r.2 ||| a.2 ||| b.2)
def rdiv (a b : RV) : RV := let r := fdiv32 a.1 b.1; (r.1, r.2 ||| a.2 ||| b.2)
def rsqrt (a : RV) : RV := let r := fsqrt32 a.1; (r.1, r.2 ||| a.2)

/-- The new weight, first and second moment of one element (R409). -/
def updElem (opt : Nat) (p : BitVec 512) (f g w m v : Nat) : Nat × Nat × Nat × Evs :=
  let k (o : Nat) : RV := (param p o, 0)
  let gg := rmul (g, 0) (f, 0)
  if opt = 0 then
    let m' := radd (rmul (k 4) (m, 0)) (rmul (k 8) gg)
    let v' := radd (rmul (k 12) (v, 0)) (rmul (k 16) (rmul gg gg))
    let den := radd (rsqrt (rmul v' (k 32))) (k 20)
    let u := rdiv (rmul m' (k 28)) den
    let w' := rsub (w, 0) (rmul (k 0) (radd u (rmul (k 24) (w, 0))))
    (w'.1, m'.1, v'.1, w'.2 ||| v'.2)
  else
    let b' := radd (rmul (k 4) (m, 0)) gg
    let w' := rsub (w, 0) (rmul (k 0) (radd b' (rmul (k 24) (w, 0))))
    (w'.1, b'.1, v, w'.2)

/-- The new blocks j of the master weights and moments, with each element's events. -/
def updBlocks (opt : Nat) (b : Map (BitVec 512)) (f j : Nat) : BitVec 512 × BitVec 512 × BitVec 512 × List Evs :=
  let p := rd b 4096
  let w (i : Nat) : List Nat := blockWords (rd b (1024 * i + j))
  let r := (List.range 16).map fun i => updElem opt p f (nth 0 (w 0) i) (nth 0 (w 1) i) (nth 0 (w 2) i) (nth 0 (w 3) i)
  let blk (l : List Nat) : BitVec 512 := BitVec.ofNat 512 (lanesNat 32 l)
  (blk (r.map (·.1)), blk (r.map fun x => x.2.1), blk (r.map fun x => x.2.2.1), r.map fun x => x.2.2.2)

/-- The larger magnitude of two values, a NaN never. -/
def maxMag (a : FV) (c : Nat) : FV :=
  if isNaN .f32 c then a
  else
    let x := fval .f32 (c % 2 ^ 31)
    if a.lt x then x else a

/-- x × 2^e. -/
def scaleBy (x : FV) (e : Int) : FV := (x.mul (.fin false 1 e)).1

/-- The narrow record of a tile: bf16 copy, scaled copy, exponent, zeros; with each element's events (R406, R410). -/
def narrowRecord (fmt : Fmt) (rm : Rm) (ws : List Nat) : List Nat × List Evs :=
  let bf := ws.map fun w => cvt .bf16 .rne (fval .f32 w)
  let e := scaleExp (ws.foldl maxMag (fval .f32 0)) fmt
  let sc := ws.map fun w => cvt fmt rm (scaleBy (fval .f32 w) (-e))
  let bytes := bf.flatMap (fun x => [x.1 % 256, x.1 / 256]) ++ sc.map (·.1) ++ [(e % 256).toNat]
  (bytes ++ List.replicate (65536 - bytes.length) 0, List.zipWith (fun a b => a.2 ||| b.2) bf sc)

/-- A write of a new block into a shadow, in a free cycle before Pk (R407). -/
def updStore (s : State) (id : Nat) (c : Cmd) (pk : Nat) (a : MemKind × Nat) (v : BitVec 512) : State :=
  let (f, s1) := s.nextFree
  s1.postAccess (s1.now + 1 + f % Nat.max 1 (pk - 1 - s1.now)) none
    { blockWrite c id a.1 (mulePort a.1 17) a.2 v (BitVec.allOnes 512) with cmd := none }

/-- The blocks of a byte string. -/
def blocksOf : Nat → List Nat → List (BitVec 512)
  | 0, _ => []
  | n + 1, l => BitVec.ofNat 512 (lanesNat 8 (l.take 64)) :: blocksOf n (l.drop 64)

/-- A block of an UPD has been read: new blocks follow once their operands are there, the narrow record once the whole
tile is (R407, R409, R410). -/
def updBlock (s : State) (die id : Nat) (c : Cmd) (key : Nat) (v : BitVec 512) : State :=
  match (s.die die).ox with
  | none => s
  | some o =>
    let pk := o.pk.getD s.now
    let c1 := { c with buf := mset c.buf key v }
    let j := key % 1024
    let need := if updOpt c = 0 then [0, 1, 2, 3] else [0, 1, 2]
    if !need.all fun i => (mget c1.buf (1024 * i + j)).isSome then s.modCmd die id fun _ => c1
    else
      let r := updBlocks (updOpt c) c1.buf o.factor j
      let c2 := { c1 with buf := need.foldl (fun b i => mdel b (1024 * i + j)) c1.buf }
      let s1 := modOx (s.modCmd die id fun _ => c2) die fun o => { o with out := mset o.out j r.1, evs := o.evs ++ r.2.2.2.filter fun e => e != 0 }
      let put (st : State) (i : Nat) (b : BitVec 512) : State := updStore st id c pk (recordAddr s c (updEs c o.tile) true (65536 * i + 64 * j)) b
      let s2 := put (put s1 0 r.1) 1 r.2.1
      let s3 := if updOpt c = 0 then put s2 2 r.2.2.1 else s2
      let out := ((oxCmd s3 die).map fun x => x.1.out).getD []
      if out.length < 1024 then s3
      else
        let nr := narrowRecord ((updFmt c.desc).getD .f32) (updRm c) (out.flatMap fun x => blockWords x.2)
        let s4 := modOx s3 die fun o => { o with evs := o.evs ++ nr.2.filter fun e => e != 0 }
        ((blocksOf 1024 nr.1).mapIdx fun i b => (i, b)).foldl (fun (st : State) x =>
          updStore st id c pk (recordAddr s c (updEn c o.tile) true (64 * x.1)) x.2) s4

/-! ### UPD: publication and end (R407, R411, R412) -/

/-- The whole shadow of an entry is discarded: every byte reads as zero (R229). -/
def discardEntry (s : State) (die asid n : Nat) : State :=
  match shadowEntry s die asid n with
  | none => s
  | some e =>
    if shVirt e then
      match resolveAddr s die asid .virt (shS e) with
      | some a => s.modDie die fun d => { d with dram := Mem.clear d.dram a (shSize e) }
      | none => s
    else
      match resolveAddr s die asid .scratch (shS e) with
      | some a => s.modDie die fun d => setMem s.now d .scratch (Mem.clear d.scratch a (shSize e))
      | none => s

/-- The status word (R412). -/
def updStatus (o : OxRun) : Nat := o.g0gcc % 2 ^ 32 + bit o.skip * 2 ^ 32 + bit o.bad * 2 ^ 33 + o.pubs * 2 ^ 48

def writeStatus (s : State) (o : OxRun) (c : Cmd) : State := performWrite s (oxWrite c o.cmd (dfield c.desc 32 8) 2 (updStatus o))

/-- UPD_COMPLETION: the status word is written in the cycle of the last publication, or in G0 of a skip (R407, R408). -/
def execUpdCompletion (s : State) : Host.Outcome State Fault Refusal :=
  match oxCmd s s.at_.die with
  | some (o, c) => .next (writeStatus s o c)
  | none => .next s

/-- A fault that an engine raises for the task that issued its command, or for its launch when the task is gone (R357,
R411). -/
def engineFault (s : State) (c : Cmd) (code : Nat) : State :=
  match s.task c.loc with
  | some t => if t.launch = c.launch && t.team = c.team && t.phase = .running then takeFault s c.loc (cmdFault c code) else ended
  | none => ended
where
  ended : State :=
    let (n, s1) := s.nextFree
    (s1.modLaunch c.launch fun x => { x with fault := firstFault x.fault (cmdGcc s c, c.loc.die, c.loc.core, code) }).postUnit
      (s.now + 1 + n % 4096) rkSwap (.faultPropagation c.launch)

/-- UPD_TILE_PUBLISH: both entries of the tile swap in one cycle; a pending write of another source ends the command
with the publish fault (R411). -/
def execUpdTilePublish (s : State) : Host.Outcome State Fault Refusal :=
  let die := s.at_.die
  match oxCmd s die with
  | none => .next s
  | some (o, c) =>
    let e1 := updEs c o.tile
    let e2 := updEn c o.tile
    if writePending s die c.asid e1 (some o.cmd) || writePending s die c.asid e2 (some o.cmd) then
      let s1 := writeStatus s { o with bad := true } c
      let s2 := discardEntry (discardEntry s1 die c.asid e1) die c.asid e2
      let s3 := endOx s2 die o.cmd
      .next (engineFault (s3.dropCmd die o.cmd) c 0x24)
    else
      let s1 := publishEntries (publishEntries s die c.asid e1 1) die c.asid e2 1
      let s2 := cmdEvents s1 c o.evs
      let s3 := modOx s2 die fun o => { o with pubs := o.pubs + 1, tile := o.tile + 1, pk := none }
      if o.tile + 1 < c.n then .next (s3.postDie die (s.now + 1) (rkRead - 1) .updTileStart)
      else
        .next ((s3.postDie die s.now rkSwap .updCompletion).postDie die (s.now + 1) rkCount (.muleCommandComplete die o.cmd))

end Sys2Proof.Machine
end

