-- ==== Sys2Proof/Machine/Longhaul.lean ====
section
/-! DEFINITION. The long-haul ports of die B: FARS and FARR (R353 to R356), the retry layer (R351, R352) and the loss of an
endpoint (R357). The peers are other campuses: what they send reaches the machine as events. -/

namespace Sys2Proof.Machine

/-! ### Times of the retry layer, in cycles of 3.6 GHz (R6, R352) -/

def ackEvery : Nat := 36000
def resendAfter : Nat := 28800000
def lossAfter : Nat := 360000000

/-- Where an endpoint of a port stands in the die's table; index 8 of a port holds the die's own decompressed blocks. -/
def epKey (port ep : Nat) : Nat := port * 16 + ep
def State.endpoint (s : State) (die key : Nat) : Endpoint := (mget (s.die die).endpoints key).getD {}
def State.modEndpoint (s : State) (die key : Nat) (f : Endpoint → Endpoint) : State :=
  s.modDie die fun d => { d with endpoints := mset d.endpoints key (f ((mget d.endpoints key).getD {})) }

/-! ### Issue and acceptance (R353, R354) -/

/-- The common part of FARS and FARR (R353). -/
def farOp (k : CmdKind) (h : FeHdr) (port : Fin 2) : Issue :=
  whenPred h.pr fun s t =>
    let c : Cmd := { newCmd s t k h h.cc.val with aux := port.val }
    if t.timed then s.fail 0x06
    else if !counterOk s s.at_.die t.ctl.asid h.cc.val then s.fail 0x22
    else if c.n = 0 then zeroCmd s c
    else awaitCmd s c

/-- FARS (R353). -/
def issueFars (h : FeHdr) (port : Fin 2) : Issue := farOp .fars h port
def execFars (h : FeHdr) (port : Fin 2) (s : State) : Host.Outcome State Fault Refusal := runSlot (issueFars h port) s

/-- FARR (R353). -/
def issueFarr (h : FeHdr) (port : Fin 2) : Issue := farOp .farr h port
def execFarr (h : FeHdr) (port : Fin 2) (s : State) : Host.Outcome State Fault Refusal := runSlot (issueFarr h port) s

def farMode (d : BitVec 512) : Nat := dfield d 0 4
def farStream (d : BitVec 512) : Nat := dfield d 4 4
def farsPeers (d : BitVec 512) : List Nat := (List.range 8).filter fun i => dfield d 8 2 / 2 ^ i % 2 = 1
def farrCampuses (d : BitVec 512) : Nat := dfield d 10 2 % 8 + 1
def farrSelf (d : BitVec 512) : Nat := dfield d 10 2 / 8 % 8

/-- The checks of FARS (R350, R353, R354). -/
def farsCheck (s : State) (c : Cmd) (d : BitVec 512) : Except FaultReq Cmd :=
  let die := c.loc.die
  let src := dfield d 40 8
  let efb := dfield d 48 8
  if !isDieB die || farMode d > 1 || farStream d ≥ 65536 || dfield d 8 2 ≥ 256 || dfield d 10 2 != 0 || dfield d 12 2 != 0 ||
      dfield d 14 2 != 0 || dfield d 16 24 != 0 || src % 1024 != 0 || src ≥ 2 ^ 52 || (farMode d = 0 && efb != 0) || efb % 64 != 0 ||
      efb ≥ 2 ^ 52 || c.n > 2 ^ 20 then .error (cmdFault c 0x1F)
  else
    let x := rangeCause s die c.asid src (1024 * c.n) true false
    let y := if farMode d = 1 then rangeCause s die c.asid efb (1024 * c.n) true true else none
    match x, y with
    | some k, _ => .error (cmdXlate c k)
    | none, some k => .error (cmdXlate c k)
    | none, none => .ok { c with
        desc := d, src, dst := efb, pages := (src, 1024 * c.n) :: if farMode d = 1 then [(efb, 1024 * c.n)] else [] }

/-- The checks of FARR (R350, R353, R354). -/
def farrCheck (s : State) (c : Cmd) (d : BitVec 512) : Except FaultReq Cmd :=
  let die := c.loc.die
  let dst := dfield d 40 8
  let sh := dfield d 14 2
  let bad : Except FaultReq Cmd := .error (cmdFault c 0x1F)
  if !isDieB die || farMode d > 1 || farStream d ≥ 65536 || dfield d 8 2 != 0 || dfield d 10 2 ≥ 64 || dfield d 12 2 != 0 ||
      sh / 4096 != 8 || dfield d 16 24 != 0 || dfield d 48 8 != 0 || dst % 1024 != 0 || dst ≥ 2 ^ 52 || c.n > 2 ^ 20 then bad
  else
    match shadowEntry s die c.asid (sh % 4096) with
    | none => bad
    | some e =>
      match toShadow e true dst (1024 * c.n) with
      | none => bad
      | some a =>
        match shadowCause s die c.asid e a (1024 * c.n) with
        | some k => .error (cmdXlate c k)
        | none => .ok { c with
            desc := d, dst := a, shdw := some (sh % 4096), left := 16 * c.n
            pages := if shVirt e then [(a, 1024 * c.n), (a - shS e + shV e, 1024 * c.n)] else [] }

/-! ### Sending (R352, R355) -/

/-- A frame of an endpoint is sent, or held back while the window is full (R352). -/
def sendFrame (s : State) (die port ep : Nat) (x : LhSent) : State :=
  let key := epKey port ep
  let e := s.endpoint die key
  if e.unacked.length ≥ 131072 then s.modEndpoint die key fun e => { e with held := e.held ++ [x] }
  else
    let y := { x with at_ := s.now, frame := { x.frame with seq := e.nextSeq, pn := e.nextPn } }
    let s1 := s.modEndpoint die key fun e =>
      { e with unacked := e.unacked ++ [y], nextSeq := e.nextSeq + 1, nextPn := e.nextPn + 1
               progress := if e.unacked.isEmpty then s.now else e.progress }
    (s1.modCmd die x.cmd fun c => { c with unsent := c.unsent - 1 }).postDie die (s.now + resendAfter) rkArrive
      (.longhaulResendTimeout die port ep e.nextSeq)

/-- Blocks of a unit's 1 KiB as bytes. -/
def blockBytes (b : BitVec 512) : List Byte := bytesOf b.toNat 64

/-- Units in a frame: eight raw, or one compressed group of 32 (R352, R355). -/
def groupUnits (d : BitVec 512) : Nat := if farMode d = 1 then 32 else 8

/-- A compressed block: the exponent, the codes, the new error feedback, the decompressed values, and the events (R355). -/
def compressBlock (x ef : List Nat) : Int × List Nat × List Nat × List Nat × List Evs :=
  let f : Fmt := .fp8 3
  let y := List.zipWith (fun a b => fadd .f32 a b) x ef
  let e := scaleExp (y.foldl (fun m v => maxMag m v.1) (fval .f32 0)) f
  let r := y.map fun v =>
    let q := cvt f .rne (scaleBy (fval .f32 v.1) (-e))
    let d := cvt .f32 .rne (scaleBy (fval f q.1) e)
    let fin := v.1 / 2 ^ 23 % 256 != 255
    let z := if fin then fsub .f32 v.1 d.1 else (0, 0)
    (q.1, z.1, d.1, v.2 ||| q.2 ||| d.2 ||| z.2)
  (e, r.map (·.1), r.map (fun v => v.2.1), r.map (fun v => v.2.2.1), r.map fun v => v.2.2.2)

/-- The f32 words of a decompressed block from its exponent and codes (R355). -/
def decompressBlock (l : List Byte) : List Nat :=
  match l with
  | e :: q => q.map fun c => (cvt .f32 .rne (scaleBy (fval (.fp8 3) c.toNat) (sextNat 8 e.toNat))).1
  | [] => []

def unitWords (c : Cmd) (key : Nat) : List Nat := (List.range 16).flatMap fun i => blockWords (rd c.buf (key + i))
def efbKey : Nat := 2 ^ 24
def newEfKey : Nat := 2 ^ 25

/-- Keeps the new error feedback of a unit until every peer has its frame (R357). -/
def putUnit (b : Map (BitVec 512)) (key : Nat) (ws : List Nat) : Map (BitVec 512) :=
  (List.range 16).foldl (fun b i => mset b (key + i) (BitVec.ofNat 512 (lanesNat 32 ((ws.drop (16 * i)).take 16)))) b

/-- The frame of a group is formed and sent to every endpoint of PEERS; Ox keeps its own decompressed blocks for the FARR
of the stream (R354, R355). -/
def sendGroup (s : State) (die id : Nat) (c : Cmd) (g : Nat) : State :=
  let n := groupUnits c.desc
  let us := (List.range n).filterMap fun i => if n * g + i < c.n then some (n * g + i) else none
  let comp := farMode c.desc = 1
  let blocks := us.map fun u => (u, compressBlock (unitWords c (16 * u)) (unitWords c (efbKey + 16 * u)))
  let data : List Byte :=
    if comp then blocks.map (fun x => BitVec.ofInt 8 x.2.1) ++ List.replicate (32 - us.length) 0 ++
      blocks.flatMap fun x => x.2.2.1.map (BitVec.ofNat 8)
    else us.flatMap fun u => (List.range 16).flatMap fun i => blockBytes (rd c.buf (16 * u + i))
  let buf := if comp then blocks.foldl (fun b x => putUnit b (newEfKey + 16 * x.1) x.2.2.2.1) c.buf else c.buf
  let s1 := s.modCmd die id fun c => { c with buf }
  let s2 := if comp then
      (s1.modEndpoint die (epKey c.aux 8) fun e => { e with
        data := e.data ++ blocks.map fun x => (farStream c.desc, x.1, BitVec.ofInt 8 x.2.1 :: x.2.2.1.map (BitVec.ofNat 8)) }).modCmd die id fun c =>
          { c with evs := c.evs ++ (blocks.flatMap fun x => x.2.2.2.2.2).filter fun e => e != 0 }
    else s1
  (farsPeers c.desc).foldl (fun (st : State) ep =>
    sendFrame st die c.aux ep
      { cmd := id, frame := { die, port := c.aux, ep, pn := 0, seq := 0, stream := farStream c.desc, block := n * g, intact := true, compressed := comp, data } }) s2

def groupCount (c : Cmd) : Nat := (c.n + groupUnits c.desc - 1) / groupUnits c.desc

/-- An accepted FARS reads its source, and in MODE 1 its error feedback (R225, R354, R355). -/
def startFars (s : State) (id : Nat) (c : Cmd) : State :=
  let die := c.loc.die
  let frames := groupCount c * (farsPeers c.desc).length
  let s0 := s.modCmd die id fun _ => { c with left := frames + (if farMode c.desc = 1 then 16 * c.n else 0), unsent := frames }
  let reads := (List.range (16 * c.n)).flatMap fun k => if farMode c.desc = 1 then [(c.src + 64 * k, k), (c.dst + 64 * k, efbKey + k)] else [(c.src + 64 * k, k)]
  reads.foldl (fun (st : State) x =>
    let (f, s1) := st.nextFree
    s1.postAccess (s1.now + 1 + f % 65536) none (blockAccess c id .virt x.1 x.2)) s0

/-- The error feedback of a group's units is written, from the next cycle on (R202, R354). -/
def writeEfb (s : State) (id : Nat) (c : Cmd) (block : Nat) : State :=
  if farMode c.desc != 1 then s
  else
    ((List.range 32).filterMap fun i => if block + i < c.n then some (block + i) else none).foldl (fun (st : State) u =>
      (List.range 16).foldl (fun (st : State) i =>
        st.postAccess (st.now + 1) none
          (blockWrite c id .virt 17 (c.dst + 64 * (16 * u + i)) (rd c.buf (newEfKey + 16 * u + i)) (BitVec.allOnes 512))) st) s

/-- A block of a FARS has been read; a group whose blocks are all there is sent, and behind the last group come the records of
the whole command's events (R88, R355). Without peers nothing is waited for. -/
def farsBlock (s : State) (die id : Nat) (c : Cmd) (key : Nat) (v : BitVec 512) : State :=
  let c1 := { c with buf := mset c.buf key v }
  let s1 := s.modCmd die id fun _ => c1
  let n := groupUnits c.desc
  let g := key % efbKey / 16 / n
  let here (k : Nat) : Bool := (List.range 16).all fun i => (mget c1.buf (k + i)).isSome
  let ready (u : Nat) : Bool := here (16 * u) && (farMode c.desc = 0 || here (efbKey + 16 * u))
  let us := (List.range n).filterMap fun i => if n * g + i < c.n then some (n * g + i) else none
  if us.all ready then
    let all := (List.range c.n).all ready
    let s2 := sendGroup s1 die id c1 g
    let s2 := if all then cmdEvents s2 c (((s2.cmd die id).map (·.evs)).getD []) else s2
    if (farsPeers c.desc).isEmpty then
      let s3 := writeEfb s2 id ((s2.cmd die id).getD c1) (n * g)
      if all && farMode c.desc = 0 then s3.postDie die s3.now rkCount (.muleCommandComplete die id) else s3
    else s2
  else s1

/-! ### Acknowledgements and resends (R352) -/

/-- Sent frames of a command and block that some peer has not acknowledged. -/
def groupOpen (d : Die) (port id block : Nat) : Bool :=
  (List.range 8).any fun ep =>
    let e := (mget d.endpoints (epKey port ep)).getD {}
    (e.unacked ++ e.held).any fun x => x.cmd = id && x.frame.block = block

/-- A frame has been acknowledged: once every peer has its group, the error feedback is written; the last acknowledgement
completes a FARS without error feedback, the last write one with it (R209, R354, R357). -/
def frameAcked (s : State) (die port : Nat) (x : LhSent) : State :=
  match s.cmd die x.cmd with
  | none => s
  | some c =>
    let s1 := s.modCmd die x.cmd fun c => { c with left := c.left - 1 }
    let s2 := if groupOpen (s1.die die) port x.cmd x.frame.block then s1 else writeEfb s1 x.cmd c x.frame.block
    if c.left = 1 then s2.postDie die s.now rkCount (.muleCommandComplete die x.cmd) else s2

/-- Held frames enter the window as it opens (R352). -/
def releaseHeld (s : State) (die port ep : Nat) : State :=
  let e := s.endpoint die (epKey port ep)
  let n := 131072 - e.unacked.length
  let s1 := s.modEndpoint die (epKey port ep) fun e => { e with held := e.held.drop n }
  (e.held.take n).foldl (fun st x => sendFrame st die port ep x) s1

/-- The error feedback of groups that every peer has acknowledged is written although its FARS ends (R357). -/
def keepEfb (ids : List Nat) (e : Ev) : Ev :=
  match e.what with
  | .accessPerform a =>
    if a.cls == .engine && a.port = 17 && ids.any (fun i => a.cmd = some i) then { e with what := .accessPerform { a with cmd := none } } else e
  | _ => e

/-- ENDPOINT_LOSS: every FARS and FARR on the port whose counter has not incremented ends with the far-port-loss fault
(R357). -/
def execEndpointLoss (die : Nat) (port ep : Nat) (s : State) : Host.Outcome State Fault Refusal :=
  let hit := (s.die die).cmds.filter fun e => (e.2.kind = .fars || e.2.kind = .farr) && e.2.aux = port && e.2.acc && e.2.n > 0
  let s1 := s.modEndpoint die (epKey port ep) fun e => { e with lost := true }
  let s2 := s1.modDie die fun d => { d with endpoints := d.endpoints.map fun x =>
    if x.1 / 16 = port then (x.1, { x.2 with unacked := x.2.unacked.filter (fun y => !(hit.any fun c => c.1 = y.cmd))
                                             held := x.2.held.filter fun y => !(hit.any fun c => c.1 = y.cmd) }) else x }
  let s3 := s2.errPush die 12 (errRecord 12 (unitField 12 0 port) 0 0x2B 0 (s.grp die) 0 [])
  let ids := (hit.filter fun e => e.2.kind = .fars).map (·.1)
  let s3 : State := { s3 with calendar := s3.calendar.map (keepEfb ids) }
  .next (hit.foldl (fun st e => engineFault (st.dropCmd die e.1) e.2 0x2B) s3)

/-- A frame is sent again as a new MACsec frame; the sixteenth time its endpoint is lost (R351, R352). -/
def resendFrame (s : State) (die port ep : Nat) (x : LhSent) : State :=
  let key := epKey port ep
  if x.resends ≥ 16 then s.postDie die s.now rkArrive (.endpointLoss die port ep)
  else
    let s1 := s.modEndpoint die key fun e => { e with
      nextPn := e.nextPn + 1
      unacked := e.unacked.map fun y => if y.frame.seq = x.frame.seq then { y with resends := y.resends + 1, at_ := s.now, frame := { y.frame with pn := e.nextPn } } else y }
    if x.resends = 15 then s1.postDie die s.now rkArrive (.endpointLoss die port ep)
    else s1.postDie die (s.now + resendAfter) rkArrive (.longhaulResendTimeout die port ep x.frame.seq)

/-- LONGHAUL_RESEND_TIMEOUT: a frame without acknowledgement for 8 ms is resent; without progress for 100 ms the endpoint is
lost (R352). -/
def execLonghaulResendTimeout (die : Nat) (port ep : Nat) (seq : Nat) (s : State) : Host.Outcome State Fault Refusal :=
  let e := s.endpoint die (epKey port ep)
  match e.unacked.find? fun x => x.frame.seq = seq with
  | none => .next s
  | some x =>
    if e.lost then .next s
    else if s.now ≥ e.progress + lossAfter then .next (s.postDie die s.now rkArrive (.endpointLoss die port ep))
    else if x.at_ + resendAfter > s.now then .next (s.postDie die (x.at_ + resendAfter) rkArrive (.longhaulResendTimeout die port ep seq))
    else .next (resendFrame s die port ep x)

/-- LONGHAUL_ACK_RECEIVE: `cum` is the first sequence number the peer lacks, bit i of the bitmap frame cum + 1 + i; frames
below a received one are missing and resent (R352). -/
def execLonghaulAckReceive (die : Nat) (port ep : Nat) (cum : Nat) (bitmap : Nat) (s : State) : Host.Outcome State Fault Refusal :=
  let key := epKey port ep
  let e := s.endpoint die key
  let has (n : Nat) : Bool := n < cum || (n > cum && n ≤ cum + 256 && bitmap / 2 ^ (n - cum - 1) % 2 = 1)
  let acked := e.unacked.filter fun x => has x.frame.seq
  let top := (List.range 256).foldl (fun m i => if bitmap / 2 ^ i % 2 = 1 then cum + 1 + i else m) 0
  let missing := e.unacked.filter fun x => !has x.frame.seq && x.frame.seq < top
  let s1 := s.modEndpoint die key fun e => { e with
    unacked := e.unacked.filter fun x => !has x.frame.seq, progress := if acked.isEmpty then e.progress else s.now }
  let s2 := acked.foldl (fun st x => frameAcked st die port x) s1
  let s3 := missing.foldl (fun st x => resendFrame st die port ep x) s2
  .next (releaseHeld s3 die port ep)

/-! ### Receiving (R352, R354, R356) -/

/-- The data of a unit of a stream that an endpoint holds. -/
def unitData (e : Endpoint) (stream u : Nat) : Option (List Byte) := (e.data.find? fun x => x.1 = stream && x.2.1 = u).map (·.2.2)
def dropUnit (e : Endpoint) (stream u : Nat) : Endpoint := { e with data := e.data.filter fun x => !(x.1 = stream && x.2.1 = u) }

/-- The words a FARR writes for unit u with their events, and the endpoints it took them from: one peer's raw unit, or the sum
over campuses in index order (R87, R354, R356). -/
def farrUnit (s : State) (die : Nat) (c : Cmd) (u : Nat) : Option (List (Nat × Evs) × List Nat) :=
  let st := farStream c.desc
  if farMode c.desc = 0 then
    (List.range 8).findSome? fun ep => (unitData (s.endpoint die (epKey c.aux ep)) st u).map fun b =>
      ((List.range 256).map fun i => (numOf ((b.drop (4 * i)).take 4), 0), [ep])
  else
    let src := (List.range (farrCampuses c.desc)).map fun i => if i = farrSelf c.desc then 8 else i
    let ds := src.filterMap fun ep => unitData (s.endpoint die (epKey c.aux ep)) st u
    if ds.length < src.length then none
    else
      let add (a : Nat × Evs) (b : Nat) : Nat × Evs := let x := fadd .f32 a.1 b; (x.1, a.2 ||| x.2)
      some (ds.foldl (fun acc d => List.zipWith add acc (decompressBlock d)) (List.replicate 256 (0, 0)), src)

/-- A unit of a FARR is written into the shadow, a block at a time, in cycles that are not fixed (R220, R226). -/
def writeUnit (s : State) (id : Nat) (c : Cmd) (u : Nat) (ws : List Nat) : State :=
  (List.range 16).foldl (fun (st : State) i =>
    let (f, s1) := st.nextFree
    s1.postAccess (s1.now + 1 + f % 65536) none
      (blockWrite c id .virt (19 + c.aux) (c.dst + 1024 * u + 64 * i) (BitVec.ofNat 512 (lanesNat 32 ((ws.drop (16 * i)).take 16))) (BitVec.allOnes 512))) s

/-- What a FARR can write now it writes; a written unit is marked in its buffer. -/
def farrProgress (s : State) (die id : Nat) : State :=
  match s.cmd die id with
  | none => s
  | some c =>
    (List.range c.n).foldl (fun (st : State) u =>
      match st.cmd die id with
      | none => st
      | some c =>
        if (mget c.buf u).isSome then st
        else
          match farrUnit st die c u with
          | none => st
          | some (ws, src) =>
            let s1 := st.modCmd die id fun c => { c with buf := mset c.buf u 0, evs := c.evs ++ (ws.map (·.2)).filter fun e => e != 0 }
            writeUnit (src.foldl (fun st ep => st.modEndpoint die (epKey c.aux ep) fun e => dropUnit e (farStream c.desc) u) s1) id c u (ws.map (·.1))) s

/-- Every FARR of a port goes on with what has arrived. -/
def farrAll (s : State) (die port : Nat) : State :=
  ((s.die die).cmds.filter fun e => e.2.kind = .farr && e.2.aux = port && e.2.acc && e.2.n > 0).foldl (fun st e => farrProgress st die e.1) s

/-- The units of a frame: raw units of 1 KiB, or an exponent and 256 codes each (R352, R355). -/
def frameUnits (f : LhFrame) : List (Nat × Nat × List Byte) :=
  if f.compressed then
    (List.range 32).filterMap fun i =>
      let q := (f.data.drop (32 + 256 * i)).take 256
      if q.length = 256 then some (f.stream, f.block + i, nth 0 f.data i :: q) else none
  else
    (List.range 8).filterMap fun i =>
      let q := (f.data.drop (1024 * i)).take 1024
      if q.length = 1024 then some (f.stream, f.block + i, q) else none

/-- The cumulative number after the frames beyond it close up. -/
def cumGo : Nat → Nat → List Nat → Nat
  | 0, c, _ => c
  | n + 1, c, l => if l.contains c then cumGo n (c + 1) l else c

/-- LONGHAUL_FRAME_RECEIVE: a frame that fails its integrity or its replay check is dropped and counted; another is taken
once, by its sequence number (R351, R352). -/
def execLonghaulFrameReceive (f : LhFrame) (s : State) : Host.Outcome State Fault Refusal :=
  let key := epKey f.port f.ep
  let e := s.endpoint f.die key
  if !f.intact || !e.valid || e.pns.contains f.pn || f.pn + 2 ^ 20 ≤ e.pnMax then
    .next (s.modEndpoint f.die key fun e => { e with dropped := e.dropped + 1 })
  else
    let s1 := s.modEndpoint f.die key fun e =>
      let top := Nat.max e.pnMax f.pn
      { e with pnMax := top, pns := (f.pn :: e.pns).filter fun p => p + 2 ^ 20 > top }
    if f.seq < e.cum || e.got.contains f.seq then .next s1
    else
      let got := f.seq :: e.got
      let cum := cumGo got.length e.cum got
      let s2 := s1.modEndpoint f.die key fun e =>
        { e with cum, got := got.filter (fun x => x ≥ cum), data := e.data ++ frameUnits f, sinceAck := e.sinceAck + 1 }
      let s3 := if e.sinceAck = 0 then s2.postDie f.die (s.now + ackEvery) rkArrive (.longhaulAckSend f.die f.port f.ep) else s2
      let s4 := if e.sinceAck = 4095 then s3.postDie f.die s.now rkArrive (.longhaulAckSend f.die f.port f.ep) else s3
      .next (farrAll s4 f.die f.port)

/-- LONGHAUL_ACK_SEND: a cumulative acknowledgement with a bitmap of 256 frames (R352). -/
def execLonghaulAckSend (die : Nat) (port ep : Nat) (s : State) : Host.Outcome State Fault Refusal :=
  let key := epKey port ep
  let e := s.endpoint die key
  if e.sinceAck = 0 then .next s
  else
    let map := e.got.foldl (fun m n => if n > e.cum && n ≤ e.cum + 256 then m ||| 2 ^ (n - e.cum - 1) else m) 0
    .next (s.modEndpoint die key fun e => { e with acked := (e.cum, map), sinceAck := 0 })

end Sys2Proof.Machine
end

