-- ==== Sys2Proof/Machine/Engines.lean ====
section
/-! DEFINITION. What the engines do over time: accesses perform (R220), commands are accepted (R207) and complete (R209),
refresh windows (R202), and moves of residual frames to and from the CXL tier (R218). -/

namespace Sys2Proof.Machine

/-! ### Acceptance (R207, R353, R402) -/

/-- The oldest command of a core that is not accepted yet. -/
def pendingCmd (d : Die) (l : Loc) : Option (Nat × Cmd) := d.cmds.find? fun e => e.2.loc = l && !e.2.acc && e.2.n > 0

/-- What acceptance answers: the fault, a wait because a queue is full or a bank is held, or the state with the command
accepted. -/
def acceptCmd (s : State) (id : Nat) (c : Cmd) : Except FaultReq (Option State) :=
  let die := c.loc.die
  match cmdDesc s c with
  | .error k => .error (cmdFault c k)
  | .ok d =>
    match c.kind with
    | .mcpy =>
      match mcpyCheck s c d with
      | .error q => .error q
      | .ok c1 =>
        let m := pickMule (s.die die) (c.loc.core / 32)
        if muleQueue (s.die die) m ≥ 32 || cmdHeld s c1 then .ok none
        else
          let c2 := { c1 with acc := true, mule := m }
          .ok (some (startMcpy (s.modCmd die id fun _ => c2) id c2))
    | .mbulk => .ok (some s)
    | .norm =>
      match normCheck s c d with
      | .error q => .error q
      | .ok c1 => queued c1
    | .upd =>
      match updCheck s c d with
      | .error q => .error q
      | .ok c1 => queued c1
    | .fars =>
      match farsCheck s c d with
      | .error q => .error q
      | .ok c1 =>
        if cmdHeld s c1 then .ok none
        else let c2 := { c1 with acc := true }; .ok (some (startFars (s.modCmd die id fun _ => c2) id c2))
    | .farr =>
      match farrCheck s c d with
      | .error q => .error q
      | .ok c1 =>
        if cmdHeld s c1 then .ok none else .ok (some (farrProgress (s.modCmd die id fun _ => { c1 with acc := true }) die id))
where
  /-- An Ox command enters the queue; a command of a region is there since its issue. -/
  queued (c1 : Cmd) : Except FaultReq (Option State) :=
    let die := c.loc.die
    if c.timed then .ok (some (kickOx (s.modCmd die id fun _ => { c1 with acc := true }) die))
    else if (s.die die).oxq.length ≥ 16 || cmdHeld s c1 then .ok none
    else
      let (f, s1) := s.nextFree
      .ok (some (kickOx ((s1.modCmd die id fun _ => { c1 with acc := true, from_ := s.now + 1 + f % 65536 }).modDie die
        fun d => { d with oxq := d.oxq ++ [id] }) die))

/-- COMMAND_ACCEPTANCE: in free code the checkpoint is taken and the core goes on; a fault leaves none of the command
(R207, R402). While a queue is full the core's own STALL_END counts the stall cycles. -/
def execCommandAcceptance (s : State) : Host.Outcome State Fault Refusal :=
  let l := s.at_
  match s.task l, pendingCmd (s.die l.die) l with
  | some t, some (id, c) =>
    if t.phase != .running || (!c.timed && t.wait != .accept) then .next s
    else
      match acceptCmd s id c with
      | .error q => .next (takeFault (s.dropCmd l.die id) l q)
      | .ok none => .next (s.postCore l (s.now + 1) rkIssue .commandAcceptance)
      | .ok (some s1) =>
        if c.timed then .next s1
        else .next (((checkpoint (delayCore s1 l) l).modTask l fun t => { t with wait := .none }).postIssue (s.now + 1) l)
  | _, _ => .next s

/-- MULE_COMMAND_COMPLETE: the counter increments in issue order; Ox goes on with its next command (R209, R402, R403, R407). -/
def execMuleCommandComplete (die : Nat) (id : Nat) (s : State) : Host.Outcome State Fault Refusal :=
  match s.cmd die id with
  | none => .next s
  | some _ => .next (finishCmd (endOx s die id) die id)

/-! ### Engine blocks and accesses (R220, R225) -/

/-- An engine has read a block of its source; a poisoned block delivers none of its data (R205, R225). -/
def engineRead (s : State) (a : Access) (k : Nat) : State :=
  match a.cmd.bind fun id => (s.cmd a.die id).map fun c => (id, c) with
  | none => s
  | some (id, c) =>
    let s := correctAccess s a
    match readPoison s a with
    | some d => s.postUnit s.now rkArrive (.uncorrectableMemoryError a.die d (unitField (if dpaHbm d then 7 else 8) (dpaStack d) (dpaPc d)))
    | none =>
      let v := (readValue s a).setWidth 512
      match c.kind with
      | .mcpy => mcpyBlock s id c k v
      | .mbulk => s.modCmd a.die id fun c => { c with buf := mset c.buf k v }
      | .norm => normBlock s a.die id c k v
      | .upd => updBlock s a.die id c k v
      | .fars => farrAll (farsBlock s a.die id c k v) a.die c.aux
      | .farr => s

/-- A write of a command has performed; the last one of an MCPY, a FARS or a FARR completes it, and records a FARR's events
(R88, R209). -/
def engineDone (s : State) (die id : Nat) : State :=
  match s.cmd die id with
  | none => s
  | some c =>
    if c.kind != .mcpy && c.kind != .farr && c.kind != .fars then s
    else
      let s1 := s.modCmd die id fun c => { c with left := c.left - 1 }
      if c.left = 1 then
        let (f, s2) := (if c.kind = .farr then cmdEvents s1 c c.evs else s1).nextFree
        s2.postDie die (s2.now + f % 4096) rkCount (.muleCommandComplete die id)
      else s1

/-- The command of an engine access still exists. -/
def cmdLives (s : State) (a : Access) : Bool :=
  match a.cls, a.cmd with
  | .engine, some id => (s.cmd a.die id).isSome
  | _, _ => true

/-- A walk's later reads of this cycle see its writes that perform in it (R193). -/
def noteWalk (s : State) (a : Access) : State :=
  if a.rev && a.mem == .scratch then
    s.modDie a.die fun d => { d with walked := (s.now, (if d.walked.1 = s.now then d.walked.2 else []) ++ [a]) }
  else s

/-! ### Requests through an aperture (R222, R231, R319) -/

/-- A remote access has performed, or its value has landed: the task no longer waits for it (R231, R236). -/
def remDone (s : State) (l : Loc) (id : Nat) : State :=
  s.modTask l fun t => { t with rems := t.rems.filter fun x => x.2 != id }

/-- The page's leaf is pinned. -/
def leafPinned (s : State) (xyz asid va : Nat) : Bool :=
  match s.ctx xyz asid with
  | some c => match pageWalk xyz c va with
    | .ok (e, _) => ptePin e
    | .error _ => false
  | none => false

/-- A request fails at its target (R319). -/
def requestFails (s : State) (r : ApReq) : Bool :=
  let rd := match r.kind with | some none => false | _ => true
  let wr := r.kind.isSome
  let live := match s.ctx r.dst r.tasid with
    | some c => !c.killed
    | none => false
  let timed := (s.die r.dst).tasks.any fun t => t.2.ctl.asid = r.tasid && t.2.timed && t.2.phase = .running
  !live || (match xlate s r.dst r.tasid r.va rd wr with | .dpa _ => false | _ => true) || (timed && !leafPinned s r.dst r.tasid r.va)

/-- A value that goes back to the task that asked for it. -/
def answer (s : State) (r : ApReq) (launch : Nat) (v : Vec) (evs : List Evs) : State :=
  match r.land with
  | some x =>
    s.sendCounted { at_ := r.dst, dst := r.src, src := r.dst, launch, asid := r.sasid
                    body := .answer r.loc { x with val := v, evs := elemEvents evs } r.id }
  | none => s

/-- Where a request that waited for a held page goes now: it translates afresh at its source (R320). -/
def translated (s : State) (r : ApReq) : ApReq :=
  let rd := match r.kind with | some none => false | _ => true
  match xlate s r.src r.sasid r.sva rd r.kind.isSome with
  | .dpa _ => { r with dst := r.src, tasid := r.sasid, va := r.sva, waited := false }
  | .away e _ => { r with dst := apDie e, tasid := apAsid e, va := (r.sva + apOffset e) % 2 ^ 52, waited := false }
  | .bad _ => { r with waited := false }

/-- A request that met a held page looks again in the next cycle; once the page is released it performs, or goes on to where
its page lies now (R320). -/
def requestWaits (s : State) (a : Access) (r : ApReq) : Option State :=
  if held s r.dst r.tasid a.shape.base (a.shape.w * a.shape.n) then
    some (s.postAccess (s.now + 1) none { a with op := .request { r with waited := true } })
  else if r.waited && translated s r != { r with waited := false } then
    some (s.sendCounted { at_ := r.dst, dst := (translated s r).dst, src := r.src, launch := a.launch, asid := r.sasid
                          body := .request (translated s r) })
  else none

/-- A request performs: the target walks TASID's tables; a failure is a remote error: a record at the target and a kill
notice to the source (R319). -/
def requestPerform (s : State) (a : Access) (r : ApReq) : State :=
  if requestFails s r then
    let s1 := s.errPush r.dst 5 (errRecord 5 (unitField 14 0 0) (r.sasid + 2 ^ 15) 0x2C 0 (s.grp r.dst) r.src [])
    s1.sendCounted { at_ := r.dst, dst := r.src, src := r.dst, launch := a.launch, asid := r.sasid, body := .kill r.sasid a.launch }
  else
    let s1 := correctAccess s a
    match r.kind, readPoison s1 a with
    | some none, _ => remDone (performWrite s1 { a with op := .write }) r.loc r.id
    | _, some d => s1.postUnit s.now rkArrive (.uncorrectableMemoryError r.dst d (unitField 14 0 0))
    | none, none => answer s1 r a.launch (readValue s1 a) []
    | some (some op), none =>
      let x := rmwElems (atomWord op) r.data.toNat (resolved s1 a) (s1.die r.dst).dram
      let old := x.2.1.foldl (fun n e => n + e.2) 0
      let s2 := noteShadows s1 a |>.modDie r.dst fun d => { d with dram := x.1 }
      answer s2 r a.launch (BitVec.ofNat 4096 old) x.2.2

/-! ### Accesses perform (R202, R214, R220, R222, R310) -/

/-- The walk of an access to main memory by virtual address leaves its translation in the TLB; a timed access is translated
through the pinned store alone (R310, R316). -/
def walked (s : State) (a : Access) : State :=
  if a.mem == .virt && !a.timed then tlbFillRange s a.die a.asid a.shape.base (a.shape.w * a.shape.n) else s

/-- ACCESS_PERFORM: an access takes effect at its location in this cycle (R220, R222); traffic to main memory waits for the
end of a refresh window and for a bank that is reserved (R202, R214). -/
def execAccessPerform (a : Access) (s : State) : Host.Outcome State Fault Refusal :=
  if !cmdLives s a then .next s
  else
    let w := memWait s a
    if w > 0 then .next (s.postAccess (s.now + w) none a)
    else
      let s := walked s a
      match a.op with
      | .read => .next (performRead s a)
      | .fetch _ _ => .next (performRead s a)
      | .block k => .next (engineRead s a k)
      | .segOut core g k => .next (segOutBlock s a core g k)
      | .segIn core g k => .next (segInBlock s a core g k)
      | .publish e n => .next (publishEntries s a.die a.asid e n)
      | .request r => .next ((requestWaits s a r).getD (requestPerform s a r))
      | _ =>
        let s1 := noteWalk (performWrite s a) a
        match a.cls, a.cmd with
        | .engine, some id => .next (engineDone s1 a.die id)
        | _, _ => .next s1

/-- REFRESH_WINDOW: the accesses to main memory that would perform in the window move behind it (R202). -/
def execRefreshWindow (s : State) : Host.Outcome State Fault Refusal :=
  let die := s.at_.die
  let stay (e : Ev) : Bool :=
    match e.what with
    | .accessPerform a => !(a.die = die && a.mem != .scratch && decide (e.due < s.now + 256))
    | _ => true
  let moved := (s.calendar.filter fun e => !stay e).map fun e => { e with due := s.now + 256 }
  let s1 := { s with calendar := moved.foldl (fun c e => calInsert e c) (s.calendar.filter stay) }
  .next (s1.postDie die (s.now + 1 + (16128 + 16383 - s.grp die % 16384) % 16384) 0 .refreshWindow)

/-! ### The CXL tier (R218) -/

/-- The end of a frame of the stack: the next frame's start, or TOP. -/
def frameEnd (t : Task) (start : Nat) : Nat := ((t.arch.frames.find? fun f => f.start > start).map (·.start)).getD t.arch.top

/-- The segments that hold any byte of a frame. -/
def frameSegs (t : Task) (start : Nat) : List Nat := segsOf start (frameEnd t start - start)

/-- What a frame occupies in the tier: a header and its compressed blocks, never above the bound, in 64 B units (R218). -/
def storedBytes (b : List Byte) : Nat :=
  let n := b.length
  (Nat.min (64 + (Config.compress b).length) (64 + n + (n + 63) / 64) + 63) / 64 * 64

/-- CRC-32C: the Castagnoli polynomial, reflected, with all-ones start and end (R218; PRESUMED, log entry 90). -/
def crcBit (c : Nat) : Nat := if c % 2 = 1 then c / 2 ^^^ 0x82F63B78 else c / 2
def crcByte (c : Nat) (b : Byte) : Nat := (List.range 8).foldl (fun c _ => crcBit c) (c ^^^ b.toNat)
def crc32c (l : List Byte) : Nat := l.foldl crcByte 0xFFFFFFFF ^^^ 0xFFFFFFFF

/-- The header of a frame in the tier (R218; its identifier is the frame's place on the stack, log entry 90). -/
def cxlHeader (start stored : Nat) (b : List Byte) : BitVec 512 :=
  BitVec.ofNat 512 (pack [(64, b.length), (64, stored), (64, start), (32, crc32c b)])

/-- Where the 64 B blocks of a frame's place in the spill area lie, when every page is there. -/
def frameAddrs (s : State) (die asid base start n : Nat) : Option (List Nat) :=
  (List.range (n / 64)).mapM fun k =>
    match xlateUnit s die asid (remap (shadowsOf s die asid) true (base + start + 64 * k)) true true with
    | .ok a => some a
    | .error _ => none

/-- A frame goes back to its place in the spill area and leaves the tier; bytes that do not match its CRC are an
uncorrectable error (R205, R218). -/
def returnFrame (s : State) (f : CxlFrame) (base : Nat) : State :=
  let die := f.loc.die
  match frameAddrs s die f.asid base f.start f.bytes.length with
  | none => s
  | some as =>
    if bits f.header.toNat 223 192 != crc32c f.bytes then
      s.postUnit s.now rkArrive (.uncorrectableMemoryError die (as.headD 0) (unitField 8 0 0))
    else
      let s1 := (as.mapIdx fun k a => (k, a)).foldl (fun (st : State) x =>
        st.modDie die fun d => { d with dram := Mem.wrBytes d.dram x.2 ((f.bytes.drop (64 * x.1)).take 64) }) s
      forgetFrame s1 f.loc f.start

/-- The segments of a task whose bytes the tier holds are marked. -/
def markTier (s : State) (l : Loc) (gs : List Nat) : State :=
  s.modTask l fun t => gs.foldl (fun t g =>
    match segState t g with
    | some x => setSeg t g { x with cxl := (tierFrame s l t.launch g).isSome }
    | none => t) t

/-- CXL_FRAME_MOVE: Ebile moves a whole AWAY frame between the spill area and the CXL tier, outside regions only; a move
beyond the quota is refused and recorded (R218, R271). -/
def execCxlFrameMove (l : Loc) (frame : Nat) (toCxl : Bool) (s : State) : Host.Outcome State Fault Refusal :=
  match s.task l with
  | none => .next s
  | some t =>
    let gs := frameSegs t frame
    let away := gs.all fun g => (segState t g).any fun x => x.st == .away
    let key := coreOrd l * 2 ^ 40 + frame
    if t.timed || !away || !t.arch.frames.any (fun f => f.start = frame && f.kind != 3) then .next s
    else if toCxl then
      match s.ctx l.die t.ctl.asid, frameAddrs s l.die t.ctl.asid t.res.spillBase frame (frameEnd t frame - frame) with
      | some c, some as =>
        let b := as.flatMap fun a => Mem.bytes (s.die l.die).dram a 64
        let n := storedBytes b
        if (mget (s.die l.die).frames key).isSome then .next s
        else if c.cxlUsed + n > c.quota then
          .next (s.errPush l.die 7 (errRecord 7 (unitField 8 0 0) (t.ctl.asid + 2 ^ 15) 0 frame (s.gcc l t) 0 []))
        else
          let s1 := (s.modCtx l.die t.ctl.asid fun c => { c with cxlUsed := c.cxlUsed + n }).modDie l.die fun d =>
            { d with frames := mset d.frames key { asid := t.ctl.asid, loc := l, launch := t.launch, start := frame
                                                   header := cxlHeader frame n b, bytes := b, stored := n } }
          .next (markTier s1 l gs)
      | _, _ => .next s
    else
      match mget (s.die l.die).frames key with
      | none => .next s
      | some f => .next (controllerWork (markTier (returnFrame s f t.res.spillBase) l gs) l)

end Sys2Proof.Machine
end

