-- ==== Sys2Proof/Machine/Seq.lean ====
section
/-! DEFINITION. The sequencer operations and their neighbours: branches (R108), loops (R97), and R110 to R115. -/

namespace Sys2Proof.Machine

/-! ### Branches (R40, R108) -/

/-- A bundle index from a signed displacement; one outside the index range stays outside (R108). -/
def branchTarget (pc : Nat) (off : Int) : Nat := (((pc : Int) + off) % (2 ^ 64 : Nat)).toNat

/-- A taken branch: the target follows the two delay bundles (R40). -/
def takeBranch (s : State) (target : Nat) : State :=
  s.modTask s.at_ fun t => { t with fetch := { t.fetch with br := some target } }

/-- BR (R108). -/
def issueBr (p : Fin 16) (off : BitVec 22) : Issue :=
  whenPred p fun s t => .ok (takeBranch s (branchTarget t.fetch.pc off.toInt))
def execBr (p : Fin 16) (off : BitVec 22) (s : State) : Host.Outcome State Fault Refusal := runSlot (issueBr p off) s

/-- BRP: taken when PR and ps are both true (R108). -/
def issueBrp (p : Fin 16) (ps : Fin 16) (off : BitVec 18) : Issue :=
  whenPred p fun s t =>
    if t.arch.pred ps.val then .ok (takeBranch s (branchTarget t.fetch.pc off.toInt)) else .ok s
def execBrp (p : Fin 16) (ps : Fin 16) (off : BitVec 18) (s : State) : Host.Outcome State Fault Refusal :=
  runSlot (issueBrp p ps off) s

/-- JMP: a register above the index range makes the fetch fault (R108). -/
def issueJmp (p : Fin 16) (a : Fin 32) : Issue :=
  whenPred p fun s t => .ok (takeBranch s (t.arch.rx a.val).toNat)
def execJmp (p : Fin 16) (a : Fin 32) (s : State) : Host.Outcome State Fault Refusal := runSlot (issueJmp p a) s

/-- CALL: x31 receives the own index + 3 with latency 1 (R41, R108). -/
def issueCall (p : Fin 16) (off : BitVec 22) : Issue :=
  whenPred p fun s t =>
    .ok ((takeBranch s (branchTarget t.fetch.pc off.toInt)).emitX t 1 31 (BitVec.ofNat 64 (t.fetch.pc + 3)))
def execCall (p : Fin 16) (off : BitVec 22) (s : State) : Host.Outcome State Fault Refusal :=
  runSlot (issueCall p off) s

/-- RET: to the index x31 holds at issue (R41, R108). -/
def issueRet (p : Fin 16) : Issue :=
  whenPred p fun s t => .ok (takeBranch s (t.arch.rx 31).toNat)
def execRet (p : Fin 16) (s : State) : Host.Outcome State Fault Refusal := runSlot (issueRet p) s

/-! ### Loops (R97) -/

/-- A level opened at `lv`: the levels above are discarded, p1 to p3 follow (R94, R97). -/
def openLevel (a : Arch) (pc lv cnt : Nat) (idx str : Word) : Arch :=
  ({ a with
    levels := a.levels.set lv { cnt, idx, str, start := pc + 1, lend := 0, first := true, null := cnt = 0, idx0 := idx
                                cnt0 := cnt, ec0 := a.ec, pass := 1 }
    ldepth := lv + 1 } : Arch).derive

/-- The common part of LOOP and LOOPI (R97). -/
def loopOp (s : State) (t : Task) (lv cnt : Nat) (idx str : Word) : Res :=
  if lv > t.arch.ldepth then s.fail 0x02
  else .ok (s.modTask s.at_ fun t => { t with arch := openLevel t.arch t.fetch.pc lv cnt idx str })

/-- LOOP (R97). -/
def issueLoop (p : Fin 16) (lv : Fin 8) (xc xs : Fin 32) (stride : BitVec 9) : Issue :=
  whenPred p fun s t =>
    loopOp s t lv.val ((t.arch.rx xc.val).toNat % 2 ^ 32) (t.arch.rx xs.val) (stride.signExtend 64)
def execLoop (p : Fin 16) (lv : Fin 8) (xc xs : Fin 32) (stride : BitVec 9) (s : State) :
    Host.Outcome State Fault Refusal := runSlot (issueLoop p lv xc xs stride) s

/-- LOOPI (R97). -/
def issueLoopi (p : Fin 16) (lv : Fin 8) (count : BitVec 13) (stride : BitVec 6) : Issue :=
  whenPred p fun s t => loopOp s t lv.val count.toNat 0 (stride.signExtend 64)
def execLoopi (p : Fin 16) (lv : Fin 8) (count : BitVec 13) (stride : BitVec 6) (s : State) :
    Host.Outcome State Fault Refusal := runSlot (issueLoopi p lv count stride) s

/-! ### The end of a task, traps and pre-emption points (R110) -/

/-- EXIT: in free code the task ends once everything in flight has landed and performed; in a timed region it is the
region-rule fault (R19, R110). -/
def issueExit (p : Fin 16) : Issue :=
  whenPred p fun s t =>
    if t.timed then s.fail 0x09
    else .ok ((s.modTask s.at_ fun t => { t with wait := .exit }).postCore s.at_ s.now rkCount .taskRetire)
def execExit (p : Fin 16) (s : State) : Host.Outcome State Fault Refusal := runSlot (issueExit p) s

/-- TRAP: the program-trap fault with its immediate (R110, R113). -/
def issueTrap (p : Fin 16) (code : BitVec 16) : Issue :=
  whenPred p fun s _ => .fault { code := 0x05, slot := s.slot.code, imm := code.toNat }
def execTrap (p : Fin 16) (code : BitVec 16) (s : State) : Host.Outcome State Fault Refusal :=
  runSlot (issueTrap p code) s

/-- YIELD: a pre-emption pending for the core lands here (R110, R297); in a timed region the region-rule fault. -/
def issueYield (p : Fin 16) : Issue :=
  whenPred p fun s t =>
    if t.timed then s.fail 0x09
    else if t.stop = .none || !t.fetch.straight then .ok s
    else .ok (s.postCore s.at_ s.now rkCount .taskStop)
def execYield (p : Fin 16) (s : State) : Host.Outcome State Fault Refusal := runSlot (issueYield p) s

/-! ### Event flags (R110, R111) -/

/-- WFE: waits for its flag and clears it; in a timed region a clear flag is the region-rule fault (R110). -/
def issueWfe (p : Fin 16) (ev : Fin 16) : Issue :=
  whenPred p fun s t =>
    if t.ev.getLsbD ev.val then
      .ok (s.modTask s.at_ fun t => { t with ev := t.ev &&& ~~~(BitVec.ofNat 16 (2 ^ ev.val)) })
    else if t.timed then s.fail 0x09
    else .stall (.wfe ev.val)
def execWfe (p : Fin 16) (ev : Fin 16) (s : State) : Host.Outcome State Fault Refusal := runSlot (issueWfe p ev) s

/-- SEV: sets a flag of a team member at the later of issue + 4 and the last released store (R111). -/
def issueSev (p : Fin 16) (ev : Fin 16) (a : Fin 32) : Issue :=
  whenPred p fun s t =>
    let ra := (t.arch.rx a.val).toNat
    if ra ≥ t.ctl.teamsz then s.fail 0x07
    else
      let due := if t.timed then s.now + 4 else Nat.max (s.now + 4) (releaseBound s s.at_ t)
      .ok (s.postUnit due rkFlag (.eventFlagSet { die := s.at_.die, team := t.team } ra ev))
def execSev (p : Fin 16) (ev : Fin 16) (a : Fin 32) (s : State) : Host.Outcome State Fault Refusal :=
  runSlot (issueSev p ev a) s

/-! ### Barriers (R112) -/

/-- BAR: the member arrives and waits; once the barrier is complete the bundle issues, and the next one follows at
L + 8. In a timed region it is the region-rule fault (R110, R112). -/
def issueBar (p : Fin 16) (b : Fin 4) : Issue :=
  whenPred p fun s t =>
    if t.timed then s.fail 0x09
    else
      match s.team s.at_.die t.team with
      | none => .stall (.bar b.val)
      | some tm =>
        let bar := nth {} tm.bars b.val
        match bar.go, bar.arr.any (fun a => a.1 = t.ctl.taskix) with
        | some l, true =>
          let s1 := s.modTeam s.at_.die t.team fun x => x.modBar b.val fun y =>
            let rest := y.arr.filter fun a => a.1 != t.ctl.taskix
            { arr := rest, go := if rest.isEmpty then none else y.go }
          let s2 := s1.modTask s.at_ fun t => { t with wait := .barHold }
          .ok (s2.postIssue (Nat.max (l + 8) (s.now + 1)) s.at_)
        | _, _ => .stall (.bar b.val)
def execBar (p : Fin 16) (b : Fin 4) (s : State) : Host.Outcome State Fault Refusal := runSlot (issueBar p b) s

/-! ### Alignment and the timed region (R19, R22, R114) -/

/-- The common part of ALIGN and TENTER: the target must lie within ALSLACK of GRP (R114). -/
def alignOp (s : State) (t : Task) (target : Word) (enter : Bool) : Res :=
  let g := s.grp s.at_.die
  let d : Int := (target.toNat : Int) - g
  if d.natAbs > t.arch.alslack then s.fail 0x08
  else
    .ok ((s.modTask s.at_ fun t => { t with wait := .align target.toNat enter }).postCore s.at_ (s.now + 1) rkIssue
      .alignWaitEnd)

/-- ALIGN (R114). -/
def issueAlign (p : Fin 16) (a : Fin 32) : Issue :=
  whenPred p fun s t => alignOp s t (t.arch.rx a.val) false
def execAlign (p : Fin 16) (a : Fin 32) (s : State) : Host.Outcome State Fault Refusal := runSlot (issueAlign p a) s

/-- TENTER: in a region the region-rule fault, in a grid launch the illegal-regime fault (R19, R110, R114). -/
def issueTenter (p : Fin 16) (a : Fin 32) : Issue :=
  whenPred p fun s t =>
    if t.timed then s.fail 0x09
    else if !t.ctl.gang then s.fail 0x06
    else alignOp s t (t.arch.rx a.val) true
def execTenter (p : Fin 16) (a : Fin 32) (s : State) : Host.Outcome State Fault Refusal := runSlot (issueTenter p a) s

/-- TEXIT: the region ends for this core and the next bundle is held (R22); in free code the illegal-regime fault. -/
def issueTexit (p : Fin 16) : Issue :=
  whenPred p fun s t =>
    if !t.timed then s.fail 0x06
    else
      .ok (((leaveRegion s s.at_ t).modTask s.at_ fun t => { t with wait := .texit }).postCore s.at_
        (Nat.max s.now (regionEnd s s.at_ t) + 1) rkIssue .texitHoldEnd)
def execTexit (p : Fin 16) (s : State) : Host.Outcome State Fault Refusal := runSlot (issueTexit p) s

/-! ### Tiles (R115, R292) -/

/-- The lanes of the dispenser's answer (R115, R292). -/
def tileAnswer (tm : Team) (d : LaunchDesc) : Vec :=
  if tm.nx < tm.en then
    ofLanes 32 [tm.nx % d.tiles.1, tm.nx / d.tiles.1 % d.tiles.2.1, tm.nx / (d.tiles.1 * d.tiles.2.1), 0]
  else ofLanes 32 [0, 0, 0, 1]

/-- NTREQ: the next tile of the team lands 8 cycles after issue (R115, R292). -/
def issueNtreq (p : Fin 16) (vd : Fin 64) : Issue :=
  whenPred p fun s t =>
    match s.team s.at_.die t.team with
    | none => .ok (s.emitV t 8 vd.val (ofLanes 32 [0, 0, 0, 1]) (BitVec.allOnes 512) [])
    | some tm =>
      let d := ((s.launch t.launch).map (·.descOn s.at_.die)).getD {}
      let s1 := s.modTeam s.at_.die t.team fun x => if x.nx < x.en then { x with nx := x.nx + 1 } else x
      .ok (s1.emitV t 8 vd.val (tileAnswer tm d) (BitVec.allOnes 512) [])
def execNtreq (p : Fin 16) (vd : Fin 64) (s : State) : Host.Outcome State Fault Refusal := runSlot (issueNtreq p vd) s

end Sys2Proof.Machine
end

