-- ==== Sys2Proof/Machine/Bundle.lean ====
section
/-! DEFINITION. A bundle issues: fetch (R38 to R41, R108), the current limiter (R170), the operations of its slots, the close
of a loop level (R98 to R101), its checkpoint (R182, R184), and what the core does next; replays (R270); and the events by
which a waiting core goes on. -/

namespace Sys2Proof.Machine

/-- The meaning of a slot operation within a bundle. Events stand in no slot. -/
def slotIssue (i : Instr) : Issue :=
  match i with
  | .add p d a b => issueAdd p d a b
  | .sub p d a b => issueSub p d a b
  | .and p d a b => issueAnd p d a b
  | .or p d a b => issueOr p d a b
  | .xor p d a b => issueXor p d a b
  | .andn p d a b => issueAndn p d a b
  | .shl p d a b => issueShl p d a b
  | .shr p d a b => issueShr p d a b
  | .sar p d a b => issueSar p d a b
  | .min p d a b => issueMin p d a b
  | .max p d a b => issueMax p d a b
  | .minu p d a b => issueMinu p d a b
  | .maxu p d a b => issueMaxu p d a b
  | .mul p d a b => issueMul p d a b
  | .mulh p d a b => issueMulh p d a b
  | .mulhu p d a b => issueMulhu p d a b
  | .clz p d a => issueClz p d a
  | .ctz p d a => issueCtz p d a
  | .popc p d a => issuePopc p d a
  | .sext p d a w => issueSext p d a w
  | .zext p d a w => issueZext p d a w
  | .addsh1 p d a b => issueAddsh1 p d a b
  | .addsh2 p d a b => issueAddsh2 p d a b
  | .addsh3 p d a b => issueAddsh3 p d a b
  | .addsh4 p d a b => issueAddsh4 p d a b
  | .addi p d a imm => issueAddi p d a imm
  | .andi p d a imm => issueAndi p d a imm
  | .ori p d a imm => issueOri p d a imm
  | .xori p d a imm => issueXori p d a imm
  | .shli p d a sh => issueShli p d a sh
  | .shri p d a sh => issueShri p d a sh
  | .sari p d a sh => issueSari p d a sh
  | .li p d imm => issueLi p d imm
  | .lch p d h imm => issueLch p d h imm
  | .cmp p q a b cc => issueCmp p q a b cc
  | .cmpi p q a cc imm => issueCmpi p q a cc imm
  | .pand p q a b => issuePand p q a b
  | .por p q a b => issuePor p q a b
  | .pxor p q a b => issuePxor p q a b
  | .pnot p q a => issuePnot p q a
  | .br p off => issueBr p off
  | .brp p ps off => issueBrp p ps off
  | .jmp p a => issueJmp p a
  | .call p off => issueCall p off
  | .ret p => issueRet p
  | .exit p => issueExit p
  | .trap p code => issueTrap p code
  | .yield p => issueYield p
  | .loop p lv xc xs stride => issueLoop p lv xc xs stride
  | .loopi p lv count stride => issueLoopi p lv count stride
  | .ntreq p vd => issueNtreq p vd
  | .wfe p ev => issueWfe p ev
  | .sev p ev a => issueSev p ev a
  | .bar p b => issueBar p b
  | .align p a => issueAlign p a
  | .tenter p a => issueTenter p a
  | .texit p => issueTexit p
  | .rdc p d creg => issueRdc p d creg
  | .wrc p creg a => issueWrc p creg a
  | .stqp p d => issueStqp p d
  | .lds p d a imm => issueLds p d a imm
  | .sts p sr a imm => issueSts p sr a imm
  | .xsv vd xa => issueXsv vd xa
  | .xvs xd va => issueXvs xd va
  | .xpv md pa => issueXpv md pa
  | .xvp pd ma => issueXvp pd ma
  | .vadd h t d a b => issueVadd h t d a b
  | .vsub h t d a b => issueVsub h t d a b
  | .vmul h t d a b => issueVmul h t d a b
  | .vfma h t d a b c => issueVfma h t d a b c
  | .vfms h t d a b c => issueVfms h t d a b c
  | .vfnma h t d a b c => issueVfnma h t d a b c
  | .vmin h t d a b => issueVmin h t d a b
  | .vmax h t d a b => issueVmax h t d a b
  | .vabs h t d a => issueVabs h t d a
  | .vneg h t d a => issueVneg h t d a
  | .vcps h t d a b => issueVcps h t d a b
  | .vrcp h t d a => issueVrcp h t d a
  | .vrsq h t d a => issueVrsq h t d a
  | .vsqrt h t d a => issueVsqrt h t d a
  | .vexp2 h t d a => issueVexp2 h t d a
  | .vlog2 h t d a => issueVlog2 h t d a
  | .vtanh h t d a => issueVtanh h t d a
  | .viadd h w d a b => issueViadd h w d a b
  | .visub h w d a b => issueVisub h w d a b
  | .vimul h w d a b => issueVimul h w d a b
  | .vimad h w d a b c => issueVimad h w d a b c
  | .vimin h w u d a b => issueVimin h w u d a b
  | .vimax h w u d a b => issueVimax h w u d a b
  | .vand h d a b => issueVand h d a b
  | .vor h d a b => issueVor h d a b
  | .vxor h d a b => issueVxor h d a b
  | .vshl h w d a b => issueVshl h w d a b
  | .vshr h w d a b => issueVshr h w d a b
  | .vsar h w d a b => issueVsar h w d a b
  | .vcmp h t cc md a b => issueVcmp h t cc md a b
  | .vsel h d a b mc => issueVsel h d a b mc
  | .vmov h d a => issueVmov h d a
  | .vsplat h w d a lane => issueVsplat h w d a lane
  | .vli h k d imm => issueVli h k d imm
  | .viota h w d => issueViota h w d
  | .vperm h w d a b => issueVperm h w d a b
  | .vrot h w d a n => issueVrot h w d a n
  | .vpack h w u d a b => issueVpack h w u d a b
  | .vunpk h w u d a => issueVunpk h w u d a
  | .vcvt h d a src dst rm => issueVcvt h d a src dst rm
  | .vscl h t d a sr => issueVscl h t d a sr
  | .vred h t op d a => issueVred h t op d a
  | .vscan h t op d a => issueVscan h t op d a
  | .part h d a n => issuePart h d a n
  | .vrng h d a b w => issueVrng h d a b w
  | .vdrop h t d a key theta => issueVdrop h t d a key theta
  | .mand h d a b => issueMand h d a b
  | .mor h d a b => issueMor h d a b
  | .mnot h d a => issueMnot h d a
  | .mcnt h d a => issueMcnt h d a
  | .mwldN p k a => issueMwldN p k a
  | .mwldW p k a => issueMwldW p k a
  | .mafmt p f => issueMafmt p f
  | .mbeat p a set cb src => issueMbeat p a set cb src
  | .mbeatt p a set cb src => issueMbeatt p a set cb src
  | .mbeat2 p a set cb src => issueMbeat2 p a set cb src
  | .mdrn p a q f rm => issueMdrn p a q f rm
  | .mclr p a n => issueMclr p a n
  | .mgbeat p a b => issueMgbeat p a b
  | .mgdrn p row q => issueMgdrn p row q
  | .mgclr p => issueMgclr p
  | .ldv h d xa off pi => issueLdv h d xa off pi
  | .stv h sr xa off pi => issueStv h sr xa off pi
  | .ldvs h w d xa xs off pi => issueLdvs h w d xa xs off pi
  | .stvs h w sr xa xs off pi => issueStvs h w sr xa xs off pi
  | .gath h w d xa vi => issueGath h w d xa vi
  | .scat h w sr xa vi => issueScat h w sr xa vi
  | .scata h sr xa vi => issueScata h sr xa vi
  | .atomv h op r xa vi => issueAtomv h op r xa vi
  | .ldb h d xa off pi => issueLdb h d xa off pi
  | .ldg h g xa off pi => issueLdg h g xa off pi
  | .stg h g xa off pi => issueStg h g xa off pi
  | .sbind h z xa off => issueSbind h z xa off
  | .sunb h z => issueSunb h z
  | .qpop h d q => issueQpop h d q
  | .qst h q xa off pi => issueQst h q xa off pi
  | .fsend p dk xa xr cnt stamp => issueFsend p dk xa xr cnt stamp
  | .fsenda p dk xa xr cnt stamp => issueFsenda p dk xa xr cnt stamp
  | .fsendq p dk q xr cnt stamp => issueFsendq p dk q xr cnt stamp
  | .frecv p xa cnt => issueFrecv p xa cnt
  | .fld p vd xa => issueFld p vd xa
  | .fst p vs xa => issueFst p vs xa
  | .fatom p op vr xa => issueFatom p op vr xa
  | .mcpy h => issueMcpy h
  | .mbulk h tag => issueMbulk h tag
  | .mclose p st tag => issueMclose p st tag
  | .publ p xa => issuePubl p xa
  | .ttgo p xa stamp => issueTtgo p xa stamp
  | .upd h xv => issueUpd h xv
  | .norm h => issueNorm h
  | .fars h port => issueFars h port
  | .farr h port => issueFarr h port
  | .cwait p cc xv => issueCwait p cc xv
  | .cinc p cc imm => issueCinc p cc imm
  | .fence p kind scope => issueFence p kind scope
  | .psend p ch vr g stamp => issuePsend p ch vr g stamp
  | .precv p ch vr g => issuePrecv p ch vr g
  | .rpush p va g => issueRpush p va g
  | .rpop p vd g => issueRpop p vd g
  | .rspill p n => issueRspill p n
  | .rfill p n => issueRfill p n
  | .rdrop p n => issueRdrop p n
  | .blkBegin p n => issueBlkBegin p n
  | .blkEnd p n => issueBlkEnd p n
  | .blkRev p n => issueBlkRev p n
  | .sNop => issueSNop
  | .xbNop => issueXbNop
  | .vNop => issueVNop
  | .mNop => issueMNop
  | .lsNop => issueLsNop
  | .fbNop => issueFbNop
  | .rpNop => issueRpNop
  | _ => fun s _ => .ok s

/-! ### The order within a bundle -/

/-- Operations whose effect counts the stores that the same bundle releases (R111, R398). -/
def afterStores : Instr → Bool
  | .sev .. => true
  | .cinc .. => true
  | _ => false
def isBlkBegin : Instr → Bool
  | .blkBegin .. => true
  | _ => false
def isBlkEnd : Instr → Bool
  | .blkEnd .. => true
  | _ => false

/-- Pops of a result queue, whose slots are free for the pushes of their own issue cycle (R151). -/
def popsQueue : Instr → Bool
  | .qpop .. => true
  | .qst .. => true
  | .fsendq .. => true
  | _ => false

/-- The operations of a bundle in the order in which the model lets them act: a BLK.BEGIN opens its block first, pops of a
result queue free their slots, the sequencer operation follows the others, a BLK.END closes its block last. -/
def issueOrder (ops : List (Slot × Instr)) : List (Slot × Instr) :=
  let plain (i : Instr) : Bool := !isBlkBegin i && !isBlkEnd i && !i.isSeq && !afterStores i && !popsQueue i
  ops.filter (fun o => isBlkBegin o.2) ++ ops.filter (fun o => popsQueue o.2) ++ ops.filter (fun o => plain o.2) ++
    ops.filter (fun o => afterStores o.2) ++ ops.filter (fun o => o.2.isSeq) ++ ops.filter fun o => isBlkEnd o.2

/-- An operation acts: its predicate is true (R34). -/
def liveOp (t : Task) (i : Instr) : Bool := !i.isNop && t.arch.pred (predOf i)

/-- The outcome so far of a bundle's operations. -/
structure IssueAcc where
  s : State
  fault : Option FaultReq := none
  stall : Option Wait := none
deriving Inhabited

def IssueAcc.addFault (a : IssueAcc) (timed : Bool) (q : FaultReq) : IssueAcc :=
  { a with fault := some (match a.fault with
      | none => q
      | some p => worse timed p q) }

/-- A stall of a wait for another member comes after every other stall: a member arrives once nothing else holds it. -/
def IssueAcc.addStall (a : IssueAcc) (w : Wait) : IssueAcc :=
  { a with stall := match a.stall with
      | none => some w
      | some (.bar b) => match w with
        | .bar _ => some (.bar b)
        | x => some x
      | some x => some x }

def IssueAcc.add (a : IssueAcc) (timed : Bool) (r : Res) : IssueAcc :=
  match r with
  | .ok s => { a with s }
  | .fault q => a.addFault timed q
  | .stall w => a.addStall w

/-- What an open block forbids of the operation (R144, R259, R269). -/
def forbidden (s : State) (t : Task) (i : Instr) : Option Nat :=
  match t.arch.blk with
  | none => none
  | some b => if isBlkBegin i then none else blockForbids (inRecompute s t) (t.arch.walk.mode == .replay) t.arch.ldepth b.depth t i

/-- The operations of a bundle act in order; a fault or a stall of one hides none of the others (R363). -/
def issueOps (l : Loc) (timed : Bool) : List (Slot × Instr) → IssueAcc → IssueAcc
  | [], a => a
  | (sl, i) :: r, a =>
    let s := { a.s with slot := sl }
    match s.task l with
    | none => a
    | some t =>
      if !liveOp t i then issueOps l timed r a
      else
        match forbidden s t i with
        | some c => issueOps l timed r (a.addFault timed { code := c, slot := sl.code })
        | none => issueOps l timed r (a.add timed (slotIssue i s t))

/-! ### Vector items of a bundle (R261) -/

/-- A beat is on the floating path (R157, R160). -/
def floatBeat (t : Task) (cb : Bool) (a : MSrc) : Bool := !intPath t (cbFmt t cb a)

/-- A bundle holds a beat of the floating path. -/
def beatsFloat (t : Task) (ops : List (Slot × Instr)) : Bool :=
  ops.any fun o => match o.2 with
    | .mbeat _ _ _ cb a => floatBeat t cb a
    | .mbeatt _ _ _ cb a => floatBeat t cb a
    | _ => false

/-- The vector-width items an operation pushes by its encoding (R142, R146, R168, R193, R261, R263). -/
def itemCount (t : Task) : Instr → Nat
  | .vmul .. => 2 | .vfma .. => 2 | .vfms .. => 2 | .vfnma .. => 2
  | .vmin .. => 1 | .vmax .. => 1 | .vabs .. => 1 | .vcps .. => 1 | .vrcp .. => 1 | .vrsq .. => 1 | .vsqrt .. => 1
  | .vexp2 .. => 1 | .vlog2 .. => 1 | .vtanh .. => 1 | .vsel .. => 1 | .part .. => 1
  | .vperm _ w _ _ _ => if w = .w32 then 1 else 0
  | .vred _ _ op _ _ => if op = .sum then 0 else 1
  | .vscan _ _ op _ _ => if op = .sum then 0 else 1
  | .mbeat _ _ _ cb a => bit (floatBeat t cb a)
  | .mbeatt _ _ _ cb a => bit (floatBeat t cb a)
  | .gath .. => 1 | .scat .. => 1 | .scata .. => 1
  | .rpush .. => 1
  | _ => 0

/-- A live BLK.BEGIN opens a block that pushes items; the block is open from this bundle on (R258). -/
def opensPushing (s : State) (t : Task) (ops : List (Slot × Instr)) : Bool :=
  ops.any fun o =>
    match o.2 with
    | .blkBegin p n =>
      t.arch.pred p && t.arch.blk.isNone && (t.arch.walk.mode == .replay || !blkRecompute (blockEntry s s.at_ t n.val))
    | _ => false

/-- A bundle of a block pushes at most two items (R261). -/
def tooManyItems (s : State) (t : Task) (ops coded : List (Slot × Instr)) : Bool :=
  (pushesItems s t || opensPushing s t ops) && decide ((coded.map fun o => itemCount t o.2).sum > 2)

/-! ### Closes (R98 to R101) -/

/-- The innermost open level is null: its bundles issue as if predicated false (R99). -/
def inNull (a : Arch) : Bool := a.ldepth > 0 && (nth {} a.levels (a.ldepth - 1)).null

/-- A WRC to RRB, EC or LDEPTH in a closing bundle takes effect before the close (R101). -/
def earlyWrc (s : State) (l : Loc) : State :=
  let mine (e : Ev) : Bool :=
    match e.what with
    | .resultLanding k r => k = l && r.issued = s.now && (match r.dest with
        | .creg n => n = 0x010 || n = 0x011 || n = 0x012
        | _ => false)
    | _ => false
  let vals := (s.calendar.filter mine).filterMap fun e =>
    match e.what with
    | .resultLanding _ r => match r.dest with
      | .creg n => some (n, r.val.toNat % 2 ^ 64)
      | _ => none
    | _ => none
  ({ s with calendar := s.calendar.filter fun e => !mine e }).modTask l fun t => vals.foldl (fun (t : Task) (v : Nat × Nat) => writeCreg t v.1 v.2) t

/-- Stage bits in flight move with a stage advance (R95). -/
def moveStages (s : State) (l : Loc) : State :=
  { s with calendar := s.calendar.map fun e =>
      match e.what with
      | .resultLanding k r => if k = l then
          (match r.dest with
            | .stage b => { e with what := .resultLanding k { r with dest := .stage (b + 1) } }
            | _ => e)
        else e
      | _ => e }

/-- What a close did: the level's record for the walk, and the index it transfers to. -/
structure CloseOut where
  rec_ : CloseRec
  back : Option Nat
  /-- the residual words it pushes (R262) -/
  words : List Word
deriving Inhabited

/-- The close of the innermost level, at the bundle with the given index (R98, R99). -/
def closeLevel (a : Arch) (pc lv : Nat) (rt : Bool) : Arch × CloseOut :=
  let old := nth {} a.levels lv
  let lev := { old with lend := if old.lend = 0 then pc else old.lend, first := false }
  let p15 : Word := if a.pred 15 then 1 else 0
  let trip : List Word := [old.idx0, BitVec.ofNat 64 (old.cnt0 + old.ec0 * 2 ^ 32)]
  let put (a : Arch) (x : Level) : Arch := { a with levels := a.levels.set lv x }
  let rec_ (final epi adv : Bool) : CloseRec := { lv, final, epilogue := epi, advance := adv, passes := old.pass, level := old }
  if old.null then
    ({ put a lev with ldepth := lv }.derive, { rec_ := rec_ true false false, back := none, words := trip })
  else if lev.cnt > 1 then
    let a1 := put a { lev with cnt := lev.cnt - 1, idx := lev.idx + lev.str, pass := lev.pass + 1 }
    let a2 := if rt then a1.advance true else a1
    (a2.derive, { rec_ := rec_ false false rt, back := some lev.start, words := if rt then [p15] else [] })
  else if rt && a.ec > 0 then
    let a1 := put a { lev with cnt := 0, idx := lev.idx + lev.str, pass := lev.pass + 1 }
    (({ a1.advance false with ec := a.ec - 1 } : Arch).derive, { rec_ := rec_ false true true, back := some lev.start, words := [p15] })
  else
    (({ put a { lev with cnt := 0 } with ldepth := lv } : Arch).derive, { rec_ := rec_ true false false, back := none, words := trip })

/-- The close that the header asks for: none, a fault, or the state after it (R42, R98, R99, R259); its words enter the packing
buffer unless they are there already. -/
def closeStep (s : State) (l : Loc) (h : Header) (packed : Bool) : Except FaultReq (State × Option CloseOut) :=
  if !h.le then .ok (s, none)
  else
    let s1 := earlyWrc s l
    match s1.task l with
    | none => .ok (s1, none)
    | some t =>
      let a := t.arch
      let inner := a.ldepth > 0 && h.lv + 1 = a.ldepth
      if inNull a && !inner then .ok (s1, none)
      else if !inner then .error { code := 0x02, slot := 9 }
      else if (match a.blk with
          | some b => decide (h.lv < b.depth)
          | none => false) then .error { code := 0x16, slot := 9 }
      else
        let (a1, o) := closeLevel a t.fetch.pc h.lv h.rt
        let t1 := { t with arch := a1 }
        let t2 := if pushesItems s1 t && !packed then o.words.foldl packWord t1 else t1
        let s2 := s1.setTask l t2
        .ok (if o.rec_.advance then moveStages s2 l else s2, some o)

/-! ### The current limiter (R170) -/

def liveWeights (now : Nat) (w : List (Nat × Nat)) : List (Nat × Nat) := w.filter fun x => x.1 + 64 > now

def bundleWeight (t : Task) (ops : List (Slot × Instr)) : Nat :=
  (ops.map fun o => if liveOp t o.2 then weight t o.2 else 0).sum

/-! ### After the operations -/

/-- The words that landed in this cycle enter the packing buffer in slot order (R262). -/
def takeFresh (t : Task) : Task :=
  let t1 := t.arch.fresh.foldl (fun (t : Task) w => packWord t w.2.2) t
  { t1 with arch := { t1.arch with fresh := [] } }

/-- The level a live LOOP or LOOPI of the bundle opened. -/
def openedLevel (t : Task) (ops : List (Slot × Instr)) : Option Nat :=
  ops.findSome? fun o =>
    match o.2 with
    | .loop p lv _ _ _ => if t.arch.pred p.val then some lv.val else none
    | .loopi p lv _ _ => if t.arch.pred p.val then some lv.val else none
    | _ => none

/-- The position of a bundle in the open block (R265; log entry 6). -/
def tracePos (t : Task) (boundary : Bool) (r : PosRec) : Task :=
  { t with arch := { (if boundary then t.arch else modLastFrame t.arch fun f => { f with pos := f.pos ++ [r] }) with
    blk := t.arch.blk.map fun b => { b with n := b.n + 1 } } }

/-- The bundle that follows (R38, R40 to R42). -/
def advanceFetch (f : Fetch) (back : Option Nat) : Fetch :=
  let delay := f.d1.isSome || f.d2.isSome
  { pc := match f.d1 with
      | some x => x
      | none => if delay then f.pc + 1 else back.getD (f.pc + 1)
    d1 := f.d2, d2 := f.br, br := none }

/-- The bundle that has issued, with the fetch stream behind it, is a pre-emption point: EQ = 1, or in free code outside a
replay a close that transfers to START; never while a taken branch is under way (R20, R267, R297, R390). -/
def stopPoint (t0 : Task) (f : Fetch) (h : Header) (back : Bool) : Bool :=
  f.straight && (h.eq || (back && !t0.timed && t0.arch.walk.mode != .replay))

/-- A live YIELD, which posts its own stop (R110). -/
def liveYield (t : Task) (ops : List (Slot × Instr)) : Bool :=
  t.stop != .none && !t.timed && t.fetch.straight && ops.any fun o => match o.2 with
    | .yield p => t.arch.pred p.val
    | _ => false

/-- The bundle is a checkpoint bundle by what it holds, or by a push it makes into a main-memory stream (R109, R182, R184,
R244); the checkpoint of a command is taken at its acceptance, of a TEXIT at the end of its hold (R22, R207). -/
def checkpoints (t0 t1 : Task) (b : Bundled) (live : List (Slot × Instr)) : Bool :=
  !t0.timed && (b.hdr.ck || b.ops.any (fun o => ckOp o.2) || live.any fun o => liveOp t0 o.2 && ckPush t0 o.2) &&
    t1.wait != .accept && t1.wait != .texit

/-- What follows a bundle that has issued: its next issue, the next position of a replay, or a wait's own event. -/
def afterBundle (s : State) (l : Loc) (replayed : Bool) : State :=
  match s.task l with
  | none => s
  | some t =>
    match t.wait with
    | .none => s.postIssue (s.now + 1) l
    | .walk => if replayed && t.arch.walk.mode == .replay then s.postCore l (s.now + 1) rkIssue .replayPosition else s
    | .accept => s.postRetry (s.now + 1) l
    | .remote _ => s.postRetry (s.now + 1) l
    | _ => s

/-- The end of a replay: the walk over the frame it pushed begins in the next cycle (R270). -/
def endReplay (s : State) (l : Loc) (t : Task) : State :=
  let back := t.arch.walk.ret
  match startWalk { s with slot := .rp } t t.arch.walk.base fun s _ => .ok s with
  | .ok s1 => (s1.modTask l fun t => { t with fetch := back, wait := .walk }).postCore l (s.now + 1) rkWalk .reversePosition
  | .fault q => takeFault s l q
  | .stall _ => takeFault s l { code := 0x1A, slot := Slot.rp.code }

/-- The end of a bundle's issue cycle. -/
def finishBundle (s : State) (l : Loc) (t0 : Task) (b : Bundled) (null : Bool) (ops : List (Slot × Instr)) (o : Option CloseOut) :
    State :=
  match s.task l with
  | none => s
  | some t =>
    let replay := t0.arch.walk.mode == .replay
    let inB := t.arch.blk.isSome || t0.arch.blk.isSome
    let boundary := (t.arch.blk.isSome && boundaryFrame s t) || (t.arch.blk.isNone && t0.arch.blk.isSome && boundaryFrame s t0)
    let t1 := if inB then
        tracePos t boundary { bundle := t0.fetch.pc, null, closed := o.map (·.rec_)
                              opened := if null then none else openedLevel t0 ops
                              masks := t0.arch.m, weight := bundleWeight t0 ops, float := beatsFloat t0 ops }
      else t
    let next := advanceFetch t1.fetch (o.bind (·.back))
    let t2 := if t1.arch.walk.mode == .replay && !replay then
        { t1 with fetch := { pc := blkStart (blockEntry s l t1 t1.arch.walk.block) }
                  arch := { t1.arch with walk := { t1.arch.walk with ret := next } } }
      else { t1 with fetch := next }
    let point := stopPoint t0 t1.fetch b.hdr (o.bind (·.back)).isSome
    let t3 := { t2 with weights := liveWeights s.now t2.weights ++ [(s.now, bundleWeight t0 ops)], last := t0.fetch.pc, lastAt := s.now
                        atPoint := point && t2.wait != .none && t2.wait != .walk }
    let s1 := s.setTask l t3
    let s2 := if checkpoints t0 t3 b ops then checkpoint s1 l else s1
    let s3 := if t0.timed then s2 else controllerWork s2 l
    if replay && t0.arch.blk.isSome && t3.arch.blk.isNone then endReplay s3 l ((s3.task l).getD t3)
    else if liveYield t0 ops then s3
    else if t3.stop != .none && point && (t3.wait == .none || replay) then s3.postCore l s.now rkCount .taskStop
    else afterBundle s3 l replay

/-! ### The attempt (R36, R108, R170, R363, R377) -/

/-- The bundle cannot issue in this cycle: a stop asked for lands here, a replay tries again, another core stalls (R264,
R297). -/
def holdBundle (s : State) (l : Loc) (t : Task) (w : Wait) : State :=
  if t.arch.walk.mode == .replay then (delayCore (controllerWork s l) l).postCore l (s.now + 1) rkIssue .replayPosition
  else if t.stop != .none && !t.timed && t.fetch.d1.isNone && t.fetch.d2.isNone then
    (s.modTask l fun t => { t with wait := w }).postCore l s.now rkCount .taskStop
  else controllerWork (stallCore s l w) l

/-- The faults of a bundle as a whole: drift (R377), too many items, before which no slot takes effect and which a null
level counts too (R99, R261), BLK.BEGIN or BLK.END with LE (R258). -/
def bundleFaults (s : State) (l : Loc) (t : Task) (b : Bundled) (ops coded : List (Slot × Instr)) : Option FaultReq :=
  let drift := t.timed && (s.gcc l t + 2 ^ 64 - t.aligned) % 2 ^ 64 > 131072 && (s.gcc l t + 2 ^ 64 - t.aligned) % 2 ^ 64 < 2 ^ 63
  let blkLe := b.hdr.le && ops.any fun o => (isBlkBegin o.2 || isBlkEnd o.2) && liveOp t o.2
  if drift then some { code := 0x08, slot := 9 }
  else if tooManyItems s t ops coded then some { code := 0x01, slot := 0 }
  else if blkLe then some { code := 0x16, slot := Slot.rp.code }
  else none

/-- The words that the bundle's close will push: where they fill the packing buffer, its item goes ahead of the bundle's own
items (R262). -/
def closeWords (s : State) (l : Loc) (timed : Bool) (h : Header) (ops : List (Slot × Instr)) : List Word :=
  if !h.le then []
  else
    match closeStep (issueOps l timed ops { s }).s l h true with
    | .ok (_, some o) => o.words
    | _ => []

/-- A legal bundle within its current limit issues (R29, R33, R99, R363). -/
def issueBundle (s : State) (l : Loc) (t : Task) (b : Bundled) : State :=
  let null := inNull t.arch
  let ops := if null then [] else issueOrder b.ops
  let s0 := { s with at_ := l, slot := .rp, bs := if b.hdr.bc && !null then b.hdr.bs else 0 }
  let t1 := takeFresh t
  let ws := if pushesItems s0 t1 then closeWords (s0.setTask l t1) l t.timed b.hdr ops else []
  let fills := decide (t1.arch.pack.length + ws.length ≥ 64)
  let t0 := if fills then ws.foldl packWord t1 else t1
  let a0 : IssueAcc := { s := s0.setTask l t0 }
  let a1 := match bundleFaults s l t b ops (issueOrder b.ops) with
    | some q => a0.addFault t.timed q
    | none => a0
  let a2 := if pushesItems s0 t0 then a1.add t.timed (flushPack (s0.setTask l t0) t0 fun s _ => .ok s) else a1
  let a3 := issueOps l t.timed ops a2
  match closeStep a3.s l b.hdr fills with
  | .error q =>
    match (a3.addFault t.timed q).fault with
    | some f => takeFault s0 l f
    | none => takeFault s0 l q
  | .ok (s1, o) =>
    match a3.fault, a3.stall with
    | some f, _ => takeFault s0 l f
    | none, some w => holdBundle s0 l t w
    | none, none => finishBundle s1 l t b null ops o

/-- The core tries to issue the bundle at its index in this cycle (R38, R108, R170). A stop asked for during the wait of a
bundle that is a pre-emption point lands behind that wait (R297). -/
def attempt (s : State) (l : Loc) : State :=
  match s.task l with
  | none => s
  | some t =>
    let s := { s with at_ := l }
    if t.stop != .none && t.atPoint then s.postCore l s.now rkCount .taskStop
    else
    match (taskImage s l t).text[t.fetch.pc]? with
    | none => takeFault s l { code := 0x03, slot := 9 }
    | some w =>
      match decodeBundle w.toNat with
      | .error _ => takeFault s l { code := 0x01, slot := 9 }
      | .ok b =>
        let ops := if inNull t.arch then [] else b.ops
        let sum := bundleWeight t ops + ((liveWeights s.now t.weights).map (·.2)).sum
        if sum > t.ctl.curlim then
          if t.timed then takeFault s l { code := 0x17, slot := 9 }
          else
            let s1 := s.modTask l fun t => { t with ctl := { t.ctl with frzcnt := (t.ctl.frzcnt + 1) % 2 ^ 64 } }
            holdBundle s1 l { t with stop := .none } .stall
        else issueBundle s l t b

/-- BUNDLE_ISSUE (R38): a core that nothing holds issues its bundle. -/
def execBundleIssue (s : State) : Host.Outcome State Fault Refusal :=
  let l := s.at_
  match s.task l with
  | none => .next s
  | some t =>
    match t.phase, t.wait with
    | .running, .none => .next (attempt s l)
    | .running, .start => .next (attempt (s.modTask l fun t => { t with wait := .none }) l)
    | .running, .barHold => .next (attempt (s.modTask l fun t => { t with wait := .none }) l)
    | _, _ => .next s

/-- REPLAY_POSITION: the next position of a replay issues (R270). -/
def execReplayPosition (s : State) : Host.Outcome State Fault Refusal :=
  let l := s.at_
  match s.task l with
  | none => .next s
  | some t => if t.phase = .running && t.arch.walk.mode == .replay then .next (attempt s l) else .next s

/-! ### Waiting cores -/

/-- A stalled core tries its bundle again. -/
def retry (s : State) (l : Loc) : State := attempt (s.modTask l fun t => { t with wait := .none }) l

/-- STALL_END: a stalled core looks again; one that waits for an acceptance or a remote value stalls on (R20, R153). -/
def execStallEnd (s : State) : Host.Outcome State Fault Refusal :=
  let l := s.at_
  match s.task l with
  | none => .next s
  | some t =>
    match t.phase, t.wait with
    | .running, .stall => .next (retry s l)
    | .running, .bar _ => .next (retry s l)
    | .running, .accept => .next ((delayCore s l).postRetry (s.now + 1) l)
    | .running, .remote _ => .next ((delayCore s l).postRetry (s.now + 1) l)
    | _, _ => .next s

/-- WFE_WAKE: a core that waits at a WFE looks at its flag (R110). -/
def execWfeWake (s : State) : Host.Outcome State Fault Refusal :=
  let l := s.at_
  match s.task l with
  | none => .next s
  | some t =>
    match t.phase, t.wait with
    | .running, .wfe _ => .next (retry s l)
    | _, _ => .next s

/-- CWAIT_SATISFIED: a core that waits at a CWAIT looks at its counter (R397). -/
def execCwaitSatisfied (s : State) : Host.Outcome State Fault Refusal :=
  let l := s.at_
  match s.task l with
  | none => .next s
  | some t =>
    match t.phase, t.wait with
    | .running, .cwait => .next (retry s l)
    | _, _ => .next s

def setFlagBit (t : Task) (ev : Fin 16) : Task := { t with ev := t.ev ||| BitVec.ofNat 16 (2 ^ ev.val) }

/-- The flag of a member that has a save record is set there (R399). -/
def flagSaved (s : State) (r : TeamRef) (ix : Nat) (ev : Fin 16) : State :=
  { s with launches := s.launches.map fun x => (x.1, { x.2 with saved := x.2.saved.map fun v =>
      if v.num = r.team && v.die = r.die then { v with recs := v.recs.map fun q => if q.ix = ix then { q with task := setFlagBit q.task ev } else q } else v }) }

/-- EVENT_FLAG_SET: the flag of a team member, in its save record once the member is saved (R111, R399). -/
def execEventFlagSet (r : TeamRef) (ix : Nat) (ev : Fin 16) (s : State) : Host.Outcome State Fault Refusal :=
  let s1 := flagSaved s r ix ev
  match s.team r.die r.team with
  | some tm => .next (s1.modTask { die := r.die, core := nth 256 tm.cores ix } fun t => if t.team = r.team then setFlagBit t ev else t)
  | none => .next s1

/-- BARRIER_COMPLETE: in cycle L every waiting member's BAR bundle issues, in core order (R112). -/
def execBarrierComplete (r : TeamRef) (b : Fin 4) (s : State) : Host.Outcome State Fault Refusal :=
  match s.team r.die r.team with
  | none => .next s
  | some tm =>
    if !barFull tm b.val || (nth {} tm.bars b.val).go.isSome then .next s
    else
      let s1 := s.modTeam r.die r.team fun x => x.modBar b.val fun y => { y with go := some s.now }
      let cores := (List.range 256).filter fun c => tm.cores.contains c
      .next (cores.foldl (fun (st : State) c =>
        let l : Loc := { die := r.die, core := c }
        match st.task l with
        | some t => if t.team = r.team && t.wait = .bar b.val && t.phase = .running then retry (undelayCore st l) l else st
        | none => st) s1)

/-! ### ALIGN, TENTER and TEXIT (R22, R114) -/

/-- Everything in flight of a core moves one cycle later, its stores included (R114). -/
def delayAll (s : State) (l : Loc) : State :=
  let mine (e : Ev) : Bool := decide (e.due > s.now) && (e.owner = some l || match e.what with
    | .accessPerform a => a.src = some l
    | _ => false)
  let moved := (s.calendar.filter mine).map fun e =>
    match e.what with
    | .accessPerform a => { e with what := .accessPerform { a with start := a.start + 1 }, due := e.due + 1 }
    | _ => { e with due := e.due + 1 }
  let s1 := { s with calendar := moved.foldl (fun c e => calInsert e c) (s.calendar.filter fun e => !mine e) }
  s1.modTask l fun t => t.shiftMat true s.now

/-- The least integer step that makes a 64-bit count read as another. -/
def stepTo (from_ goal : Nat) : Int :=
  let d : Nat := (goal + 2 ^ 64 - from_) % 2 ^ 64
  if d ≥ 2 ^ 63 then (d : Int) - (2 ^ 64 : Nat) else d

/-- ALIGN_WAIT_END: once GRP has reached T, DLT is set so that the next bundle issues at GCC = T (R114). -/
def execAlignWaitEnd (s : State) : Host.Outcome State Fault Refusal :=
  let l := s.at_
  match s.task l with
  | none => .next s
  | some t =>
    match t.phase, t.wait with
    | .running, .align target enter =>
      if stepTo target (s.grp l.die) < 0 then .next ((delayAll s l).postCore l (s.now + 1) rkIssue .alignWaitEnd)
      else
        let s1 := s.modTask l fun t => { t with
          wait := .none, timed := t.timed || enter, aligned := target
          ctl := { t.ctl with dlt := stepTo (s.lcc l.die) target } }
        .next (attempt s1 l)
    | _, _ => .next s

/-- TEXIT_HOLD_END: once everything of the region has landed and performed, the checkpoint is taken and the next bundle
issues (R22). -/
def execTexitHoldEnd (s : State) : Host.Outcome State Fault Refusal :=
  let l := s.at_
  match s.task l with
  | none => .next s
  | some t =>
    match t.phase, t.wait with
    | .running, .texit =>
      let e := regionEnd s l t
      if e ≥ s.now then .next (s.postCore l (e + 1) rkIssue .texitHoldEnd)
      else if regionOpen t then .next (s.postCore l (s.now + 1) rkIssue .texitHoldEnd)
      else .next (attempt ((checkpoint s l).modTask l fun t => { t with wait := .none }) l)
    | _, _ => .next s

end Sys2Proof.Machine
end

