-- ==== Sys2Proof/Machine/Ending.lean ====
section
/-! DEFINITION. How tasks, launches and contexts end: the removal of a task from its core (R298, R361), launch records
(R253), the end of a launch (R21, R216, R229, R361) and of a context (R205, R450), and the drain horizon of what a region
left armed (R339, R391). -/

namespace Sys2Proof.Machine

/-! ### Launch records (R253) -/

/-- The fields of a launch record that differ from their zero. -/
structure LaunchRec where
  type : Nat
  outcome : Nat := 0
  gang : Nat := 0
  t : Nat := 0
  cycle : Nat := 0
  ready : Nat := 0
  used : List Nat := []
  attempt : Nat := 0
  strag : List Nat := []
  status : Nat := 0
deriving DecidableEq, Repr, Inhabited

/-- The start offset of a cluster, all ones when it is unused (R25). -/
def startOffset (used : List Nat) (c : Nat) : Nat := if used.contains c then c * 2048 else 2 ^ 32 - 1

/-- The 128 B of a launch record (R253). -/
def launchRecord (id : Nat) (x : Launch) (r : LaunchRec) : BitVec 1024 :=
  let mask := r.used.eraseDups.foldl (fun m c => m + 2 ^ c) 0
  let tags (st : Nat) : Nat := ((x.tags.filter fun e => e.1 = st).map (·.2)).eraseDups.foldl (fun m g => m + 2 ^ g) 0
  BitVec.ofNat 1024 (pack
    ([(8, r.type), (8, r.outcome), (16, x.asid), (32, id), (64, r.gang), (64, r.t), (64, r.cycle), (32, r.ready), (16, 185),
      (8, mask), (8, r.attempt)] ++ (List.range 8).map (fun c => (32, startOffset r.used c)) ++
     (List.range 4).map (fun st => (64, tags st)) ++ [(16, r.strag.length)] ++
     (List.range 8).map (fun i => (16, nth 0 r.strag i)) ++ [(16, r.status)]))

/-- Ebile writes a launch record on a die. -/
def State.launchNote (s : State) (die id : Nat) (r : LaunchRec) : State :=
  match s.launch id with
  | some x => s.launchPush die (launchRecord id x r)
  | none => s

/-! ### The removal of a task -/

/-- The events that belong to the task on a core and end with it. Released stores, accesses of engines, and words already
sent are none of them (R361). -/
def ofCore (l : Loc) (e : Ev) : Bool :=
  match e.what with
  | .resultLanding k _ => k = l
  | .accessPerform a => (e.owner = some l && !accStands a.op) || (a.src = some l && match a.op with | .fetch _ _ => true | _ => false) ||
      (a.die = l.die && match a.op with | .segOut c _ _ => c = l.core | .segIn c _ _ => c = l.core | _ => false)
  | .streamFetch k _ => k = l
  | .muleStreamTransfer k _ => k = l
  | .aRowArrival k _ _ => k = l
  | .segmentTransferComplete k _ => k = l
  | .cxlFrameMove k _ _ => k = l
  | .bundleIssue | .stallEnd | .wfeWake | .alignWaitEnd | .texitHoldEnd | .cwaitSatisfied | .fenceComplete
  | .commandAcceptance | .reversePosition | .replayPosition | .residualControllerSpill | .residualControllerFill
  | .taskFirstBundle | .taskStop | .saveStart | .taskRetire | .gangStop => e.place = l
  | _ => e.owner = some l

/-- The timed sends of a task whose first word departs after this cycle are never sent (R391). -/
def unsent (now : Nat) (l : Loc) (e : Ev) : Bool :=
  match e.what with
  | .fabricDeparture t => t.task = some l && t.chunk.isNone && t.k = 0 && t.depart > now
  | .routerForward _ _ t => t.task = some l && t.chunk.isNone && t.depart > now
  | _ => false

/-- The released pushes of a drain buffer that have their data perform all the same (R361). -/
def flushDrains (s : State) (l : Loc) (t : Task) : State :=
  (t.units.flatMap (·.drain)).foldl (fun (st : State) x =>
    match x.2.2 with
    | some v =>
      let (n, s1) := st.nextFree
      s1.postAccess (s1.now + 1 + n % 65536) none
        { die := l.die, mem := .virt, op := .write, shape := { base := x.2.1 }, data := v, port := 2 * (l.core / 32)
          asid := t.ctl.asid, launch := t.launch, issued := s1.now, cls := .store }
    | none => st) s

/-- The residual frames of a core's task leave the CXL tier (R361). -/
def dropFrames (s : State) (l : Loc) (launch : Nat) : State :=
  let mine := ((s.die l.die).frames.filter fun f => f.2.loc = l && f.2.launch = launch).map (·.2)
  mine.foldl (fun (st : State) f => st.modCtx l.die f.asid fun c => { c with cxlUsed := c.cxlUsed - f.stored })
    (s.modDie l.die fun d => { d with frames := d.frames.filter fun f => !(f.2.loc = l && f.2.launch = launch) })

/-- What stands of an access whose task is gone: its effect on memory, with nothing to land (R361). -/
def orphan (l : Loc) (e : Ev) : Ev :=
  match e.what with
  | .accessPerform a => if e.owner = some l then { e with owner := none, what := .accessPerform { a with land := none } } else e
  | _ => e

/-- A task leaves its core: what is in flight in the core, withheld stores and commands not yet accepted are discarded;
what is released, accepted or sent goes on; armed windows stay with the die until the drain horizon (R21, R298, R361). -/
def removeTask (s : State) (l : Loc) : State :=
  match s.task l with
  | none => s
  | some t =>
    let s1 := flushDrains s l t
    let s2 := { s1 with calendar := (s1.calendar.filter fun e => !(ofCore l e || unsent s.now l e)).map (orphan l) }
    let s3 := s2.modDie l.die fun d => { d with
      tasks := mdel d.tasks l.core
      left := d.left ++ t.windows.map fun w => (t.launch, w)
      cmds := d.cmds.filter fun e => !(e.2.loc = l && !e.2.acc && e.2.n > 0) }
    if (s3.die l.die).toRetire.contains l.core then s3.postAt l s3.now rkSwap s3.seq none .coreRetirement else s3

/-- The walker of a launch stops: an entry whose first word has not departed is never sent (R391). -/
def stopWalker (s : State) (die launch : Nat) : State :=
  if (s.die die).walker.map (·.launch) = some launch then
    { s with calendar := s.calendar.filter fun e =>
        match e.what with
        | .fabricDeparture t => !(t.src = die && t.launch = launch && t.chunk.isSome && t.k = 0 && t.depart > s.now)
        | .routerForward _ _ t => !(t.src = die && t.launch = launch && t.chunk.isSome && t.depart > s.now)
        | .walkerDeparture => e.place.die != die
        | _ => true }.modDie die fun d => { d with walker := none }
  else s

/-- Every task of a launch leaves its core, and its teams are gone. -/
def stopLaunch (s : State) (id : Nat) : State :=
  let s1 := (s.tasks.filter fun e => e.2.launch = id).foldl (fun (st : State) e =>
    removeTask (dropFrames st e.1 id) e.1) s
  let s2 := s1.dies.foldl (fun (st : State) d =>
    if d.2.teams.any fun tm => tm.2.launch = id then
      postHorizon (stopWalker st d.1 id) d.1 id |>.modDie d.1 fun y => { y with teams := y.teams.filter fun tm => tm.2.launch != id }
    else st) s1
  s2

/-! ### What a launch held -/

/-- The shadows a launch wrote since their entries' last swaps are discarded on a die (R229). -/
def discardShadows (s : State) (die id : Nat) : State :=
  match s.launch id with
  | none => s
  | some x =>
    let mine := x.shadows.filter fun e => e.1 = die
    let s1 := mine.foldl (fun (st : State) e => discardEntry st die x.asid e.2) s
    { s1 with launches := s1.launches.map fun y =>
        if y.2.asid = x.asid then (y.1, { y.2 with shadows := y.2.shadows.filter fun e => !mine.contains e }) else y }

/-- A record of TYPE 6 for each reservation a launch still holds, and their release (R216). -/
def releaseReserves (s : State) (die id asid : Nat) : State :=
  let mine := (s.die die).reserves.filter fun r => r.launch = id
  let s1 := mine.foldl (fun (st : State) r =>
    st.errPush die 6 (errRecord 6 (unitField 7 r.stack r.pc) (asid + 2 ^ 15) 0 0 (st.grp die) 0 [])) s
  s1.modDie die fun d => { d with reserves := d.reserves.filter fun r => r.launch != id }

/-- A gang's hold on a die: reserved cores, slots, pinned translations, channels (R290, R316, R332). -/
def releaseDie (s : State) (die id : Nat) : State :=
  s.modDie die fun d => { d with
    gangCores := d.gangCores.filter fun e => e.1 != id
    slots := mdel d.slots id
    pins := d.pins.filter fun p => p.1 != id
    chans := d.chans.filter fun c => c.1 / 256 != id }

/-- The space of a launch's save records, and what its stopping teams have set aside for theirs, is free again (R303, R304,
R439). -/
def freeSaves (s : State) (id : Nat) : State :=
  match s.launch id with
  | none => s
  | some x =>
    let s1 := x.saved.foldl (fun (st : State) v =>
      st.modCtx v.die x.asid fun c => { c with saveFree := c.saveFree + v.bytes }) s
    let s2 := s1.dies.foldl (fun (st : State) d => (d.2.teams.filter fun t => t.2.launch = id).foldl (fun (st : State) t =>
      (st.modCtx d.1 x.asid fun c => { c with saveFree := c.saveFree + t.2.room }).modTeam d.1 t.1 fun y => { y with room := 0 }) st) s1
    s2.modLaunch id fun y => { y with saved := [] }

/-- The heads of the launch queues of a die. -/
def queueHeads (s : State) (die : Nat) : List (Nat × Launch) :=
  (s.die die).ctxs.flatMap fun c =>
    if c.2.killed then []
    else c.2.queues.filterMap fun q => (q.2.head?).bind fun id => (s.launch id).map fun x => (id, x)

/-- Each head takes the cycle in which it became head (R287). -/
def noteHeads (s : State) (die : Nat) : State :=
  (queueHeads s die).foldl (fun (st : State) h =>
    if h.2.head.isNone then st.modLaunch h.1 fun x => { x with head := some (st.grp die) } else st) s

/-- The scheduler of a die looks again (R288). -/
def kickScheduler (s : State) (die : Nat) : State := s.postDie die (s.now + 1) rkCount .placementPass

/-- Launches of the same queue that wait for their turn to perform their completion actions look again (R293). -/
def kickQueue (s : State) (x : Launch) : State :=
  s.launches.foldl (fun (st : State) y =>
    if y.2.asid = x.asid && y.2.die = x.die && y.2.queue = x.queue && y.2.phase = .completing then
      st.postUnit (st.now + 1) rkCount (.launchComplete y.1)
    else st) s

/-- A launch still has work of its own to do. -/
def LPhase.live : LPhase → Bool
  | .queued | .running | .completing => true
  | _ => false

/-- THE END OF A LAUNCH by a fault, a kill or a cancel: its tasks stop, unpublished shadows are discarded (of a gang at the
drain horizon), what it held is released, end records are written, and its queue advances (R21, R293, R361, R439). -/
def endLaunch (s : State) (id status : Nat) : State :=
  match s.launch id with
  | none => s
  | some x =>
    if !x.phase.live then s
    else
      let s1 := stopLaunch (freeSaves s id) id
      let s2 := noteHeads (s1.modCtx x.die x.asid fun c => { c with queues := c.queues.map fun q => (q.1, q.2.filter fun n => n != id) }) x.die
      let s3 := s2.modLaunch id fun y => { y with phase := .ended status, requeued := [], gang := { y.gang with pending := false, relaunch := false } }
      let s4 := x.homes.foldl (fun (st : State) d =>
        let st := releaseDie (releaseReserves st d id x.asid) d id
        let st := if x.desc.gang then st else discardShadows st d id
        let st := st.launchNote d id { type := 3, gang := if x.desc.gang then id else 0, t := x.gang.t, cycle := x.gang.c, status }
        kickScheduler st d) s3
      kickQueue s4 x

/-- The counted traffic of a launch that waits for a route is discarded (R449). -/
def dropStuck (s : State) (id : Nat) : State :=
  { s with dies := s.dies.map fun d => (d.1, { d.2 with stuck := d.2.stuck.filter fun c => c.launch != id }) }

/-! ### The end of a context (R205, R319, R450) -/

/-- What a context has in flight and does not perform once it is stopped (R205 step 2). -/
def ofContext (asid : Nat) (e : Ev) : Bool :=
  match e.what with
  | .accessPerform a => match a.op with
      | .request r => r.sasid = asid
      | _ => a.asid = asid
  | .fabricDeparture t => t.asid = asid
  | .routerForward _ _ t => t.asid = asid
  | .fabricWordArrival w => w.asid = asid
  | .countedFlitArrival c _ => c.asid = asid && match c.body with | .kill _ _ => false | _ => true
  | .apertureRequest r => r.sasid = asid
  | _ => false

/-- The engine commands of a context go, the running one of Ox too (R205). -/
def dropCommands (s : State) (die asid : Nat) : State :=
  let ids := ((s.die die).cmds.filter fun c => c.2.asid = asid).map (·.1)
  let s1 := s.modDie die fun d => { d with
    cmds := d.cmds.filter fun c => c.2.asid != asid
    oxq := d.oxq.filter fun i => !ids.contains i }
  match (s1.die die).ox with
  | some o => if ids.contains o.cmd then endOx s1 die o.cmd else s1
  | none => s1

/-- The drain buffers of a context's tasks are empty: their vectors do not perform any more (R205, R240, R361). -/
def emptyDrains (asid : Nat) (d : Die) : Die :=
  { d with tasks := d.tasks.map fun t =>
      if t.2.ctl.asid = asid then (t.1, { t.2 with units := t.2.units.map fun u => { u with drain := [] } }) else t }

/-- THE END OF A CONTEXT on every die where it lives: every task stops, nothing it has in flight performs any more, and
every launch ends, the faulting one with the fault's code, the others with KILLED; with no one launch at fault all end with
the code (R205 steps 2 and 3, R319, R361, R450). -/
def endContext (s : State) (asid code : Nat) (by_ : Option Nat) : State :=
  let ids := (s.launches.filter fun x => x.2.asid = asid && x.2.phase.live).map (·.1)
  let s0 : State := { s with calendar := s.calendar.filter fun e => !ofContext asid e }
  let s1 := s0.dies.foldl (fun (st : State) d => st.modDie d.1 (emptyDrains asid)) s0
  let s2 := s1.dies.foldl (fun (st : State) d => if (st.ctx d.1 asid).isSome then dropCommands st d.1 asid else st) s1
  let s3 := ids.foldl (fun (st : State) id =>
    endLaunch st id (match by_ with
      | some b => if id = b then code else 0x106
      | none => code)) s2
  { s3 with dies := s3.dies.map fun d => (d.1, { d.2 with
      stuck := d.2.stuck.filter fun c => c.asid != asid
      ctxs := d.2.ctxs.map fun c => if c.1 = asid then (c.1, { c.2 with killed := true }) else c }) }

/-! ### Events -/

/-- DRAIN_HORIZON: what a gang's regions left armed on a die is disarmed; after a fault or for a relaunch the launch's
unpublished shadows are discarded (R229, R339, R391). A later stop or a new TTGO sets the horizon anew. -/
def execDrainHorizon (die gid : Nat) (s : State) : Host.Outcome State Fault Refusal :=
  let later := match (s.die die).horizon with
    | some h => decide (h > s.now)
    | none => false
  let chunks := (s.die die).horizon = some s.now && (s.die die).ttLaunch = gid
  let s1 := s.modDie die fun d => { d with
    left := if later then d.left else d.left.filter fun w => w.1 != gid
    tasks := d.tasks.map fun t => if t.2.launch = gid && t.2.phase != .running then (t.1, { t.2 with windows := [] }) else t
    chunks := if chunks then d.chunks.map fun c => (c.1, { c.2 with armed := false, count := 0 }) else d.chunks
    horizon := if later then d.horizon else none }
  match s1.launch gid with
  | some x =>
    match x.phase with
    | .ended _ => .next (discardShadows s1 die gid)
    | _ => .next (if x.gang.relaunch then discardShadows s1 die gid else s1)
  | none => .next s1

/-- FAULT_PROPAGATION: the launch of a task-fatal or region-fatal fault ends with its first fault's code (R361, R362); a
gang that Ebile relaunches after a link loss stands (R21, R348). -/
def execFaultPropagation (launch : Nat) (s : State) : Host.Outcome State Fault Refusal :=
  match s.launch launch with
  | some x =>
    match x.fault with
    | some (_, _, _, code) => .next (if x.gang.relaunch then s else endLaunch s launch code)
    | none => .next s
  | none => .next s

end Sys2Proof.Machine
end

