-- ==== Sys2Proof/Machine/Rooster.lean ====
section
/-! DEFINITION. Rooster: beacons and the group reference (R371 to R375), IEEE 1588 time, the map and 1PPS (R379 to R382,
R389). -/

namespace Sys2Proof.Machine

def State.modRooster (s : State) (d : Nat) (f : Rooster → Rooster) : State := s.modDie d fun x => { x with rooster := f x.rooster }

/-- Beacons act behind everything else of their cycle: their corrections apply in the next (R373). -/
def rkBeacon : Nat := 97

/-- The same link as its far die names it. -/
def farLink (k : Nat) : Nat := if k % 2 = 0 then k + 1 else k - 1

/-! ### The group reference (R371, R375) -/

/-- The best link of a die: UP or DEGRADED, its beacons reporting the smallest hop count, in link order. -/
def bestLink (d : Die) : Option (Nat × Nat) :=
  d.rooster.heard.foldl (fun best e =>
    if countedOk (((mget d.links e.1).getD {}).state) && e.2.1 < 12 then
      match best with
      | none => some (e.1, e.2.1)
      | some b => if e.2.1 < b.2 then some (e.1, e.2.1) else best
    else best) none

/-- A die chooses its parent: with one it is in SYNC, without one it leaves SYNC for HOLD (R371, R375). -/
def chooseParent (s : State) (die : Nat) : State :=
  let r := (s.die die).rooster
  if r.ref = die then s.modRooster die fun r => { r with parent := 7, hops := 0, sync := 1 }
  else
    match bestLink (s.die die) with
    | some (k, h) => s.modRooster die fun r => { r with parent := k, hops := h + 1, sync := 1 }
    | none => s.modRooster die fun r => { r with parent := 7, hops := 15, sync := if r.sync = 0 then 0 else 2 }

/-- A link of a die no longer carries beacons: what it reported is forgotten (R375). -/
def forgetLink (s : State) (die link : Nat) : State :=
  let s1 := s.modRooster die fun r => { r with heard := mdel r.heard link }
  if s1.formed then chooseParent s1 die else s1

/-- The started dies of the group. -/
def liveDies (s : State) : List Nat := (s.dies.filter fun d => d.2.started && inGroup s d.1).map (·.1)

/-- Every die takes a reference die; it alone keeps its GRP (R371). -/
def nameReference (s : State) (ref : Nat) : State :=
  (liveDies s).foldl (fun (st : State) d => chooseParent (st.modRooster d fun r => { r with ref }) d) s

/-- GROUP_FORMATION: the extents of the group, and its reference die, the lowest die that is live; a die missing from the
group is reported to the host (R371, R444). -/
def execGroupFormation (x y z : Nat) (s : State) : Host.Outcome State Fault Refusal :=
  let s1 := { s with ext := (x, y, z), formed := true }
  let live := liveDies s1
  let s2 := if live.length < x * y * z then s1.hostEvent 2 else s1
  match live with
  | [] => .next s2
  | r :: _ => .next (nameReference s2 r)

/-- REFERENCE_LOSS: every die leaves SYNC for HOLD, and Ebile names the next reference, which keeps its GRP (R375). -/
def execReferenceLoss (s : State) : Host.Outcome State Fault Refusal :=
  let lost := s.at_.die
  let rest := (liveDies s).filter fun d => d != lost
  let s1 := rest.foldl (fun (st : State) d =>
    st.modRooster d fun r => { r with sync := 2, parent := 7, hops := 15, heard := [] }) s
  match rest with
  | [] => .next s1
  | r :: _ => .next (rest.foldl (fun (st : State) d =>
      st.modRooster d fun q => if d = r then { q with ref := r, hops := 0, sync := 1 } else { q with ref := r }) s1)

/-! ### Beacons (R372, R373) -/

/-- BEACON_SEND: a beacon leaves on every UP or DEGRADED link and arrives L cycles later; the next follows 4,096 cycles of
LCC on (R372). -/
def execBeaconSend (s : State) : Host.Outcome State Fault Refusal :=
  let die := s.at_.die
  let d := s.die die
  if !d.started then .next s
  else
    let b : Beacon := { grp := s.grp die, hop := d.rooster.hops, sync := d.rooster.sync, ref := d.rooster.ref, epoch := d.rooster.epoch }
    let s1 := d.links.foldl (fun (st : State) k =>
      if countedOk k.2.state then st.postUnit (st.now + k.2.lat) rkBeacon (.beaconArrival (neighbour st die k.1) (farLink k.1) b) else st) s
    .next (s1.postDie die (s.now + 4096) rkBeacon .beaconSend)

/-- The correction of GRP by an error of est − GRP, in force from the next cycle (R373). -/
def correctGrp (d : Die) (e : Int) : Die :=
  if e = 0 then d
  else if e.natAbs ≤ 4 then { d with grp := d.grp + (if e > 0 then 1 else -1) }
  else { d with grp := d.grp + e, rooster := { d.rooster with steps := Nat.min (d.rooster.steps + 1) (2 ^ 32 - 1) } }

/-- BEACON_ARRIVAL: the hop count and state of its link are noted and the parent chosen afresh; on the parent link GRP is
corrected (R371, R373). -/
def execBeaconArrival (die link : Nat) (b : Beacon) (s : State) : Host.Outcome State Fault Refusal :=
  let s1 := s.modRooster die fun r => { r with heard := mset r.heard link (b.hop, b.sync) }
  if !s1.formed then .next s1
  else
    let s2 := chooseParent s1 die
    let r := (s2.die die).rooster
    if r.ref != die && r.parent = link then
      let est := b.grp + (linkOf s2 die link).lat
      .next (s2.modDie die fun d => correctGrp d (stepTo (s.grp die) (est % 2 ^ 64)))
    else .next s2

/-! ### IEEE 1588 time (R379 to R381, R389) -/

/-- The PTP time of a die: its servo's last time, continued at the rate it measured; without one, at 3.6 cycles per ns. -/
def ptpTime (s : State) (die : Nat) : Nat :=
  let r := (s.die die).rooster
  match r.clock with
  | some (c, ns) => if r.k = 0 then ns + (s.now - c) * 10 / 36 else ns + (s.now - c) * 2 ^ 32 / r.k
  | none => 0

/-- U at the current instant: in HOLDOVER it grows by 1,000 ns for each second of LCC since the last Sync (R389). -/
def uNow (s : State) (die : Nat) : Nat :=
  let r := (s.die die).rooster
  if r.ptp = 2 then Nat.min (r.u + 1000 * (s.now - r.lastSync) / 3600000000) (2 ^ 32 - 1) else r.u

/-- The time master: the lowest die B whose state is LOCKED (R380). -/
def timeMaster (s : State) : Option Nat := (liveDies s).find? fun d => isDieB d && (s.die d).rooster.ptp = 1

/-- The time master issues a map record now, and from then on every 2^24 cycles. -/
def startMaps (s : State) : State :=
  match timeMaster s with
  | some m =>
    { s with calendar := s.calendar.filter fun e => !(e.what == Instr.mapRecordIssue) }.postDie m s.now rkBeacon .mapRecordIssue
  | none => s

/-- MAP_RECORD_ISSUE: the record of the time master travels in the beacon lane to every die; the next is due at the next
multiple of 2^24 of its GRP (R380). -/
def execMapRecordIssue (s : State) : Host.Outcome State Fault Refusal :=
  let die := s.at_.die
  if timeMaster s != some die then .next s
  else
    let r := (s.die die).rooster
    let m : MapRec := { mapg := s.grp die, mapt := ptpTime s die, mapk := r.k, epoch := (r.epoch + 1) % 65536, u := uNow s die }
    let s1 := (liveDies s).foldl (fun (st : State) d =>
      match route st countedOk die d with
      | some w => st.postUnit (st.now + pathLatency st w) rkBeacon (.mapRecordReceive d m)
      | none => st) s
    .next (s1.postDie die (s.now + (2 ^ 24 - s.grp die % 2 ^ 24)) rkBeacon .mapRecordIssue)

/-- MAP_RECORD_RECEIVE: the die holds the latest record, and its U (R380, R381). -/
def execMapRecordReceive (die : Nat) (r : MapRec) (s : State) : Host.Outcome State Fault Refusal :=
  .next (s.modRooster die fun q => { q with
    map := some (r.mapg, r.mapt, r.mapk), epoch := r.epoch, u := if q.ptp = 1 then q.u else r.u })

/-- PTP_SYNC_RECEIVE: an accepted exchange sets the servo's time, rate and U; the state becomes LOCKED when the servo says
so, after a holdover once 8 exchanges in a row were accepted; the time master then issues a map record (R379, R381, R389). -/
def execPtpSyncReceive (die : Nat) (m : PtpSync) (s : State) : Host.Outcome State Fault Refusal :=
  if !isDieB die then .next s
  else if !m.accepted then .next (s.modRooster die fun r => { r with syncs := 0 })
  else
    let r := (s.die die).rooster
    let n := r.syncs + 1
    let st' := if r.ptp = 2 then (if n ≥ 8 then 1 else 2) else if r.ptp = 0 then (if m.locked then 1 else 0) else 1
    let s1 := s.modRooster die fun r => { r with
      syncs := n, lastSync := s.now, clock := some (s.now, m.ptp), k := m.k, ptp := st', u := if st' = 1 then Nat.max 20 m.u else r.u }
    let s2 := { s1 with calendar := s1.calendar.filter fun e => !(e.what == Instr.ptpHoldover && e.place.die = die) }
    let s3 := s2.postDie die (s.now + 3 * r.interval) rkBeacon .ptpHoldover
    let s4 := if s3.calendar.any (fun e => e.what == Instr.ppsOutEdge && e.place.die = die) then s3
      else s3.postDie die (s.now + nextSecond s3 die) rkBeacon .ppsOutEdge
    .next (if st' = 1 && r.ptp != 1 then startMaps s4 else s4)
where
  /-- Cycles to the next whole second of the die's PTP time. -/
  nextSecond (s : State) (die : Nat) : Nat :=
    let left := 1000000000 - ptpTime s die % 1000000000
    let k := (s.die die).rooster.k
    if k = 0 then left * 36 / 10 else left * k / 2 ^ 32

/-- PTP_HOLDOVER: no Sync for 3 intervals, or the port link down: HOLDOVER; the next LOCKED die B takes over as time master
(R389). -/
def execPtpHoldover (s : State) : Host.Outcome State Fault Refusal :=
  let die := s.at_.die
  if (s.die die).rooster.ptp != 1 then .next (s.modRooster die fun r => { r with syncs := 0 })
  else .next (startMaps (s.modRooster die fun r => { r with ptp := 2, syncs := 0 }))

/-- PPS_OUT_EDGE: high at each whole second of PTP time, low 100 µs later (R382). -/
def execPpsOutEdge (s : State) : Host.Outcome State Fault Refusal :=
  let die := s.at_.die
  let up := (s.die die).rooster.ppsOut
  let s1 := s.modRooster die fun r => { r with ppsOut := !up }
  .next (s1.postDie die (s.now + (if up then execPtpSyncReceive.nextSecond s1 die else 360000)) rkBeacon .ppsOutEdge)

/-- PPS_IN_EDGE: the edge is timestamped in GRP and in PTP time, and steers nothing; the timing port is die B's (R10, R382). -/
def execPpsInEdge (s : State) : Host.Outcome State Fault Refusal :=
  let die := s.at_.die
  .next (if isDieB die then s.modRooster die fun r => { r with pps := some (s.grp die, ptpTime s die) } else s)

/-! ### The map (R380, R381) -/

/-- GCC(T) (R380). -/
def mapToGcc (m : Nat × Nat × Nat) (t : Nat) : Nat :=
  wrap64 ((m.1 : Int) + (((t : Int) - m.2.1) * m.2.2).fdiv (2 ^ 32))

/-- The PTP time of a GCC value (R380). -/
def mapToPtp (m : Nat × Nat × Nat) (g : Nat) : Nat :=
  wrap64 ((m.2.1 : Int) + (if m.2.2 = 0 then 0 else ((stepTo m.1 g) * 2 ^ 32).fdiv m.2.2))

/-- U(T) of an instant ahead: 1 ns more for each ms (R381, R389). -/
def uAt (s : State) (die t now : Nat) : Nat := uNow s die + (t - now) / 1000000

end Sys2Proof.Machine
end

