-- ==== Sys2Proof/Machine/Timetables.lean ====
section
/-! DEFINITION. Timetables as Ebile loads and checks them (R340 to R342, R345, R346), and the alternate that replaces one
after a link loss (R348). -/

namespace Sys2Proof.Machine

/-! ### The layout (R340 to R342) -/

/-- A send entry of 32 B; whether a reserved field is set. -/
def parseSend (n : Nat) : TtSend × Bool :=
  let sk := bits n 63 62
  let src := bits n 191 128
  ({ cycle := bits n 31 0, dest := bits n 40 32, words := bits n 59 48 + 1, op := bits n 61 60, sk, daddr := bits n 92 64
     chunk := bits n 107 96, src := src, coord := bits n 255 192 },
   bits n 47 41 != 0 || bits n 95 93 != 0 || bits n 111 108 != 0 || bits n 127 112 != 0 || bits n 61 60 = 3 || sk > 1 ||
   bits n 92 64 % 4 != 0 ||
   (if sk = 0 then bits n 255 192 != 0 || src ≥ 2 ^ 29 || src % 4 != 0 else src ≥ 2 ^ 18 || bits n 59 48 ≥ 256))

/-- A chunk-table entry of 16 B; whether a reserved field is set. -/
def parseChunk (n : Nat) : TtChunk × Bool :=
  ({ base := bits n 28 0, len := bits n 51 32, expect := bits n 95 64, cc := bits n 103 96
     shdw := if bits n 127 127 = 1 then some (bits n 123 112) else none },
   bits n 31 29 != 0 || bits n 63 52 != 0 || bits n 111 104 != 0 || bits n 126 124 != 0 || bits n 95 64 = 0 || bits n 95 64 > 2 ^ 24)

/-- The entries are in ascending CYCLE. -/
def cyclesRise : List TtSend → Bool
  | a :: b :: r => a.cycle ≤ b.cycle && cyclesRise (b :: r)
  | _ => true

/-- The timetable in memory at an address, when its length is that of its counts. -/
def parseTimetable (m : Mem) (a len asid setN setId : Nat) : Option Timetable :=
  let ns := Mem.num m a 2
  let nc := Mem.num m (a + 2) 2
  if nc > 4096 || len != 64 + 32 * ns + 16 * nc then none
  else
    let sends := (List.range ns).map fun i => parseSend (Mem.num m (a + 64 + 32 * i) 32)
    let chunks := (List.range nc).map fun i => parseChunk (Mem.num m (a + 64 + 32 * ns + 16 * i) 16)
    let altw := Mem.num m (a + 16) 2
    some { asid, setN, setId, alt := if altw ≥ 2 ^ 15 then some (altw % 4096) else none, phase := Mem.num m (a + 18) 2
           lexp := (List.range 6).map fun k => Mem.num m (a + 20 + 2 * k) 2
           sends := sends.map (·.1), chunks := chunks.map (·.1)
           bad := Mem.num m (a + 4) 12 != 0 || Mem.num m (a + 32) 32 != 0 || bits altw 14 12 != 0 ||
             sends.any (·.2) || chunks.any (·.2) || !cyclesRise (sends.map (·.1)) }

/-! ### The checks (R345, R346) -/

/-- The timetables of one number, one for each member die. -/
abbrev TtGroup := List (Nat × Timetable)

/-- A send with its die, the cycle of its first departure counted from a common origin, its route and word rate. -/
structure Leg where
  die : Nat
  e : TtSend
  first : Nat
  way : List (Nat × Nat)
  rate : Nat
  gap : Nat
  lat : Nat
deriving DecidableEq, Repr, Inhabited

/-- The legs of a group, or none when a route uses a link that is not UP. -/
def legs (s : State) (g : TtGroup) : Option (List Leg) :=
  g.foldr (fun x acc => x.2.sends.foldr (fun e acc =>
    match acc, route s timedOk x.1 e.dest with
    | some r, some w =>
      some ({ die := x.1, e, first := x.2.phase + e.cycle, way := w, rate := if e.sk = 0 then wordRate s w else 16
              gap := if e.sk = 0 then 1 else 6, lat := pathLatency s w } :: r)
    | _, _ => none) acc) (some [])

/-- The spans of a leg: die, link, first and last cycle (R335). -/
def legSpans (s : State) (l : Leg) : List (Nat × Nat × Nat × Nat) :=
  (routeHops s 0 l.way).map fun h => (h.1, h.2.1, l.first + h.2.2, l.first + h.2.2 + spanLength l.e.words l.rate l.gap)

def spansMeet (a b : Nat × Nat × Nat × Nat) : Bool := a.1 = b.1 && a.2.1 = b.2.1 && a.2.2.1 ≤ b.2.2.2 && b.2.2.1 ≤ a.2.2.2

/-- The middle of the arrival window of a leg's word at an address. -/
def legArrival (l : Leg) (a : Nat) : Nat := l.first + (a - l.e.daddr) / 4 / l.rate * l.gap + l.lat

/-- Two legs write a common word with overlapping arrival windows (R224). -/
def windowsMeet (a b : Leg) : Bool :=
  let lo := Nat.max a.e.daddr b.e.daddr
  let hi := Nat.min (a.e.daddr + 4 * a.e.words) (b.e.daddr + 4 * b.e.words)
  a.e.dest = b.e.dest && (List.range ((hi - lo) / 4)).any fun i =>
    let x := legArrival a (lo + 4 * i)
    let y := legArrival b (lo + 4 * i)
    x ≤ y + 2 * Config.jitter && y ≤ x + 2 * Config.jitter

/-- No two members of a list are related. -/
def noneRelated {α : Type} (r : α → α → Bool) : List α → Bool
  | [] => true
  | x :: l => !(l.any (r x)) && noneRelated r l

/-- The checks that depend on the links: LEXP, routes, spans and windows. -/
def linkChecks (s : State) (g : TtGroup) : Bool :=
  (g.all fun x => x.2.lexp.all (· = 0) || x.2.lexp = (List.range 6).map fun k => (linkOf s x.1 k).lat) &&
  match legs s g with
  | none => false
  | some ls => noneRelated spansMeet (ls.flatMap (legSpans s)) && noneRelated windowsMeet ls

/-- The words addressed to a chunk of a die. -/
def chunkWords (g : TtGroup) (die c : Nat) : Nat :=
  g.foldl (fun n x => x.2.sends.foldl (fun n e => if e.dest = die && e.chunk = c then n + e.words else n) n) 0

/-- The checks that do not: reserved fields and order, EXPECT, and the refresh windows at PHASE. -/
def fixedChecks (g : TtGroup) : Bool :=
  g.all fun x =>
    !x.2.bad &&
    ((x.2.chunks.mapIdx fun i c => (i, c)).all fun c => chunkWords g x.1 c.1 = c.2.expect) &&
    x.2.sends.all fun e =>
      (g.any fun y => y.1 = e.dest && e.chunk < y.2.chunks.length) &&
      (e.sk = 0 || (x.2.phase + e.cycle + 16384 - 641) % 16384 + 640 + 6 * ((e.words + 15) / 16 - 1) < 16128)

/-- One contribution to a destination word: its source die, data and operation. -/
def contribution (die : Nat) (e : TtSend) (a : Nat) : Nat × Nat × Nat × Nat × Nat × Nat :=
  (die, e.sk, if e.sk = 0 then e.src + (a - e.daddr) else e.src, e.coord, if e.sk = 0 then 0 else a - e.daddr, e.op)

def insertKey {α : Type} (k : Nat) (a : α) : List (Nat × α) → List (Nat × α)
  | [] => [(k, a)]
  | x :: r => if k < x.1 then (k, a) :: x :: r else x :: insertKey k a r

/-- The contributions of a group to the word at an address of a die, in the order of their departures or arrivals. -/
def contributions (s : State) (arrivals : Bool) (g : TtGroup) (dst a : Nat) : List (Nat × Nat × Nat × Nat × Nat × Nat) :=
  let all := g.flatMap fun x => (x.2.sends.filter fun e => e.dest = dst && e.daddr ≤ a && a < e.daddr + 4 * e.words).map fun e =>
    let w := (route s timedOk x.1 dst).getD []
    let rate := if e.sk = 0 then wordRate s w else 16
    let d := x.2.phase + e.cycle + (a - e.daddr) / 4 / rate * (if e.sk = 0 then 1 else 6)
    ((if arrivals then d + pathLatency s w else d), contribution x.1 e a)
  (all.foldl (fun l y => insertKey y.1 y.2 l) []).map (·.2)

/-- An alternate keeps its primary's chunk tables and, for every destination word, its contributions in the same order
(R346). -/
def keepsPrimary (s : State) (arrivals : Bool) (prim alt : TtGroup) : Bool :=
  (prim.all fun x => alt.any fun y => y.1 = x.1 && y.2.chunks = x.2.chunks) && alt.length = prim.length &&
  prim.all fun x =>
    let edges (g : TtGroup) : List Nat := g.flatMap fun y => (y.2.sends.filter fun e => e.dest = x.1).flatMap fun e => [e.daddr, e.daddr + 4 * e.words]
    (edges prim ++ edges alt).all fun a => contributions s arrivals prim x.1 a = contributions s arrivals alt x.1 a

/-- The timetables of a number, on every die that holds one of the set. -/
def groupOf (s : State) (asid setId num : Nat) : TtGroup :=
  s.dies.filterMap fun d =>
    match mget d.2.tts num with
    | some t => if t.asid = asid && t.setId = setId then some (d.1, t) else none
    | none => none

/-- Every check of R345 over the numbers of a set. -/
def setOk (s : State) (asid setId : Nat) : Bool :=
  (List.range 64).all fun n =>
    let g := groupOf s asid setId n
    g.isEmpty || (fixedChecks g &&
      match g.head?.bind fun x => x.2.alt with
      | none => (g.all fun x => x.2.alt.isNone) && linkChecks s g
      | some p =>
        let prim := groupOf s asid setId p
        (g.all fun x => x.2.alt = some p) && !prim.isEmpty && keepsPrimary s false prim g)

/-- LEXP as Ebile writes it: the link table's latencies where it was zero (R340, R345). -/
def fillLexp (s : State) (die : Nat) (t : Timetable) : Timetable :=
  { t with ok := true, lexp := if t.alt.isNone && t.lexp.all (· = 0) then (List.range 6).map fun k => (linkOf s die k).lat else t.lexp }

/-! ### The alternate after a link loss (R348) -/

/-- The timetables of a number on the member dies of a launch. -/
def memberGroup (s : State) (x : Launch) (num : Nat) : Option TtGroup :=
  x.homes.foldr (fun m acc =>
    match acc, mget (s.die m).tts num with
    | some r, some t => if t.asid = x.asid then some ((m, t) :: r) else none
    | _, _ => none) (some [])

/-- The first loaded alternate of a timetable that passes the checks with the links as they stand (R346, R348, R425). -/
def findAlternate (s : State) (x : Launch) (num : Nat) : Option TtGroup :=
  (List.range 64).findSome? fun k =>
    match memberGroup s x k, memberGroup s x num with
    | some g, some prim =>
      if (g.all fun y => y.2.alt = some num) && fixedChecks g && linkChecks s g && keepsPrimary s true prim g then some g else none
    | _, _ => none

/-- The alternate takes the place of the primary on every member die. -/
def putInPlace (s : State) (num : Nat) (g : TtGroup) : State :=
  g.foldl (fun (st : State) x => st.modDie x.1 fun d => { d with tts := mset d.tts num { fillLexp st x.1 { x.2 with alt := none } with ok := true } }) s

/-- The lowest chunk id that is unpublished on some member (R348, R392). -/
def lowestUnpublished (s : State) (x : Launch) (num : Nat) : Nat :=
  x.homes.foldl (fun n m =>
    let cs := ((mget (s.die m).tts num).map (·.chunks)).getD []
    let done (i : Nat) : Bool :=
      match mget (s.die m).chunks i, cs[i]? with
      | some c, some e => c.pub || (e.shdw.isNone && c.ready.isSome)
      | _, _ => false
    match (List.range cs.length).find? fun i => !done i with
    | some i => Nat.min n i
    | none => Nat.min n cs.length) 4095

end Sys2Proof.Machine
end

