-- ==== Sys2Proof/Machine/Torus.lean ====
section
/-! DEFINITION. What happens on the torus: departures of timed words (R334, R341), routers (R330, R335), arrivals (R230,
R339, R343), counted messages (R336, R449), paired vectors (R279), aperture requests (R318, R319), and links that train,
degrade and go down (R333, R347, R348). -/

namespace Sys2Proof.Machine

/-! ### Departures (R334, R341) -/

/-- Where the next block of a chunk's tile lies in main memory in this cycle (R201, R326). -/
def tileAddr (s : State) (t : Transfer) (h : BitVec 512) (o : Nat) : Except Nat Nat :=
  xlateUnit s t.src t.asid (remap (shadowsOf s t.src t.asid) true (hBase h + o + 64 * (t.k / 16))) true false

/-- The words of a transfer that depart in this cycle, `n` of them from word k: popped words, scratchpad words as they
stand before the writes of the cycle, or words of a chunk in main memory with its edges padded (R201, R334, R341). -/
def departing (s : State) (t : Transfer) (n : Nat) : List (BitVec 32) :=
  match t.from_, t.tile with
  | some a, _ =>
    let v := readScratch s t.src t.asid (a + 4 * t.k) (4 * n)
    (lanesGo 32 n v).map (BitVec.ofNat 32)
  | none, some (h, o) =>
    match tileAddr s t h o with
    | .ok a =>
      let e := blockEdges h (o + 64 * (t.k / 16))
      let v := (Mem.num (s.die t.src).dram a 64 &&& e.1) + e.2
      ((lanesGo 32 16 v).take n).map (BitVec.ofNat 32)
    | .error _ => List.replicate n 0
  | none, none => t.words.take n

/-- The cycle in which a word that departs in cycle c performs: within J of c + L, never before it departs (R230). -/
def arrivalCycle (c lat f : Nat) : Nat := Nat.max c (c + lat + f % (2 * Config.jitter + 1) - Config.jitter)

/-- The link over which the words of a transfer reach their die, as that die names it; 6 for the die's own walker. -/
def lastLink (t : Transfer) : Nat :=
  match t.hops.getLast? with
  | some h => farLink h.2.1
  | none => 6

/-- The arrivals of words that depart in cycle c, from word k on. -/
def sendWords (t : Transfer) (c : Nat) : Nat → List (BitVec 32) → State → State
  | _, [], s => s
  | k, w :: r, s =>
    let (f, s1) := s.nextFree
    let f' := if t.pair.isSome then 0 else f
    let x : FabWord := { dst := t.dst, src := t.src, asid := t.asid, launch := t.launch, addr := t.addr + 4 * k, op := t.op, word := w
                         chunk := t.chunk, link := lastLink t, id := t.id }
    sendWords t c (k + 1) r
      (s1.post (arrivalCycle c t.lat f') (rkWrite + 25) ((if lastLink t = 6 then 6 else lastLink t) * 2 ^ 64 + s1.seq) none (.fabricWordArrival x))

/-- The block of a chunk that the walker is to read in this cycle. -/
def tileBlock (s : State) (t : Transfer) : Option Nat :=
  t.tile.bind fun x => match tileAddr s t x.1 x.2 with
    | .ok a => some (a / 64)
    | .error _ => none

/-- A chunk's page is not pinned for the walker (R316, R326, R341). -/
def tileFault (s : State) (t : Transfer) : Option (Nat × Nat) :=
  match t.tile with
  | none => none
  | some (h, o) =>
    let va := hBase h + o + 64 * (t.k / 16)
    match xlateTimed s t.src t.asid t.launch (remap (shadowsOf s t.src t.asid) true va) true false with
    | .error k => some (k, va)
    | .ok _ => none

/-- A task fault of a transfer, charged to the task that sent it (R335). -/
def chargeFault (s : State) (t : Transfer) (q : FaultReq) : State :=
  match t.task with
  | some l =>
    match s.task l with
    | some x => if x.launch = t.launch && x.phase != .ended then takeFault s l q else s
    | none => s
  | none => s

/-- FABRIC_DEPARTURE: the words of this cycle leave, the next group in the next cycle, of a chunk 6 cycles on; a vector of a
pair arrives whole with its last word. A block of a chunk with a correctable error is corrected, and of a poisoned one nothing
leaves (R204, R205, R279, R334, R341). -/
def execFabricDeparture (t : Transfer) (s : State) : Host.Outcome State Fault Refusal :=
  if (s.die t.src).cut.contains t.id then .next s
  else
    match tileFault s t with
    | some (k, va) => .next (chargeFault s t { code := 0x20, slot := Slot.fb.code, va := some va, cause := k })
    | none =>
      let blk := tileBlock s t
      let s := (blk.map (correctBlock s t.src)).getD s
      match blk.filter fun b => (s.die t.src).poison.contains b with
      | some b => .next (s.postUnit s.now rkArrive (.uncorrectableMemoryError t.src (64 * b) (unitField 7 (dpaStack (64 * b)) (dpaPc (64 * b)))))
      | none =>
      let n := Nat.min t.rate (t.n - t.k)
      let ws := departing s t n
      let c := if t.tile.isSome then s.now + 1 else s.now
      let last := t.k + n ≥ t.n
      let s1 :=
        match t.pair with
        | none => sendWords t c t.k ws s
        | some (ch, seq) =>
          if last then
            let (f, s0) := s.nextFree
            let v : PairVec := { dst := t.dst, launch := t.launch, chan := ch, src := t.src, seq
                                 val := ofLanes 32 (t.words.map BitVec.toNat) }
            s0.postUnit (arrivalCycle c t.lat f) rkArrive (.pairedVectorArrival v)
          else s
      if last then .next s1
      else
        let t' := { t with k := t.k + n, words := if t.pair.isSome then t.words else t.words.drop n }
        .next (s1.postUnit (s.now + t.gap) rkRead (.fabricDeparture t'))

/-- WALKER_DEPARTURE: the walker starts the entry that is due and looks for the next; after its last departure it is idle
(R341, R344). -/
def execWalkerDeparture (s : State) : Host.Outcome State Fault Refusal :=
  let die := s.at_.die
  let d := s.die die
  match d.walker with
  | none => .next s
  | some w =>
    match mget d.tts w.tt with
    | none => .next (s.modDie die fun d => { d with walker := none })
    | some tt =>
      match nextEntry tt w.rc w.next with
      | none =>
        if s.now < w.last then .next (s.postDie die w.last (rkRead - 1) .walkerDeparture)
        else .next (s.modDie die fun d => { d with walker := none })
      | some (i, e) =>
        if s.now + 1 < w.s0 + e.cycle then .next (s.postDie die (w.s0 + e.cycle - 1) (rkRead - 1) .walkerDeparture)
        else
          let s1 := s.modDie die fun d => { d with walker := some { w with next := i + 1 } }
          match walkerTransfer s1 die w tt i e with
          | .error k =>
            .next (chargeFault s1 { src := die, dst := e.dest, task := some w.loc, launch := w.launch, depart := 0, rate := 1, lat := 0, addr := 0 }
              { code := k, slot := Slot.fb.code })
          | .ok t =>
            let s2 := s1.postUnit (t.depart - (if t.tile.isSome then 1 else 0)) rkRead (.fabricDeparture t)
            let s3 := (t.hops.drop 1).foldl (fun (st : State) x => st.postUnit (t.depart + x.2.2) rkArrive (.routerForward x.1 x.2.1 t)) s2
            .next (s3.postDie die s3.now (rkRead - 1) .walkerDeparture)

/-! ### Routers (R330, R335) -/

/-- The launch of a gang whose transfer takes part in an overlap ends, too, with the link-collision code (R335, R362). -/
def endRegionOf (s : State) (die launch : Nat) (task : Option Loc) (code : Nat) : State :=
  let core := ((task.map (·.core))).getD 0
  let s1 := s.modLaunch launch fun x => { x with fault := firstFault x.fault (s.grp die, die, core, code) }
  let (n, s2) := s1.nextFree
  s2.postUnit (s2.now + 1 + n % 4096) rkSwap (.faultPropagation launch)

/-- ROUTER_FORWARD: a header reaches an intermediate die: its span is noted on the output, and an overlap with a known span
cuts the newcomer there, faults the task that sent it, and ends the regions of both gangs (R335). -/
def execRouterForward (die : Nat) (link : Nat) (t : Transfer) (s : State) : Host.Outcome State Fault Refusal :=
  if (s.die t.src).cut.contains t.id then .next s
  else
    let first := s.now
    let last := s.now + spanLength t.n t.rate t.gap
    match spanClash s die link first last with
    | some y =>
      let s1 := s.modDie t.src fun d => { d with cut := d.cut ++ [t.id] }
      let s2 := chargeFault s1 t { code := 0x27, slot := Slot.fb.code }
      .next (if y.launch = t.launch then s2 else endRegionOf s2 die y.launch y.task 0x27)
    | none =>
      if (linkOf s die link).state != 2 then .next (s.modDie t.src fun d => { d with cut := d.cut ++ [t.id] })
      else .next (addSpan s die { link, first, last, task := t.task, launch := t.launch, id := t.id })

/-! ### Arrivals (R230, R339, R343) -/

/-- An armed window of a list takes the word: its count rises, and the n-th word closes it. -/
def takeWindow (a : Nat) : List Window → Option (List Window)
  | [] => none
  | w :: r =>
    if w.base ≤ a && a < w.base + 4 * w.words then
      some (if w.got + 1 = w.words then r else { w with got := w.got + 1 } :: r)
    else (takeWindow a r).map fun r' => w :: r'

/-- The windows of the tasks of a die, by core. -/
def takeTaskWindow (a : Nat) : Map Task → Option (Map Task)
  | [] => none
  | e :: r =>
    match takeWindow a e.2.windows with
    | some ws => some ((e.1, { e.2 with windows := ws }) :: r)
    | none => (takeTaskWindow a r).map fun r' => e :: r'

/-- The windows left armed with the die. -/
def takeLeft (a : Nat) : List (Nat × Window) → Option (List (Nat × Window))
  | [] => none
  | x :: r =>
    match takeWindow a [x.2] with
    | some [] => some r
    | some (w :: _) => some ((x.1, w) :: r)
    | none => (takeLeft a r).map fun r' => x :: r'

/-- The armed chunk of a walker's word accepts it: the chunk's entry and its new count (R343). -/
def takeChunk (d : Die) (c a : Nat) : Option (TtChunk × Nat) :=
  match mget d.chunks c, (d.ttRun.bind fun n => mget d.tts n).bind fun t => t.chunks[c]? with
  | some st, some e => if st.armed && e.base ≤ a && a < e.base + 4 * e.len && st.count < e.expect then some (e, st.count + 1) else none
  | _, _ => none

/-- The word performs through port 25 (R223, R338), and its event goes to the core that owns the slice; the record of an
FSENDA word, which belongs to no chunk, carries chunk 0 (R88; DESIGN CHOICE, log entry 93). -/
def performWord (s : State) (w : FabWord) : State :=
  let x := wordAddr s w
  let a : Access := { die := w.dst, op := w.op, shape := { base := x, n := 1 }, data := BitVec.ofNat 4096 w.word.toNat
                      en := BitVec.ofNat 512 15, port := 25, asid := w.asid, src := some { die := w.dst, core := saSlice x }
                      bundle := w.chunk.getD 0, slot := 9, timed := true, launch := w.launch, cls := .remote
                      time := s.grp w.dst % 2 ^ 24, chunk := w.chunk }
  performWrite s a

/-- A word that nothing accepts is discarded: an error record of TYPE 5, and the sending context ends (R319, R339). -/
def wordError (s : State) (w : FabWord) : State :=
  let s1 := s.errPush w.dst 5 (errRecord 5 (unitField 13 0 w.link) (w.asid + 2 ^ 15) 0x2C w.addr (s.grp w.dst) w.src [])
  s1.sendCounted { at_ := w.dst, dst := w.src, src := w.dst, launch := w.launch, asid := w.asid, body := .kill w.asid w.launch }

/-- FABRIC_WORD_ARRIVAL: a timed word performs when an armed window or its armed chunk accepts it; in the cycle after the
word that completes a chunk, its ready bit is set and its counter rises (R230, R339, R343). -/
def execFabricWordArrival (w : FabWord) (s : State) : Host.Outcome State Fault Refusal :=
  let d := s.die w.dst
  if (s.die w.src).cut.contains w.id then .next s
  else
    match w.chunk with
    | some c =>
      match takeChunk d c w.addr with
      | none => .next (wordError s w)
      | some (e, n) =>
        let s1 := noteShadow (performWord s w) w.dst w.launch e.shdw
        if n = e.expect then
          let s2 := s1.modDie w.dst fun d => { d with chunks := mset d.chunks c { armed := true, count := n, ready := some (s.now + 1) } }
          .next (s2.postUnit (s.now + 1) rkCount (.cincApply w.dst e.cc 1))
        else .next (s1.modDie w.dst fun d => { d with chunks := mset d.chunks c { armed := true, count := n } })
    | none =>
      match takeTaskWindow w.addr d.tasks, takeLeft w.addr d.left with
      | some ts, _ => .next (performWord (s.modDie w.dst fun d => { d with tasks := ts }) w)
      | none, some r => .next (performWord (s.modDie w.dst fun d => { d with left := r }) w)
      | none, none => .next (wordError s w)

/-! ### Paired vectors (R279, R280) -/

/-- PAIRED_VECTOR_ARRIVAL: the vector enters the receive buffer in the channel's order; one that overtook an earlier vector
waits (R279). -/
def execPairedVectorArrival (v : PairVec) (s : State) : Host.Outcome State Fault Refusal :=
  match s.launch v.launch with
  | none => .next s
  | some x =>
    if x.phase != .running then .next s
    else if (s.chan v.dst v.launch v.chan).nextRecv < v.seq then .next (s.postUnit (s.now + 1) rkArrive (.pairedVectorArrival v))
    else if (s.chan v.dst v.launch v.chan).nextRecv > v.seq then .next s
    else .next (s.modChan v.dst v.launch v.chan fun c => { c with buf := c.buf ++ [v.val], nextRecv := c.nextRecv + 1 })

/-! ### Aperture requests (R318, R319, R322) -/

/-- An earlier access of the same task to the same die has not performed yet (R231). -/
def remBehind (s : State) (r : ApReq) : Bool :=
  match s.task r.loc with
  | some t =>
    match t.rems.find? fun x => x.1 = r.dst with
    | some x => x.2 != r.id && t.rems.any fun y => y.2 = r.id
    | none => false
  | none => false

/-- APERTURE_REQUEST: the access enters through the target's aperture-ingress port, behind those of its task that came before
it, and performs in a cycle of its own (R222, R231, R319). -/
def execApertureRequest (r : ApReq) (s : State) : Host.Outcome State Fault Refusal :=
  if remBehind s r then
    .next (s.postUnit (s.now + 1) rkArrive (.apertureRequest { r with waited := r.waited || held s r.dst r.tasid r.va 4 }))
  else
    let word : Bool := match r.kind with | some (some _) => true | _ => false
    .next (s.postAccess (s.now + 1) none
      { die := r.dst, mem := .virt, op := .request r, shape := { base := r.va, n := if word then 1 else 128 }, data := r.data
        en := if word then 15 else BitVec.allOnes 512, port := 21, asid := r.tasid, cls := .remote, issued := s.now
        launch := ((s.task r.loc).map (·.launch)).getD 0 })

/-- KILL_NOTICE: the context that sent a failing access or word ends (R205, R319, R339). -/
def execKillNotice (die : Nat) (asid : Nat) (launch : Nat) (s : State) : Host.Outcome State Fault Refusal :=
  if (s.ctx die asid).isSome then .next (endContext s asid 0x2C (some launch)) else .next s

/-! ### Counted messages (R336, R449) -/

/-- A counted message has reached its die. -/
def deliverCounted (s : State) (c : Counted) : State :=
  match c.body with
  | .pair v => s.postUnit s.now rkArrive (.pairedVectorArrival v)
  | .request r => s.postUnit s.now rkArrive (.apertureRequest r)
  | .answer l r id =>
    match s.task l with
    | none => s
    | some t =>
      if t.rems.any fun x => x.2 = id then
        (remDone s l id).post (s.now + 1) (landRank r.dest) (s.now * 16 + r.slot) (some l) (.resultLanding l r)
      else s
  | .done l id => remDone s l id
  | .kill asid launch => s.postUnit s.now rkArrive (.killNotice c.dst asid launch)
  | .proposal gid cyc => s.postUnit s.now rkArrive (.gangProposalReceive c.dst gid cyc)

/-- COUNTED_FLIT_ARRIVAL: a message that failed its check is sent again, and 16 failures in a row take the link down; an
intact one is delivered, goes on over the next link, or waits for a route (R336, R347, R449). -/
def execCountedFlitArrival (c : Counted) (intact : Bool) (s : State) : Host.Outcome State Fault Refusal :=
  let (f, s1) := s.nextFree
  if !intact then
    let out := (route s countedOk c.at_ c.dst).bind (·.head?)
    if c.tries ≥ 15 then
      match out with
      | some (d, k) => .next ((s1.modDie c.at_ fun x => { x with stuck := x.stuck ++ [{ c with tries := 0 }] }).postUnit s.now rkArrive (.linkDown d k))
      | none => .next (s1.modDie c.at_ fun x => { x with stuck := x.stuck ++ [{ c with tries := 0 }] })
    else .next (s1.postUnit (s.now + 1 + f % 65536) rkArrive (.countedFlitArrival { c with tries := c.tries + 1 } true))
  else if c.at_ = c.dst then .next (deliverCounted s c)
  else
    match route s countedOk c.at_ c.dst with
    | some ((d, k) :: _) =>
      .next (s1.postUnit (s.now + (linkOf s d k).lat + 24 + f % 65536) rkArrive (.countedFlitArrival { c with at_ := neighbour s d k, tries := 0 } true))
    | _ => .next (s.modDie c.at_ fun x => { x with stuck := x.stuck ++ [c] })

/-- Messages that waited for a route set out again (R449). -/
def releaseStuck (s : State) : State :=
  let all := s.dies.flatMap fun d => d.2.stuck
  let s1 := { s with dies := s.dies.map fun d => (d.1, { d.2 with stuck := [] }) }
  all.foldl (fun (st : State) c => st.postUnit (st.now + 1) rkArrive (.countedFlitArrival c true)) s1

/-! ### Links (R329, R333, R347) -/

/-- The link joins the two dies of a module over the sibling link: xp of die A and xn of die B (R329). -/
def isSiblingLink (die link : Nat) : Bool := (!isDieB die && link = 0) || (isDieB die && link = 1)

/-- Both ends of a link change. -/
def modLink (s : State) (die link : Nat) (f : Nat → Nat → Link → Link) : State :=
  let p := neighbour s die link
  let one (st : State) (d k far : Nat) : State := st.modDie d fun x => { x with links := mset x.links k (f k far ((mget x.links k).getD {})) }
  one (one s die link p) p (farLink link) die

/-- LDEG follows the link table (R365). -/
def linkHealth (d : Die) : Die :=
  let base := d.health.toNat - bits d.health.toNat 39 34 * 2 ^ 34
  { d with health := BitVec.ofNat 64 (base + (d.links.filter fun k => k.2.state = 3 && k.1 < 6).foldl (fun n k => n + 2 ^ (34 + k.1)) 0) }

/-- REPLACE is set, which raises a host event (R366). -/
def setReplace (s : State) (die : Nat) : State := (s.modDie die fun d => { d with health := d.health ||| 1 }).hostEvent 1

/-- LINK_TRAINING: the link comes UP at full width with the latency that training measured, 16 to 4,095 (R333). -/
def execLinkTraining (die : Nat) (link : Nat) (lat : Nat) (s : State) : Host.Outcome State Fault Refusal :=
  let s1 := modLink s die link fun _ far x => { x with
    state := 2, width := if isSiblingLink die link then 768 else 256
    lat := Nat.max 16 (Nat.min lat 4095), peer := far }
  let s2 := (s1.modDie die linkHealth).modDie (neighbour s die link) linkHealth
  .next (releaseStuck s2)

/-- A timed transfer still to come crosses the link: a span there, a header on its way, a departure, or an entry of a
running walker (R347). -/
def spanUsers (s : State) (die link : Nat) : List Nat :=
  let here := ((s.die die).spans.filter fun x => x.link = link && x.last ≥ s.now && !(s.die die).cut.contains x.id).map (·.launch)
  let onWay := s.calendar.filterMap fun e =>
    match e.what with
    | .routerForward d k t => if d = die && k = link then some t.launch else none
    | .fabricDeparture t => if t.hops.any fun h => h.1 = die && h.2.1 = link then some t.launch else none
    | _ => none
  let walkers := s.dies.filterMap fun d =>
    match d.2.walker.bind fun w => (mget d.2.tts w.tt).map fun t => (w, t) with
    | some (w, t) =>
      if (t.sends.mapIdx fun i e => (i, e)).any fun e => e.1 ≥ w.next && e.2.chunk ≥ w.rc &&
          (((route s timedOk d.1 e.2.dest).getD []).any fun h => h.1 = die && h.2 = link) then some w.launch else none
    | none => none
  (here ++ onWay ++ walkers).eraseDups

/-- The link-loss fault of a launch: every member's region ends; with a loaded alternate the gang is relaunched (R21, R347,
R348). -/
def linkLoss (s : State) (id : Nat) : State :=
  if ((s.launch id).map (·.gang.relaunch)).getD true then s
  else
  let mine := s.tasks.filter fun e => e.2.launch = id && (e.2.phase = .running || e.2.phase = .held || e.2.phase = .stopped)
  let s1 := s.modLaunch id fun x => { x with gang := { x.gang with relaunch := true } }
  let s2 := mine.foldl (fun (st : State) e => takeFault st e.1 { code := 0x28, slot := Slot.fb.code }) s1
  let s3 := stopLaunch s2 id
  let (n, s4) := s3.nextFree
  s4.postUnit (s4.now + 65536 + n % 65536) rkSwap (.relaunch id)

/-- The launches whose timed spans use a link in either direction. -/
def linkUsers (s : State) (die link : Nat) : List Nat :=
  ((spanUsers s die link) ++ (spanUsers s (neighbour s die link) (farLink link))).eraseDups

/-- The transfers on their way over a link are lost (R347). -/
def cutLink (s : State) (die link : Nat) : State :=
  let ids := ((s.die die).spans.filter fun x => x.link = link && x.last ≥ s.now).map (·.id)
  { s with dies := s.dies.map fun d => (d.1, { d.2 with cut := d.2.cut ++ ids }) }

/-- LINK_DEGRADE: lanes fail, the link retrains at half width, REPLACE is set; timed spans on it meet the link-loss fault
(R333). -/
def execLinkDegrade (die : Nat) (link : Nat) (lat : Nat) (s : State) : Host.Outcome State Fault Refusal :=
  let users := linkUsers s die link
  let p := neighbour s die link
  let s1 := modLink s die link fun _ far x => { x with state := 3, width := 128, lat := Nat.max 16 (Nat.min lat 4095), peer := far }
  let s2 := setReplace (setReplace ((s1.modDie die linkHealth).modDie p linkHealth) die) p
  .next (releaseStuck (users.foldl linkLoss s2))

/-- LINK_DOWN: both ends are DOWN, each die records the lost link, timed regions whose spans use it end with the link-loss
fault, and Rooster looks for another parent (R347, R375). -/
def execLinkDown (die : Nat) (link : Nat) (s : State) : Host.Outcome State Fault Refusal :=
  if (linkOf s die link).state = 0 then .next s
  else
  let users := linkUsers s die link
  let p := neighbour s die link
  let note (st : State) (d k : Nat) : State := st.errPush d 12 (errRecord 12 (unitField 13 0 k) 0 0 0 (st.grp d) 0 [])
  let s1 := cutLink (cutLink s die link) p (farLink link)
  let s2 := modLink s1 die link fun _ _ x => { x with state := 0 }
  let s3 := note (note ((s2.modDie die linkHealth).modDie p linkHealth) die link) p (farLink link)
  let s4 := forgetLink (forgetLink s3 die link) p (farLink link)
  .next (users.foldl linkLoss s4)

end Sys2Proof.Machine
end

