-- ==== Sys2Proof/Machine/Errors.lean ====
section
/-! DEFINITION. Errors of the arrays and their consequences: the scrubber (R194, R195), uncorrectable errors (R196, R205),
and the retirement of cores and pseudo-channels (R204, R366, R367). -/

namespace Sys2Proof.Machine

/-- The context whose image holds a bundle of an instruction store: the images of the cluster lie one after another. -/
def storeOwner (s : State) (die cluster : Nat) : List (Nat × Nat × Nat) → Nat → Option Nat
  | [], _ => none
  | (c, asid, im) :: r, a =>
    if c != cluster then storeOwner s die cluster r a
    else
      let n := (((s.ctx die asid).bind fun x => mget x.images im).map fun x => x.text.length).getD 0
      if a < n then some asid else storeOwner s die cluster r (a - n)

/-- The context that owns a word of an array (R196). -/
def arrayOwner (s : State) (a : SramLoc) : Option Nat :=
  let d := s.die a.loc.die
  if a.unit = 0 then mget d.tags (a.addr / 64)
  else if a.unit = 6 then storeOwner s a.loc.die (a.loc.core / 32) d.stores a.addr
  else (s.task a.loc).map (·.ctl.asid)

/-- The UNIT field of an error in an array (R254). -/
def arrayUnit (a : SramLoc) : Nat :=
  if a.unit = 0 then unitField 0 (a.addr / 2 ^ 26) (saCore a.addr) else unitField a.unit (a.loc.core / 32) (a.loc.core % 32)

/-- An owner as an error record names it: its ASID with the valid bit (R254). -/
def ownerField : Option Nat → Nat
  | some o => o + 2 ^ 15
  | none => 0

/-- The 64-byte lines of an array: accumulators, register files, stationary tile, gradient plane, result queues, and the
instruction store, where a line is a bundle (R12, R121, R149). -/
def arrayLines (unit : Nat) : Nat :=
  match unit with
  | 1 => 8192
  | 2 => 2048
  | 3 => 1024
  | 4 => 1024
  | 5 => 512
  | _ => 32768

/-- The line of an array that holds a word. -/
def arrayLine (a : SramLoc) : Nat := (if a.unit = 6 then a.addr else a.addr / 64) % arrayLines a.unit

/-- A single-bit error of a core array or of an instruction store is corrected and recorded; a core counts those of its own
arrays (R195, R366; log entry 91). -/
def correctArray (s : State) (a : SramLoc) : State :=
  let die := a.loc.die
  let s1 := s.modDie die fun d => { d with aflips := d.aflips.filter (· != a) }
  let s2 := s1.errPush die 1 (errRecord 1 (arrayUnit a) (ownerField (arrayOwner s a)) 0 a.addr (s.grp die) 0 [])
  if a.unit = 6 then s2
  else
    noteCoreErrors (s2.modDie die fun d => { d with
      coreErr := mset d.coreErr a.loc.core (((mget d.coreErr a.loc.core).getD []) ++ [s.lcc die]) }) die a.loc.core

/-- SCRUB_STEP: every 64 cycles the scrubber reads one line of each array and corrects what it finds (R11, R194, R195). -/
def execScrubStep (s : State) : Host.Outcome State Fault Refusal :=
  let die := s.at_.die
  let line := (s.die die).fscrub
  let hit := (s.die die).flips.filter fun e => e.1 % 2 ^ 21 / 64 = line % 32768
  let s1 := hit.foldl (fun (st : State) e => correctWord st die e.1) s
  let s2 := ((s.die die).aflips.filter fun a => arrayLine a = line % arrayLines a.unit).foldl correctArray s1
  .next ((s2.modDie die fun d => { d with fscrub := (line + 1) % 32768 }).postDie die (s.now + 64) rkRead .scrubStep)

/-- UNCORRECTABLE_SRAM_ERROR: the owner of the word is killed; a slice line without an owner is zeroed; every case is
recorded. An error in the core arrays retires the core (R196, R366). -/
def execUncorrectableSramError (a : SramLoc) (s : State) : Host.Outcome State Fault Refusal :=
  let die := a.loc.die
  let task := s.task a.loc
  let owner := arrayOwner s a
  let s1 := s.errPush die 2 (errRecord 2 (arrayUnit a) (ownerField owner) 0x2D a.addr (s.grp die) 0 [])
  let s2 := if a.unit = 0 then s1.modDie die fun d => setMem s.now d .scratch (Mem.clear d.scratch (a.addr / 64 * 64) 64) else s1
  let s3 := match owner with
    | some o => endContext s2 o 0x2D (if 1 ≤ a.unit && a.unit ≤ 5 then task.map (·.launch) else none)
    | none => s2
  if 1 ≤ a.unit && a.unit ≤ 5 && !(s3.die die).toRetire.contains a.loc.core && !(s3.die die).absent.contains a.loc.core then
    .next ((s3.modDie die fun d => { d with toRetire := d.toRetire ++ [a.loc.core] }).postAt a.loc s.now rkSwap s3.seq none .coreRetirement)
  else .next s3

/-- UNCORRECTABLE_MEMORY_ERROR: the block is poisoned and the context whose page holds it ends; a block that no context owns
is recorded and cleared (R205). -/
def execUncorrectableMemoryError (die : Nat) (dpa : Nat) (unit : Nat) (s : State) : Host.Outcome State Fault Refusal :=
  let owners := pageOwners (s.die die) dpa
  let field := match owners with
    | o :: _ => o + 2 ^ 15
    | [] => 0
  let b := dpa / 64
  let s1 := s.errPush die 4 (errRecord 4 unit field 0x2E (b * 64) (s.grp die) 0 [])
  match owners with
  | [] => .next (s1.modDie die fun d => { d with dram := Mem.clear d.dram (b * 64) 64, poison := d.poison.filter (· != b) })
  | _ =>
    let s2 := s1.modDie die fun d => if d.poison.contains b then d else { d with poison := d.poison ++ [b] }
    .next (owners.foldl (fun (st : State) o => endContext st o 0x2E none) s2)

/-- PSEUDO_CHANNEL_RETIREMENT: PCRET counts it, and REPLACE is set (R204, R365). Every page of a stack has blocks in every
pseudo-channel (R199), so its remapping keeps each DPA with its contents and corrects what the copy reads; only which cells
hold them changes (DEDUCED, log entry 91). -/
def execPseudoChannelRetirement (die : Nat) (stack pc : Nat) (s : State) : Host.Outcome State Fault Refusal :=
  let key := stack * 64 + pc
  if (s.die die).retiredPc.contains key then .next s
  else
    let n := bits (s.die die).health.toNat 47 40
    let lost := (s.die die).mflips.filter fun b => dpaHbm (b * 64) && dpaStack (b * 64) = stack && dpaPc (b * 64) = pc
    let s0 := s.modDie die fun d => { d with retiredPc := d.retiredPc ++ [key] }
    let s1 := (lost.foldl (fun (st : State) b => correctBlock st die b) s0).modDie die fun d => { d with
      health := BitVec.ofNat 64 (d.health.toNat - n * 2 ^ 40 + Nat.min (n + 1) 255 * 2 ^ 40) }
    let s2 := s1.errPush die 9 (errRecord 9 (unitField 7 stack pc) 0 0 0 (s.grp die) 0 [])
    .next (setReplace s2 die)

/-- The lines of a slice, as first byte addresses. -/
def sliceLine (core a : Nat) : Bool := saSlice (a * 64) = core

/-- CORE_RETIREMENT: once the core holds no task, the spare takes its index with every owned line of its slice; with no spare
left the index becomes absent, its owned lines are lost, and each context that held one is told (R366, R367). -/
def execCoreRetirement (s : State) : Host.Outcome State Fault Refusal :=
  let die := s.at_.die
  let core := s.at_.core
  let d := s.die die
  let c := core / 32
  if (s.task s.at_).isSome || !d.toRetire.contains core then .next s
  else
    let s0 := s.modDie die fun d => { d with
      toRetire := d.toRetire.filter (· != core)
      coreErr := mdel d.coreErr core
      aflips := d.aflips.filter fun a => a.unit = 6 || a.loc.core != core
      flips := d.flips.filter fun e => saSlice e.1 != core }
    if d.spares.contains c then
      let lost := (d.tags.filter fun e => sliceLine core e.1).map (·.2)
      let s1 := lost.eraseDups.foldl (fun (st : State) o =>
        st.errPush die 11 (errRecord 11 (unitField 0 c (core % 32)) (o + 2 ^ 15) 0 0 (s.grp die) 0 [])) s0
      let s2 := s1.modDie die fun d => { d with
        absent := d.absent ++ [core]
        tags := d.tags.filter fun e => !sliceLine core e.1
        scratch := d.scratch.filter fun x => saSlice x.1 != core
        health := d.health ||| BitVec.ofNat 64 (2 ^ (26 + c)) }
      .next (setReplace s2 die)
    else
      .next (s0.modDie die fun d => { d with
        spares := d.spares ++ [c]
        scratch := d.scratch.filter fun x => saSlice x.1 != core || (mget d.tags (x.1 / 64)).isSome
        health := d.health ||| BitVec.ofNat 64 (2 ^ (18 + c)) })

end Sys2Proof.Machine
end

