-- ==== Sys2Proof/Machine/Saves.lean ====
section
/-! DEFINITION. The bytes of a save record: the late-write entries (R300) and the record's parts (R301). -/

namespace Sys2Proof.Machine

/-! ### The late-write buffer (R172, R300) -/

/-- KIND and destination number of an entry (R300). -/
def lateKind : Dest → Nat × Nat
  | .x n => (1, n)
  | .p n => (2, n)
  | .stage b => (2, b)
  | .v n => (3, n)
  | .g n => (4, n)
  | .m n => (5, n)
  | .acc r => (6, r)
  | .plane => (7, 0)
  | .creg n => (8, n)
  | .afmt => (9, 0)
  | _ => (0, 0)

/-- MODE of an entry; an MGBEAT's second entry has MODE 6 (R300). -/
def lateMode : LMode → Nat
  | .replace => 0
  | .beatAcc => 1
  | .beatSet => 2
  | .f32acc => 3
  | .mgbeat => 4
  | .intBeatAcc => 5
  | .zero => 7

/-- The bits of a landing's enable that an 8-byte group of VALUE stands for: bytes of a register, bits of a mask. -/
def groupWidth : Dest → Option Nat
  | .v _ => some 8
  | .g _ => some 8
  | .m _ => some 64
  | _ => none

/-- The enable of each 8-byte group: all of its bits, any of them. -/
def lateGroups (r : Landing) (w : Nat) : List (Nat × Nat) :=
  (List.range (512 / w)).map fun g => (bits r.en.toNat (w * g + w - 1) (w * g), 2 ^ w - 1)

/-- A group of VALUE is only partly enabled: a byte-enable extension follows the entry (R300). -/
def latePartly (r : Landing) : Bool :=
  (groupWidth r.dest).any fun w => (lateGroups r w).any fun g => g.1 != 0 && g.1 != g.2

/-- Group enables: bit j when any byte of group j is enabled, all ones for the other destinations (R300). -/
def groupEnables (r : Landing) : Nat :=
  match groupWidth r.dest with
  | some w => pack ((lateGroups r w).map fun g => (1, bit (g.1 != 0)))
  | none => 2 ^ 64 - 1

/-- An entry of 576 B (R300). -/
def lateEntry (kind mode dest r enables : Nat) (v : Vec) : List Byte :=
  bytesOf (pack [(16, kind), (16, mode), (16, dest), (16, r), (64, enables), (384, 0), (4096, v.toNat)]) 576

/-- The entries of one landing that takes any: its own, the second of an MGBEAT, the extension of a partly enabled write (R172, R300). -/
def lateBytes (e : Late) : List Byte :=
  let l := e.land
  let k := lateKind l.dest
  let one (mode : Nat) (v : Vec) : List Byte := lateEntry k.1 mode k.2 e.r (groupEnables l) v
  if k.1 = 0 then [] else one (lateMode l.mode) l.val ++ (if l.mode == .mgbeat then one 6 l.val2 else []) ++
    (if latePartly l then one 8 (BitVec.ofNat 4096 l.en.toNat) else [])

/-! ### The parts of a record (R301)

R301 gives each part its size and what it holds. Where it gives no places within a part, the fields stand in the order of its
table, 8 B each (DESIGN CHOICE, log entry 56). -/

/-- A part, padded with zero bytes to its size. -/
def savePart (size : Nat) (l : List Byte) : List Byte := l.take size ++ List.replicate (size - l.length) 0

def saveWords (l : List Nat) : List Byte := l.flatMap fun n => bytesOf n 8

/-- The rows of a register file, 512 B each. -/
def saveRows (m : Map Vec) (n : Nat) : List Byte :=
  (List.range n).flatMap fun i => match mget m i with
    | some v => bytesOf v.toNat 512
    | none => List.replicate 512 0

/-- The header: launch, team, TASKIX, bundles, S, schedule, equivalence id, tiles. -/
def saveHeader (t : Task) (tm : Team) (sched eq : Nat) : List Byte :=
  saveWords [t.launch, tm.coords.1, tm.coords.2.1, tm.coords.2.2, t.ctl.taskix, t.stopBundle, t.fetch.pc, t.stopAt, sched, eq, tm.nx, tm.en]

/-- Scalar, predicate and mask files, loop stack, control registers, AFMT, saturation flags, statistics queue and late-write
count; behind them the ready cycles and the tile's formats, for which their own parts have no room. -/
def saveScalars (t : Task) : List Byte :=
  let a := t.arch
  saveWords ((List.range 32).map fun i => (rd a.x i).toNat) ++ saveWords [a.p.toNat] ++
    ((List.range 8).flatMap fun i => bytesOf (rd a.m i).toNat 64) ++
    (a.levels.flatMap fun v => saveWords [v.cnt, v.idx.toNat, v.str.toNat, v.start, v.lend, bit v.first + 2 * bit v.null]) ++
    saveWords [a.ldepth, a.rrb, a.ec, a.alslack, a.remt, a.goff.toNat, wrap64 t.ctl.dlt, t.ctl.curlim, t.ctl.frzcnt, t.ctl.trapc.toNat,
      t.ctl.trapva.toNat, t.ctl.stqlost, t.ctl.rchunk, a.afmt.code] ++ bytesOf a.satf.toNat 128 ++
    savePart 1024 (t.stq.flatMap fun e => saveWords [e.2.2.toNat]) ++ saveWords [t.stq.length, t.late.length] ++
    savePart 512 (t.mat.queues.flatMap fun q => savePart 128 (q.ents.flatMap fun e => saveWords [e.ready - (t.stopAt + 1)])) ++
    saveWords [t.mat.wfmt.code, bit t.mat.dirW, t.mat.edge]

/-- The eight bindings with their positions, and the vectors read ahead with their remaining ready cycles. -/
def saveStreams (t : Task) : List Byte :=
  (t.arch.strms.flatMap fun z => bytesOf z.desc.toNat 64 ++ saveWords [bit z.valid, z.k]) ++
    t.units.flatMap fun u => savePart 2080 (u.ahead.flatMap fun e => saveWords [e.ready - (t.stopAt + 1)] ++ bytesOf e.val.toNat 512)

/-- TOP, the segments' states, the open block, the packing buffer and the walk (R257). -/
def saveResidual (t : Task) : List Byte :=
  let a := t.arch
  let state (g : Seg) : Nat := match g.st with
    | .resident => 0
    | .outbound => 1
    | .away => 2
    | .inbound => 3
  saveWords ([a.top, t.res.spillBase, t.res.spillSize, bit a.blk.isSome, (a.blk.map (·.block)).getD 0, (a.blk.map (·.start)).getD 0, a.pack.length] ++
    a.pack.map (·.toNat) ++ [a.walk.pos, a.walk.block, if a.walk.mode == .reverse then 2 else bit (a.walk.mode == .replay), a.walk.unpack.length] ++
    a.walk.unpack.map (·.toNat) ++ t.res.segs.flatMap fun g => [g.1 * 4 + state g.2])

/-- A task's record, part after part, each on a 4 KiB boundary. -/
def recordBytes (t : Task) (tm : Team) (sched eq : Nat) (chans : List Chan) (scratch window : List Byte) : List Byte :=
  savePart 4096 (saveHeader t tm sched eq) ++ savePart 4096 (saveScalars t) ++ saveRows t.arch.v 64 ++ saveRows t.arch.g 64 ++
    savePart 32768 (t.mat.queues.flatMap fun q => savePart 8192 (q.ents.flatMap fun e => bytesOf e.val.toNat 512)) ++
    savePart 36864 (saveStreams t) ++ savePart 28672 (t.late.flatMap lateBytes) ++
    savePart 4096 (t.mat.arows.flatMap fun a => bytesOf a.val.toNat 512) ++ saveRows t.mat.w 128 ++ saveRows t.mat.plane 128 ++
    saveRows t.mat.acc 1024 ++ savePart 4096 (saveResidual t) ++
    (chans.flatMap fun c => savePart 4096 (c.buf.flatMap fun v => bytesOf v.toNat 512)) ++ scratch ++ window

/-- The bytes stand in the 4 KiB blocks of the save area that the record takes. -/
def putRecord (m : Mem) (base : Nat) : List Nat → List Byte → Mem
  | [], _ => m
  | b :: r, l => putRecord (Mem.putBytes m (base + 4096 * b) (l.take 4096)) base r (l.drop 4096)

end Sys2Proof.Machine
end

