-- ==== Sys2Proof/Machine/Sched.lean ====
section
/-! DEFINITION. The die scheduler: priority tokens and placement (R286 to R291), pre-emption (R294 to R298), the stop and the
save (R299 to R304), resumes (R305), retirement and completion (R28, R293), and segment replay (R307, R308). -/

namespace Sys2Proof.Machine

/-! ### Shape of a launch (R16, R285) -/

def gridSize (d : LaunchDesc) : Nat := d.ext.1 * d.ext.2.1 * d.ext.2.2
/-- A zero extent in any dimension (R28). -/
def zeroCount (d : LaunchDesc) : Bool := gridSize d = 0
/-- Teams of a launch over all its dies. -/
def totalTeams (x : Launch) : Nat := x.homes.foldl (fun n m => n + gridSize (x.descOn m)) 0
/-- Coordinates of a team from its linear index, the first extent varying fastest (R289). -/
def teamCoords (d : LaunchDesc) (k : Nat) : Nat × Nat × Nat :=
  (k % d.ext.1, k / d.ext.1 % d.ext.2.1, k / (d.ext.1 * d.ext.2.1))

/-! ### Queues and tokens (R286, R287) -/

def params (s : State) (die asid : Nat) : SchedParams :=
  ((s.ctx die asid).map (·.params)).getD { ageq := 1048576, draint := 8, killt := 224, pregap := 64 }

/-- The priority tokens of a launch that waits since a GRP value (R287). -/
def agedTokens (s : State) (x : Launch) (base since : Nat) : Nat :=
  Nat.min 255 (base + ((s.grp x.die + 2 ^ 64 - since) % 2 ^ 64) / Nat.max 1 (params s x.die x.asid).ageq)

/-- The tokens with which a launch bids for its next team. -/
def tokensOf (s : State) (x : Launch) : Nat :=
  match x.tokens, x.requeued with
  | none, _ => agedTokens s x (32 * x.desc.level) (x.head.getD (s.grp x.die))
  | some b, (_, w) :: _ => agedTokens s x b w
  | some b, [] => b

/-- Every pair of the wait list holds (R286). -/
def waitsMet (s : State) (x : Launch) : Bool := x.desc.waits.all fun w => counterVal s x.die w.1 ≥ w.2

/-- An input handle of the launch is dropped, or is still being rebuilt (R307). -/
def inputDropped (s : State) (x : Launch) : Bool :=
  match s.ctx x.die x.asid with
  | none => false
  | some c => x.desc.inputs.any fun h => ((mget c.handles h).map hDropped).getD false
def inputRebuilding (s : State) (x : Launch) : Bool :=
  match s.ctx x.die x.asid with
  | none => false
  | some c => x.desc.inputs.any fun h =>
    match mget c.rebuild h with
    | some ids => ids.any fun i => ((s.launch i).map fun y => y.phase.live).getD false
    | none => false

/-- The launch leaves its queue: the next one is its head from this cycle on. -/
def popQueue_ (s : State) (x : Launch) (id : Nat) : State :=
  noteHeads (s.modCtx x.die x.asid fun c => { c with queues := c.queues.map fun q => (q.1, q.2.filter fun n => n != id) }) x.die

/-- A zero-count head with its waits met completes at once, in queue order (R28). -/
def settleHeads (s : State) (die : Nat) : Nat → State
  | 0 => s
  | n + 1 =>
    let s1 := noteHeads s die
    match (queueHeads s1 die).find? fun h => zeroCount h.2.desc && waitsMet s1 h.2 with
    | some h =>
      let s2 := (popQueue_ s1 h.2 h.1).modLaunch h.1 fun x => { x with phase := .completing }
      settleHeads (s2.postUnit s2.now (rkSwap + 1) (.launchComplete h.1)) die n
    | none => s1

/-! ### Where a team fits (R289) -/

/-- The core is held by a resident team: its member has neither been saved nor killed. -/
def coreHeld (d : Die) (core : Nat) : Bool :=
  d.teams.any fun t => (t.2.cores.mapIdx fun i c => (i, c)).any fun m => m.2 = core && !t.2.saved.contains m.1

/-- The free cores of a cluster for a launch: active, held by no team, their slice not being saved, and the cluster not
reserved for another gang (R289, R290). -/
def freeCores (d : Die) (c launch : Nat) : List Nat :=
  if d.gangCores.any fun g => g.1 != launch && g.2 / 32 = c then []
  else ((List.range 24).map fun i => c * 32 + i).filter fun k =>
    !d.absent.contains k && !d.toRetire.contains k && !coreHeld d k && !d.savingCores.contains k

/-- Bundles of an image. -/
def imageSize (s : State) (die asid im : Nat) : Nat := (((s.ctx die asid).bind fun x => mget x.images im).map fun x => x.text.length).getD 0

/-- An image of a cluster's instruction store that a resident team there runs, teams that go left out. -/
def imageUsed (s : State) (die c asid im : Nat) (gone : List Nat) : Bool :=
  (s.die die).teams.any fun t => t.2.cluster = c && !gone.contains t.1 &&
    match s.launch t.2.launch with
    | some x => x.asid = asid && (x.descOn die).image = im
    | none => false

/-- Bundles that the images of resident teams keep in a cluster's store. -/
def storeKept (s : State) (die c : Nat) (gone : List Nat) : Nat :=
  ((s.die die).stores.filter fun x => x.1 = c && imageUsed s die c x.2.1 x.2.2 gone).foldl (fun n x => n + imageSize s die x.2.1 x.2.2) 0

/-- The store of a cluster holds an image, or can take it once some teams are gone (R289). -/
def storeFits (s : State) (die c asid im : Nat) (gone : List Nat) : Bool :=
  ((s.die die).stores.any fun x => x = (c, asid, im)) || decide (storeKept s die c gone + imageSize s die asid im ≤ 32768)

/-- The instruction store of a cluster holds an image, after evicting images without a resident task; or none when it does
not fit 32,768 bundles (R289). -/
def loadStore (s : State) (die c asid im : Nat) : Option State :=
  let d := s.die die
  if d.stores.any fun x => x = (c, asid, im) then some s
  else
    let used := storeKept s die c []
    let all := (d.stores.filter fun x => x.1 = c).foldl (fun n x => n + imageSize s die x.2.1 x.2.2) 0
    let me := imageSize s die asid im
    if all + me ≤ 32768 then some (s.modDie die fun d => { d with stores := d.stores ++ [(c, asid, im)] })
    else if used + me ≤ 32768 then
      some (s.modDie die fun d => { d with stores := (d.stores.filter fun x => x.1 != c || imageUsed s die c x.2.1 x.2.2 []) ++ [(c, asid, im)] })
    else none

/-- The lowest cluster with enough free cores whose store takes the image. -/
def placeable (s : State) (die id size asid im : Nat) : Option (Nat × List Nat × State) :=
  (List.range 8).findSome? fun c =>
    let f := freeCores (s.die die) c id
    if f.length < size then none else (loadStore s die c asid im).map fun st => (c, f.take size, st)

/-! ### Starting a team (R25, R27, R104, R177, R291) -/

/-- Cycles from now to a GRP value of a die, none when it has passed. -/
def untilGrp (s : State) (die g : Nat) : Nat := (stepTo (s.grp die) g).toNat

/-- The launch cycle of a dispatch wave: the pass rounded up to a multiple of 64, and 4,096 cycles, later by what the
preparation of its slices takes beyond them, a free value that the wave's teams share (R27; log entry 94). -/
def waveCycle (s : State) (die : Nat) : Nat := ((s.grp die + 63) / 64 * 64 + 4096 + Config.prepExcess die s.now) % 2 ^ 64

/-- A new team of a launch on a cluster, with its tile range (R25, R292). -/
def newTeam (s : State) (die id : Nat) (x : Launch) (k c : Nat) (cores : List Nat) (cyc : Nat) : Team :=
  let d := x.descOn die
  { launch := id, cluster := c, cores, linear := k, coords := teamCoords d k, nx := k * d.tpt
    en := Nat.min ((k + 1) * d.tpt) (d.tiles.1 * d.tiles.2.1 * d.tiles.2.2), launchCycle := cyc
    start := (cyc + c * 2048) % 2 ^ 64, tokens := x.tokens.getD (tokensOf s x), dispatched := s.now }

/-- The team is resident; its cluster starts it at its start cycle. -/
def addTeam (s : State) (die : Nat) (num : Nat) (t : Team) (resume : Bool) : State :=
  let s1 := s.modDie die fun d => { d with teams := mset d.teams num t, nextTeam := Nat.max d.nextTeam (num + 1) }
  let r : TeamRef := { die, team := num }
  s1.postUnit (s1.now + untilGrp s1 die t.start) rkRead (if resume then .teamResume r else .clusterStart r)

/-- Keys from lo up to lo + n − 1 of a map all take one value. -/
def mfill {α : Type} (m : Map α) (lo n : Nat) (a : α) : Map α :=
  (m.filter fun e => e.1 < lo) ++ ((List.range n).map fun i => (lo + i, a)) ++ m.filter fun e => lo + n ≤ e.1

/-- The lines of a range take the context's tag; those that had not carried it are zeroed first (R177). -/
def ownLines (d : Die) (now asid a n : Nat) : Die :=
  let keep (x : Nat) : Bool := x < a || a + n ≤ x || mget d.tags (x / 64) = some asid
  { setMem now d .scratch (d.scratch.filter fun c => keep c.1) with tags := mfill d.tags (a / 64) (n / 64) asid }

/-- The argument area of a team (R291). -/
def argArea (x : Launch) (id die : Nat) (t : Team) : List Byte :=
  let d := x.descOn die
  let head := pack [(64, t.launchCycle), (64, id), (64, d.args.length), (16, d.ext.1), (16, d.ext.2.1), (32, d.ext.2.2),
    (16, d.tiles.1), (16, d.tiles.2.1), (32, d.tiles.2.2), (64, t.linear * d.tpt), (64, d.tpt), (64, 0)]
  bytesOf head 64 ++ d.args ++ List.replicate (4032 - d.args.length) 0

/-- The slice base of a core. -/
def sliceBase (core : Nat) : Nat := core / 32 * 2 ^ 26 + core % 32 * 2 ^ 21

/-- Ebile prepares a slice: the lines of both windows, the image's scratch data, and the argument area behind it (R177). -/
def prepareSlice (s : State) (l : Loc) (x : Launch) (id : Nat) (t : Team) : State :=
  let d := x.descOn l.die
  let b := sliceBase l.core
  let img := ((s.ctx l.die x.asid).bind fun c => mget c.images d.image).getD {}
  s.modDie l.die fun y =>
    let y1 := ownLines (ownLines y s.now x.asid b d.swsize) s.now x.asid (b + 2 ^ 21 - d.rw) d.rw
    let m := img.scratch.foldl (fun m e => Mem.wrBytes m (b + e.1) (e.2.take (d.swsize - e.1))) y1.scratch
    setMem s.now y1 .scratch (Mem.wrBytes m b ((argArea x id l.die t).take d.swsize))

/-- A task as the clear engine and the dispatcher leave it (R90, R102, R104, R257, R438). -/
def newTask (x : Launch) (id num : Nat) (l : Loc) (t : Team) (ix : Nat) : Task :=
  let d := x.descOn l.die
  let b := sliceBase l.core
  { arch := { x := [(1, BitVec.ofNat 64 b)] }
    fetch := { pc := d.entry }
    ctl := { curlim := d.curlim, asid := x.asid, gang := d.gang, teamx := t.coords.1, teamy := t.coords.2.1, teamz := t.coords.2.2
             taskix := ix, teamsz := d.teamSize, swbase := b, swsize := d.swsize, rchunk := x.gang.rchunk }
    res := { rw := d.rw, spillBase := d.spillBase + (t.linear * d.teamSize + ix) * d.spillSize, spillSize := d.spillSize }
    wait := .start, launch := id, team := num, image := d.image, stop := t.stopping }

/-- CLUSTER_START: at the cluster's start cycle the clear engine begins and the slices are ready; each first bundle follows
185 cycles later (R25, R104, R291). -/
def execClusterStart (r : TeamRef) (s : State) : Host.Outcome State Fault Refusal :=
  match s.team r.die r.team with
  | none => .next s
  | some t =>
    match s.launch t.launch with
    | none => .next s
    | some x =>
      if untilGrp s r.die t.start > 0 then .next (s.postUnit (s.now + untilGrp s r.die t.start) rkRead (.clusterStart r))
      else
        let ms := t.cores.mapIdx fun i c => (i, c)
        .next (ms.foldl (fun (st : State) m =>
          let l : Loc := { die := r.die, core := m.2 }
          let st := prepareSlice st l x t.launch t
          let st := st.modDie r.die fun d => { d with tasks := mset d.tasks m.2 (newTask x t.launch r.team l t m.1) }
          st.postAt l (st.now + 185) rkFlag (coreOrd l) none .taskFirstBundle) s)

/-- DLT := GRP − LCC (R370). -/
def setDlt (s : State) (l : Loc) (t : Task) : Task := { t with ctl := { t.ctl with dlt := stepTo (s.lcc l.die) (s.grp l.die) } }

/-- TASK_FIRST_BUNDLE: DLT is written and the first bundle issues, 185 cycles of GRP after the start cycle; a resumed task
goes on from its record, its late writes landing at their offsets (R104, R305, R370). -/
def execTaskFirstBundle (s : State) : Host.Outcome State Fault Refusal :=
  let l := s.at_
  match s.task l with
  | none => .next s
  | some t =>
    let due := untilGrp s l.die ((((s.team l.die t.team).map (·.start)).getD 0 + 185) % 2 ^ 64)
    if due > 0 && due < 2 ^ 62 then .next (s.postAt l (s.now + due) rkFlag (coreOrd l) none .taskFirstBundle)
    else
      let t1 := setDlt s l t
      if t.phase = .stopped then
        let s1 := s.setTask l { t1 with aligned := s.gcc l t1, stop := ((s.team l.die t.team).map (·.stopping)).getD .none, lateRows := [] }
        let s2 := resumeAt s1 l s.now
        .next (t.lateRows.foldl (fun (st : State) x =>
          st.postAt l (s.now + x.1) rkRead st.seq (some l) (.aRowArrival l x.2.val x.2.fmt)) s2)
      else
        let s1 := s.setTask l (takeCheckpoint s.now l [] { t1 with wait := .none })
        .next (s1.postIssue s.now l)

/-! ### Pre-emption (R294 to R298, R303) -/

/-- Every task of a team is asked to stop. -/
def askStop (s : State) (die num : Nat) (q : StopReq) : State :=
  let s1 := s.modTeam die num fun t => { t with stopping := q, draining := false, deadline := none }
  s1.modDie die fun d => { d with tasks := d.tasks.map fun t => if t.2.team = num then (t.1, { t.2 with stop := q }) else t }

/-- The channels of a die that a team's task uses (R279, R301). -/
def taskChans (s : State) (die : Nat) (t : Team) (i : Nat) : List Chan :=
  ((s.die die).chans.filter fun c =>
    c.1 / 256 = t.launch && c.2.user = some (taskIdent t.coords.1 t.coords.2.1 t.coords.2.2 i)).map (·.2)

/-- The footprint of a team's task (R301). -/
def memberBytes (s : State) (die : Nat) (t : Team) (i : Nat) : Nat :=
  match s.launch t.launch with
  | none => 0
  | some x =>
    let d := x.descOn die
    816 * 1024 + 4096 * (taskChans s die t i).length + d.swsize + d.rw

/-- The footprint of a team's tasks that have not retired (R301). -/
def teamBytes (s : State) (die num : Nat) : Nat :=
  match s.team die num with
  | none => 0
  | some t => (List.range t.cores.length).foldl (fun n i => if t.retired.contains i then n else n + memberBytes s die t i) 0

/-- Bytes of the save area are set aside for a team (R303). -/
def takeRoom (s : State) (die asid num need : Nat) : State :=
  (s.modCtx die asid fun c => { c with saveFree := c.saveFree - need }).modTeam die num fun t => { t with room := need }

/-- Rules 2 and 3 of R295, and what R303 does when the save area has no room. -/
def killOrSave (s : State) (die num tokens : Nat) : State :=
  match s.team die num with
  | none => s
  | some t =>
    match s.launch t.launch with
    | none => s
    | some x =>
      let p := params s die x.asid
      let d := x.descOn die
      let need := teamBytes s die num
      let room := ((s.ctx die x.asid).map (·.saveFree)).getD 0
      if d.killable && tokens ≥ p.killt then askStop s die num .kill
      else if need ≤ room then askStop (takeRoom s die x.asid num need) die num .save
      else if d.drainok then s.modTeam die num fun t => { t with draining := true, deadline := none }
      else if d.killable then askStop s die num .kill
      else endLaunch s t.launch 0x100

/-- The decision for a victim (R295, R296). -/
def decideVictim (s : State) (die num for_ tokens : Nat) : State :=
  match s.team die num with
  | none => s
  | some t =>
    let p := params s die (((s.launch t.launch).map (·.asid)).getD 0)
    let s1 := s.modTeam die num fun t => { t with for_ }
    let near := (t.cores.mapIdx fun i c => (i, c)).all fun m => t.retired.contains m.1 ||
      match s.task { die, core := m.2 } with
      | some k => k.team = num && k.arch.remt ≤ p.draint && k.arch.remt != 0xFFFFFFFF
      | none => false
    if near then
      let dl := s.now + 2 * p.draint * 1024 + 65536
      (s1.modTeam die num fun t => { t with draining := true, deadline := some dl }).postUnit dl rkCount (.drainDeadline { die, team := num })
    else killOrSave s1 die num tokens

/-- DRAIN_DEADLINE: a team still resident is decided again by kill or save alone (R296). -/
def execDrainDeadline (r : TeamRef) (s : State) : Host.Outcome State Fault Refusal :=
  match s.team r.die r.team with
  | none => .next s
  | some t =>
    if t.draining && t.deadline = some s.now then
      let tok := ((s.launch t.for_).map (tokensOf s)).getD 0
      .next (killOrSave (s.modTeam r.die r.team fun t => { t with draining := false, deadline := none }) r.die r.team tok)
    else .next s

/-- A resident team already makes room. -/
def Team.leaving (t : Team) : Bool := t.draining || t.stopping != .none

/-- The victims of a cluster in the order they are considered (R294). -/
def victims (s : State) (die c tokens : Nat) : List (Nat × Team) :=
  let ok := (s.die die).teams.filter fun t => t.2.cluster = c && !t.2.leaving &&
    match s.launch t.2.launch with
    | some x => !x.desc.gang && t.2.tokens + (params s die x.asid).pregap ≤ tokens
    | none => false
  ok.foldl (fun l t => vInsert t l) []
where
  vInsert (t : Nat × Team) : List (Nat × Team) → List (Nat × Team)
    | [] => [t]
    | x :: r => if t.2.tokens < x.2.tokens || (t.2.tokens = x.2.tokens && t.2.dispatched > x.2.dispatched) then t :: x :: r else x :: vInsert t r

/-- How many victims of a list leave enough, given the cores that are free and the teams that are gone. -/
def victimsNeeded (enough : Nat → List Nat → Bool) : List (Nat × Team) → Nat → List Nat → Option Nat
  | l, free, gone =>
    if enough free gone then some 0
    else match l with
      | [] => none
      | x :: r => (victimsNeeded enough r (free + x.2.cores.length) (x.1 :: gone)).map (· + 1)

/-- The cores that a leaving team still holds and will leave free. -/
def stillHeld (d : Die) (t : Team) : Nat :=
  ((t.cores.mapIdx fun i c => (i, c)).filter fun m => !t.saved.contains m.1 && !d.absent.contains m.2 && !d.toRetire.contains m.2).length

/-- The scheduler makes room for a head that cannot place its next team: victims of the cluster where the fewest leave it
cores and store enough under R289 (R294). -/
def makeRoom (s : State) (die id : Nat) (x : Launch) : State :=
  let tok := tokensOf s x
  let d := x.descOn die
  let best := (List.range 8).foldl (fun (b : Option (Nat × Nat)) c =>
    if (s.die die).gangCores.any fun g => g.1 != id && g.2 / 32 = c then b
    else
      let going := (s.die die).teams.filter fun t => t.2.cluster = c && t.2.leaving
      let free := going.foldl (fun n t => n + stillHeld (s.die die) t.2) (freeCores (s.die die) c id).length
      let enough (n : Nat) (gone : List Nat) : Bool := decide (d.teamSize ≤ n) && storeFits s die c x.asid d.image gone
      match victimsNeeded enough (victims s die c tok) free (going.map (·.1)) with
      | some n => match b with
        | none => some (n, c)
        | some y => if n < y.1 then some (n, c) else b
      | none => b) none
  match best with
  | none => s
  | some (n, c) => ((victims s die c tok).take n).foldl (fun (st : State) v => decideVictim st die v.1 id tok) s

/-! ### Placement passes (R288, R289) -/

/-- A launch that bids for a team: its round-robin pair, and what it would place. -/
structure Bid where
  id : Nat
  tokens : Nat
  key : Nat
  next : Bool
deriving DecidableEq, Repr, Inhabited

/-- The bids of a die: heads with their waits met and inputs at hand, and launches with teams to restart or resume. -/
def bids (s : State) (die : Nat) : List Bid :=
  let closed := !(s.die die).ewait.isEmpty
  let heads := (queueHeads s die).filterMap fun h =>
    if !h.2.desc.gang && waitsMet s h.2 && !inputDropped s h.2 && !inputRebuilding s h.2 && h.2.nextTeam < gridSize h.2.desc &&
       !(closed && h.2.tokens.isNone) then
      some { id := h.1, tokens := tokensOf s h.2, key := h.2.asid * 32 + h.2.queue, next := true : Bid }
    else none
  let back := s.launches.filterMap fun x =>
    if x.2.die = die && !x.2.desc.gang && x.2.phase = .running && (!x.2.requeued.isEmpty || x.2.saved.any fun v => !v.recs.isEmpty && ready die v s) then
      some { id := x.1, tokens := tokensOf s x.2, key := x.2.asid * 32 + x.2.queue, next := false : Bid }
    else none
  heads ++ back
where
  /-- The saved team has left its cores. -/
  ready (die : Nat) (v : SavedTeam) (s : State) : Bool := (s.team die v.num).isNone

/-- Descending tokens; among equals the pairs behind the round-robin pointer first (R288). -/
def bidInsert (rr : Nat) (b : Bid) : List Bid → List Bid
  | [] => [b]
  | x :: r =>
    let away (k : Nat) : Nat := (k + 16384 - rr - 1) % 16384
    if b.tokens > x.tokens || (b.tokens = x.tokens && away b.key < away x.key) then b :: x :: r else x :: bidInsert rr b r

/-- The bulk tags that Ebile allocates to a launch at its dispatch: those its image names that no other launch on its dies
holds (R214; log entry 42). -/
def allocTags (s : State) (id : Nat) (x : Launch) : List (Nat × Nat) :=
  x.tags.filter fun g => !s.launches.any fun y =>
    y.1 != id && (y.2.phase = .running || y.2.phase = .completing) && y.2.tags.contains g && y.2.homes.any x.homes.contains

/-- The launch's first dispatch fixes its tokens and allocates its bulk tags (R214, R287). -/
def firstDispatch (s : State) (id : Nat) (x : Launch) : State :=
  s.modLaunch id fun y => { y with phase := .running, tokens := some (y.tokens.getD (tokensOf s x)), tags := allocTags s id x }

/-- A bid places one team, when it can: the cluster with the state. -/
def placeBid (s : State) (die : Nat) (b : Bid) : Option (Nat × State) :=
  match s.launch b.id with
  | none => none
  | some x =>
    let d := x.descOn die
    match placeable s die b.id d.teamSize x.asid d.image with
    | none => none
    | some (c, cores, s1) =>
      let cyc := waveCycle s die
      if b.next then
        let s2 := addTeam (firstDispatch s1 b.id x) die (s1.die die).nextTeam (newTeam s1 die b.id x x.nextTeam c cores cyc) false
        let s3 := s2.modLaunch b.id fun y => { y with nextTeam := y.nextTeam + 1 }
        some (c, if x.nextTeam + 1 ≥ gridSize d then popQueue_ s3 x b.id else s3)
      else
        match x.requeued with
        | (k, _) :: r =>
          let s2 := addTeam s1 die (s1.die die).nextTeam (newTeam s1 die b.id x k c cores cyc) false
          some (c, s2.modLaunch b.id fun y => { y with requeued := r })
        | [] =>
          match x.saved.find? fun v => (s.team die v.num).isNone with
          | none => none
          | some v =>
            let t : Team := { v.team with cluster := c, cores, launchCycle := cyc, start := (cyc + c * 2048) % 2 ^ 64, dispatched := s.now
                                          saved := [], stopping := .none, draining := false, deadline := none, room := 0 }
            some (c, addTeam s1 die v.num t true)

/-- One pass: bids place teams one after another until none can; the clusters used, by launch (R288). -/
def passGo (die : Nat) : Nat → List (Nat × Nat) → State → State × List (Nat × Nat)
  | 0, w, s => (s, w)
  | n + 1, w, s =>
    let s1 := settleHeads s die 64
    let order := (bids s1 die).foldl (fun l b => bidInsert (s1.die die).rr b l) []
    match order.findSome? fun b => (placeBid s1 die b).map fun r => (b, r) with
    | some (b, c, s2) => passGo die n (w ++ [(b.id, c)]) (s2.modDie die fun d => { d with rr := b.key })
    | none => (s1, w)

/-- The scheduler of a die looks again at the next multiple of 65,536 cycles of GRP (R288). -/
def nextPass (s : State) (die : Nat) : State :=
  let due := s.now + (65536 - s.grp die % 65536)
  if s.calendar.any fun e => e.what == Instr.placementPass && e.place.die = die && e.due = due then s
  else s.postDie die due rkCount .placementPass

/-- PLACEMENT_PASS (R288, R289, R294): teams are placed, each launch's wave is recorded, heads that cannot place make room,
and a head whose input was dropped is rebuilt first (R307). A hot die dispatches nothing (R443). -/
def execPlacementPass (s : State) : Host.Outcome State Fault Refusal :=
  let die := s.at_.die
  let s0 := nextPass (settleHeads s die 64) die
  if (s.die die).hot then .next s0
  else
    let cyc := waveCycle s0 die
    let (s1, w) := passGo die 256 [] s0
    let ids := (w.map (·.1)).eraseDups
    let s2 := ids.foldl (fun (st : State) id =>
      st.launchNote die id { type := 1, cycle := cyc, used := (w.filter fun x => x.1 = id).map (·.2) }) s1
    let s3 := ((bids s2 die).filter (·.next)).foldl (fun (st : State) b =>
      match st.launch b.id with
      | some x => makeRoom st die b.id x
      | none => st) s2
    .next ((queueHeads s3 die).foldl (fun (st : State) h =>
      if waitsMet st h.2 && inputDropped st h.2 && !h.2.replay then
        (st.modLaunch h.1 fun x => { x with replay := true }).postUnit st.now (rkCount + 1) (.segmentReplay h.1)
      else if h.2.desc.gang && h.2.queue = 16 && !h.2.gang.pending && h.2.gang.attempt = 0 && waitsMet st h.2 then
        st.postUnit st.now (rkCount + 1) (.gangRetry h.1)
      else st) s3)

/-! ### The stop (R297 to R300) -/

/-- Late-write entries that one landing takes: a second one of an MGBEAT, and of a write that enables a group in part (R172,
R300). -/
def lateEntries (r : Landing) : Nat :=
  match r.dest with
  | .bind _ => 0
  | d => if destCarried d then (if r.mode == .mgbeat || latePartly r then 2 else 1) else 0

/-- The entries a stop in this cycle needs. -/
def stopEntries (s : State) (l : Loc) : Nat :=
  s.calendar.foldl (fun n e =>
    match e.what with
    | .resultLanding k r => if k = l then n + lateEntries r else n
    | .accessPerform a =>
      match a.land with
      | some r => if e.owner = some l then n + lateEntries r else n
      | none => n
    | _ => n) 0

/-- A team whose members have all stopped or retired. -/
def teamDone (t : Team) : Bool := (List.range t.cores.length).all fun i => t.saved.contains i || t.retired.contains i

/-- A barrier that a stopping member had joined counts it as not arrived (R400). -/
def withdraw (s : State) (l : Loc) (t : Task) : State :=
  match t.wait with
  | .bar b => s.modTeam l.die t.team fun x => x.modBar b fun y => { y with arr := y.arr.filter fun a => a.1 != t.ctl.taskix }
  | _ => s

/-- Everything of a gang is saved or killed: it holds nothing on its dies until it resumes, and resumes at the lowest chunk
that is unpublished on any member (R290, R392). -/
def gangSaved (s : State) (id : Nat) : State :=
  match s.launch id with
  | none => s
  | some x =>
    if x.homes.any fun m => (s.die m).teams.any fun t => t.2.launch = id then s
    else
      let rc := (x.homes.findSome? fun m => if (s.die m).ttLaunch = id then (s.die m).ttRun else none).map (lowestUnpublished s x)
      let s1 := s.modLaunch id fun y => { y with gang := { y.gang with
        saved := !y.saved.isEmpty, started := false, stopping := false, rchunk := rc.getD y.gang.rchunk } }
      x.homes.foldl (fun (st : State) m => st.modDie m fun d => { d with
        gangCores := d.gangCores.filter fun g => g.1 != id, slots := mdel d.slots id, pins := d.pins.filter fun p => p.1 != id }) s1

/-- A killed team of a gang, by its die and linear index. -/
def gangKey (die k : Nat) : Nat := die * 1024 + k

/-- A team of which a member was killed has left its cores: it waits to be restarted from its entry, as a whole, and a launch
record of the kind that its dispatch had notes the kill (R298; log entry 95). -/
def requeueTeam (s : State) (die num : Nat) (tm : Team) (gang : Bool) : State :=
  let s1 := s.modDie die fun d => { d with teams := mdel d.teams num }
  let key := if gang then gangKey die tm.linear else tm.linear
  let s2 := s1.modLaunch tm.launch fun x => { x with requeued := x.requeued ++ [(key, s.grp die)] }
  let note : LaunchRec := if gang then { type := 2, gang := tm.launch } else { type := 1 }
  let s2 := s2.launchNote die tm.launch { note with outcome := Config.killNote.toNat, cycle := s.grp die }
  kickScheduler (if gang then gangSaved s2 tm.launch else s2) die

/-- A killed task is gone; its team is requeued once every member has left (R298). -/
def killTask (s : State) (l : Loc) (t : Task) : State :=
  let s1 := removeTask (dropFrames s l t.launch) l
  let s2 := s1.modTeam l.die t.team fun x => { x with saved := x.saved ++ [t.ctl.taskix], killed := true }
  match s2.team l.die t.team with
  | none => s2
  | some tm => if teamDone tm then requeueTeam s2 l.die t.team tm t.ctl.gang else kickScheduler s2 l.die

/-- The task goes on because it does not stop here. -/
def noStop (s : State) (l : Loc) (t : Task) : State :=
  let s := s.modTask l fun t => { t with atPoint := false }
  match t.wait with
  | .none => if t.arch.walk.mode == .replay then s.postCore l (s.now + 1) rkIssue .replayPosition else s.postIssue (s.now + 1) l
  | .walk =>
    if t.arch.walk.mode == .reverse then s.postCore l (s.now + 1) rkWalk .reversePosition
    else s.postCore l (s.now + 1) rkIssue .replayPosition
  | w => controllerWork (stallCore s l w) l

/-- A core waits at a bundle that has not issued. -/
def Wait.holds : Wait → Bool
  | .stall | .wfe _ | .bar _ | .cwait => true
  | _ => false

/-- TASK_STOP: a task asked to stop has reached a pre-emption point; with more than 48 late-write entries it goes on to the
next (R297, R299, R300). The stop bundle releases the store buffer. -/
def execTaskStop (s : State) : Host.Outcome State Fault Refusal :=
  let l := s.at_
  match s.task l with
  | none => .next s
  | some t =>
    if t.phase != .running then .next s
    else if t.stop = .none || (!t.timed && stopEntries s l > 48) then .next (noStop s l t)
    else
      let s0 := withdraw s l t
      match t.stop with
      | .kill =>
        let s1 := killTask s0 l t
        let rest := (s1.die l.die).tasks.any fun k => k.2.launch = t.launch && k.2.phase = .running
        .next (if t.ctl.gang && !rest then postHorizon (stopWalker s1 l.die t.launch) l.die t.launch else s1)
      | _ =>
        let s1 := if t.timed then s0 else checkpoint s0 l
        let at_ := if t.wait.holds || t.atPoint then s.now - 1 else s.now
        let s2 := s1.modTask l fun u => { u with phase := .stopped, wait := .none, atPoint := false, stopAt := at_, late := []
                                                 stopBundle := if t.wait.holds then t.fetch.pc else t.last }
        let s3 := { s2 with calendar := s2.calendar.filter fun e => !(e.place = l && match e.what with
          | .bundleIssue | .stallEnd | .wfeWake | .cwaitSatisfied | .replayPosition | .reversePosition => true
          | _ => false) || decide (e.due < s.now) }
        let s4 := s3.postCore l (s.now + 1) rkSwap .saveStart
        if t.ctl.gang then
          let rest := (s4.die l.die).tasks.any fun k => k.2.launch = t.launch && k.2.phase = .running
          let s5 := stopSends s4 l t.launch
          .next (if rest then s5 else postHorizon s5 l.die t.launch)
        else .next s4
where
  /-- The sends of a stopped gang task that have not begun, and the walker's, are never made (R391). -/
  stopSends (s : State) (l : Loc) (launch : Nat) : State :=
    stopWalker { s with calendar := s.calendar.filter fun e => !unsent s.now l e } l.die launch

/-! ### The save (R299 to R304) -/

/-- Something of the stopped task is still to land or perform before its save. -/
def stillOpen (s : State) (l : Loc) (t : Task) : Bool :=
  inFlightOpen t || !t.rems.isEmpty || s.calendar.any fun e =>
    match e.what with
    | .resultLanding k _ => k = l
    | .accessPerform a => a.src = some l
    | .aRowArrival k _ _ => k = l
    | .segmentTransferComplete k _ => k = l
    | _ => false

/-- SAVE_START: once every late value is computed, every released access has performed and, in a gang, the drain horizon has
passed, the record is written (R299, R391). -/
def execSaveStart (s : State) : Host.Outcome State Fault Refusal :=
  let l := s.at_
  match s.task l with
  | none => .next s
  | some t =>
    if t.phase != .stopped || t.stop != .save then .next s
    else
      let gang := t.ctl.gang && ((s.die l.die).horizon.isSome || (s.die l.die).tasks.any fun k => k.2.launch = t.launch && k.2.phase = .running)
      if stillOpen s l t || gang then .next (s.postCore l (s.now + 1) rkSwap .saveStart)
      else
        let (n, s1) := s.nextFree
        let s2 := (s1.modTask l fun t => { t with phase := .saving, windows := [] }).modDie l.die fun d => { d with savingCores := d.savingCores ++ [l.core] }
        .next (s2.postUnit (s.now + 1 + n % 65536) rkCount (.saveRecordWritten l t.team))

/-- The save record of a task: its state and the bytes of its windows (R301). -/
def saveRecord (s : State) (l : Loc) (t : Task) : SaveRec :=
  let top := sliceBase l.core + 2 ^ 21
  { ix := t.ctl.taskix, task := t, stop := t.stopAt, scratch := Mem.bytes (s.die l.die).scratch t.ctl.swbase t.ctl.swsize
    window := Mem.bytes (s.die l.die).scratch (top - t.res.rw) t.res.rw }

/-- The name of the schedule a task runs under and the equivalence id of its stop bundle, 0 where there is none (R301, R306). -/
def recordSched (s : State) (die : Nat) (t : Task) : Nat × Nat :=
  match (s.ctx die t.ctl.asid).bind fun c => mget c.images t.image with
  | none => (0, 0)
  | some im =>
    let ix := ((s.launch t.launch).map (·.gang.sched)).getD 0
    (((im.scheds[ix]?).map (·.name)).getD 0,
      (((im.scheds[ix]?).bind fun x => x.eqs.find? fun e => e.2 = t.stopBundle).map (·.1)).getD 0)

/-- The bytes of a record are written into its blocks of the save area (R301). -/
def writeRecord (s : State) (l : Loc) (t : Task) (tm : Team) (r : SaveRec) (blocks : List Nat) : State :=
  let n := recordSched s l.die t
  let b := recordBytes t tm n.1 n.2 (taskChans s l.die tm t.ctl.taskix) r.scratch r.window
  s.modDie l.die fun d => { d with dram := putRecord d.dram (((s.ctx l.die t.ctl.asid).map (·.saveBase)).getD 0) blocks b }

/-- The frames of a saved task stay in the CXL tier, under a place that no core has (R301). -/
def savedPlace (die team ix : Nat) : Loc := { die, core := 256 + team * 32 + ix }
def moveFrames (s : State) (die launch : Nat) (from_ to_ : Loc) : State :=
  s.modDie die fun d =>
    let mine := d.frames.filter fun f => f.2.loc = from_ && f.2.launch = launch
    let rest := d.frames.filter fun f => !(f.2.loc = from_ && f.2.launch = launch)
    { d with frames := mine.foldl (fun m f => mset m (coreOrd to_ * 2 ^ 40 + f.2.start) { f.2 with loc := to_ }) rest }

/-- The launch's saved team takes a record. -/
def addRecord (s : State) (die launch num : Nat) (tm : Team) (r : SaveRec) : State :=
  s.modLaunch launch fun x =>
    if x.saved.any fun v => v.num = num then
      { x with saved := x.saved.map fun v => if v.num = num then { v with recs := v.recs ++ [r], team := tm } else v }
    else { x with saved := x.saved ++ [{ die, num, team := tm, recs := [r] }] }

/-- The lowest 4 KiB blocks of a context's save area that no record of a die takes, for n bytes (R301; log entry 56). -/
def recordBlocks (s : State) (die asid n : Nat) : List Nat :=
  let used := s.launches.flatMap fun x => if x.2.asid = asid then
    x.2.saved.flatMap fun v => if v.die = die then v.recs.flatMap (·.blocks) else [] else []
  ((List.range (((s.ctx die asid).map (·.saveSize)).getD 0 / 4096)).filter fun b => !used.contains b).take ((n + 4095) / 4096)

/-- A block of a record is poisoned: its address (R304, R305). -/
def recordPoison (s : State) (die asid : Nat) (blocks : List Nat) : Option Nat :=
  let base := ((s.ctx die asid).map (·.saveBase)).getD 0
  ((s.die die).poison.find? fun b => blocks.any fun k => base + 4096 * k ≤ 64 * b && 64 * b < base + 4096 * k + 4096).map (· * 64)

/-- Every member of a saved team has left its core: what was set aside for the team is what its records take (R303, R305). -/
def teamSaved (s : State) (die num : Nat) (tm : Team) (gang : Bool) : State :=
  let s1 := s.modLaunch tm.launch fun x => { x with saved := x.saved.map fun v =>
    if v.num = num then { v with team := { tm with room := 0 }, bytes := tm.room } else v }
  let s2 := s1.modDie die fun d => { d with teams := mdel d.teams num }
  kickScheduler (if gang then gangSaved s2 tm.launch else s2) die

/-- SAVE_RECORD_WRITTEN: the task's record is complete and its core and slice are free; a block of it that cannot be written
abandons the save and ends the launch, and its space is free again (R289, R301, R304). -/
def execSaveRecordWritten (l : Loc) (team : Nat) (s : State) : Host.Outcome State Fault Refusal :=
  match s.task l, s.team l.die team with
  | some t, some tm =>
    if t.phase != .saving || t.team != team then .next s
    else
      let s0 := s.modDie l.die fun d => { d with savingCores := d.savingCores.filter (· != l.core) }
      let blocks := recordBlocks s l.die t.ctl.asid (memberBytes s l.die tm t.ctl.taskix)
      match recordPoison s l.die t.ctl.asid blocks with
      | some a =>
        let s1 := s0.errPush l.die 8 (errRecord 8 (unitField 7 (dpaStack a) (dpaPc a)) (t.ctl.asid + 2 ^ 15) 0x101 a (s.grp l.die) 0 [])
        .next (endLaunch s1 t.launch 0x101)
      | none =>
        let r := saveRecord s0 l t
        let s1 := addRecord (writeRecord s0 l t tm r blocks) l.die t.launch team tm { r with blocks }
        let s2 := moveFrames s1 l.die t.launch l (savedPlace l.die team t.ctl.taskix)
        let s3 := (removeTask s2 l).modTeam l.die team fun x => { x with saved := x.saved ++ [t.ctl.taskix] }
        match s3.team l.die team with
        | none => .next s3
        | some tm' => .next (if teamDone tm' then teamSaved s3 l.die team tm' t.ctl.gang else kickScheduler s3 l.die)
  | _, _ => .next s

/-! ### Resuming (R305) -/

/-- Ready cycles of a record counted from the cycle after the stop become counts from the resume. -/
def reready (stop q c : Nat) : Nat := if c > stop then q + (c - (stop + 1)) else 0

/-- The task of a record on its new core: what is relative to the stop is counted from the resume, the shadow set is the
restored state with the late writes as its carry (R305, R417). -/
def restored (r : SaveRec) (l : Loc) (q : Nat) (image : Nat) (fetch : Fetch) (rchunk : Nat) : Task :=
  let t := r.task
  let mat := { t.mat with
    heldTo := reready r.stop q t.mat.heldTo
    prev := []
    queues := t.mat.queues.map fun (x : RQueue) => { x with ents := x.ents.map fun (e : QEnt) => { e with ready := reready r.stop q e.ready } } }
  let t1 := { t with
    fetch := fetch, mat := mat, image := image, phase := .stopped, wait := .start, stop := .none, sbuf := [], undo := [], rows := [], psends := [], fsts := []
    weights := [], sends := [], windows := []
    units := t.units.map fun (u : StrmUnit) => { u with busy := false, from_ := 0, mule := none, pages := [], ahead := u.ahead.map fun (e : Ahead) => { e with ready := reready r.stop q e.ready } }
    ctl := { t.ctl with swbase := sliceBase l.core, rchunk := rchunk }
    res := { t.res with saved := [], moveEnd := 0 } }
  { t1 with
    late := []
    shadow := { arch := t1.arch, fetch := t1.fetch, carry := t.late, qlens := t1.mat.queues.map fun (x : RQueue) => x.ents.length
                at_ := q, top := t1.arch.top } }

/-- The bundle at which a saved task resumes: its next, or in another schedule the one with the same equivalence id
(R305, R306). -/
def resumeFetch (s : State) (die asid sched : Nat) (t : Task) : Fetch :=
  if !t.ctl.gang then t.fetch
  else
    match (s.ctx die asid).bind fun c => mget c.images t.image with
    | none => t.fetch
    | some im =>
      match im.scheds.findSome? fun x => x.eqs.find? fun e => e.2 = t.stopBundle with
      | none => t.fetch
      | some (id, _) =>
        match (im.scheds[sched]?).bind fun x => x.eqs.find? fun e => e.1 = id with
        | some (_, b) => if b = t.stopBundle then t.fetch else { t.fetch with pc := b + (t.fetch.pc - t.stopBundle) }
        | none => t.fetch

/-- TEAM_RESUME: at the new cluster's start cycle the records are restored, the windows in the new slices; each first bundle
issues 185 cycles later (R305). -/
def execTeamResume (r : TeamRef) (s : State) : Host.Outcome State Fault Refusal :=
  match s.team r.die r.team with
  | none => .next s
  | some tm =>
    match (s.launch tm.launch).bind fun x => (x.saved.find? fun v => v.num = r.team && v.die = r.die).map fun v => (x, v) with
    | none => .next s
    | some (x, v) =>
      if untilGrp s r.die tm.start > 0 then .next (s.postUnit (s.now + untilGrp s r.die tm.start) rkRead (.teamResume r))
      else
        match recordPoison s r.die x.asid (v.recs.flatMap (·.blocks)) with
        | some a =>
          let s1 := s.errPush r.die 4 (errRecord 4 (unitField 7 (dpaStack a) (dpaPc a)) (x.asid + 2 ^ 15) 0x2E a (s.grp r.die) 0 [])
          .next (endContext s1 x.asid 0x2E (some tm.launch))
        | none =>
          let q := s.now + 185
          let s1 := v.recs.foldl (fun (st : State) rc =>
            let l : Loc := { die := r.die, core := nth 0 tm.cores rc.ix }
            let b := sliceBase l.core
            let st := st.modDie r.die fun d =>
              let d1 := ownLines (ownLines d st.now x.asid b rc.scratch.length) st.now x.asid (b + 2 ^ 21 - rc.window.length) rc.window.length
              setMem st.now d1 .scratch (Mem.wrBytes (Mem.wrBytes d1.scratch b rc.scratch) (b + 2 ^ 21 - rc.window.length) rc.window)
            let st := moveFrames st r.die tm.launch (savedPlace r.die r.team rc.ix) l
            let t := restored rc l q rc.task.image (resumeFetch st r.die x.asid x.gang.sched rc.task) (if x.desc.gang then x.gang.rchunk else rc.task.ctl.rchunk)
            let st := st.modDie r.die fun d => { d with
              tasks := mset d.tasks l.core t }
            st.postAt l q rkFlag (coreOrd l) none .taskFirstBundle) s
          let s2 := s1.modLaunch tm.launch fun y => { y with saved := y.saved.filter fun z => z.num != r.team }
          .next (s2.modCtx r.die x.asid fun c => { c with saveFree := c.saveFree + v.bytes })

/-! ### Retirement and completion (R28, R293) -/

/-- Every team has retired: the launch completes. -/
def launchDone (s : State) (id : Nat) : State :=
  match s.launch id with
  | none => s
  | some x =>
    if x.retired ≥ totalTeams x && x.phase = .running then
      (s.modLaunch id fun y => { y with phase := .completing }).postUnit s.now (rkSwap + 1) (.launchComplete id)
    else s

/-- The space that was set aside for the record of a task that has exited is free again (R303). -/
def giveRoom (s : State) (l : Loc) (t : Task) : State :=
  match s.team l.die t.team with
  | none => s
  | some tm =>
    let n := Nat.min tm.room (memberBytes s l.die tm t.ctl.taskix)
    (s.modCtx l.die t.ctl.asid fun c => { c with saveFree := c.saveFree + n }).modTeam l.die t.team fun x => { x with room := tm.room - n }

/-- TASK_RETIRE: EXIT completes once every released store has performed and every result has landed; a retired member counts
as arrived at every barrier, and with its last member the team retires (R110, R293, R400). -/
def execTaskRetire (s : State) : Host.Outcome State Fault Refusal :=
  let l := s.at_
  match s.task l with
  | none => .next s
  | some t =>
    if t.phase != .running || t.wait != .exit then .next s
    else
      let e := inFlightEnd s l t
      if e > s.now then .next (s.postCore l e rkCount .taskRetire)
      else if inFlightOpen t || !t.rems.isEmpty || !t.fsts.isEmpty then .next (s.postCore l (s.now + 1) rkCount .taskRetire)
      else
        let s1 := removeTask (dropFrames s l t.launch) l
        let s2 := (giveRoom s1 l t).modTeam l.die t.team fun x => { x with retired := x.retired ++ [t.ctl.taskix] }
        let s3 := (List.range 4).foldl (fun (st : State) b => barSchedule st { die := l.die, team := t.team } b) s2
        match s3.team l.die t.team with
        | none => .next s3
        | some tm =>
          if (List.range tm.cores.length).all fun i => tm.retired.contains i then
            let s4 := s3.modDie l.die fun d => { d with teams := mdel d.teams t.team }
            .next (launchDone (kickScheduler (s4.modLaunch t.launch fun x => { x with retired := x.retired + 1 }) l.die) t.launch)
          else if !teamDone tm then .next s3
          else .next (if tm.killed then requeueTeam s3 l.die t.team tm t.ctl.gang else teamSaved s3 l.die t.team tm t.ctl.gang)

/-- An effect of a launch's tasks, of a fence's class and scope, is still to come on a die (R236, R293). Its tasks have retired,
so none of their FLD, FST and FATOM is outstanding (R110). -/
def launchAhead (s : State) (die id : Nat) (kind sc : Nat) : Bool :=
  let inside (d : Nat) : Bool := if sc ≤ 2 then d = die else if sc = 3 then d = die || d = sibling die else true
  let mine (f : Access → Bool) : Bool := s.calendar.any fun e => match e.what with
    | .accessPerform a => a.launch = id && a.die = die && f a
    | _ => false
  let cmds := (s.die die).cmds.any fun c => c.2.launch = id && (if c.2.kind = .fars && sc != 5 then c.2.unsent > 0 else true)
  let walker := ((s.die die).walker.map (·.launch)) = some id
  let closing := s.calendar.any fun e => match e.what with
    | .mcloseRelease d st tag => d = die && (s.die d).reserves.any fun r => r.stack = st && r.tag = tag && r.launch = id
    | _ => false
  let eng := cmds || walker || closing || mine fun a => a.mem == .virt && a.cls == .store
  let pub := mine fun a => match a.op with | .publish _ _ => true | _ => false
  let counted := messageAny s fun c => c.launch = id && c.src = die && inside c.dst
  if kind = 0 then eng
  else if kind = 1 then pub || (s.die die).cmds.any fun c => c.2.launch = id && c.2.kind = .upd
  else if kind = 2 then eng || pub || mine (fun a => isWrite a.op) || counted
  else counted || mine fun a => a.cls == .remote

/-- One completion action: whether it is done, with the state (R293). Actions count the fences, then the publishes. -/
def completionStep (s : State) (die id : Nat) (x : Launch) (d : LaunchDesc) (n : Nat) : Option (State × Nat) :=
  match d.fences[n]? with
  | some (k, sc) => if launchAhead s die id k sc then none else some (s, 0)
  | none =>
    match d.publishes[n - d.fences.length]? with
    | none => some (s, 0)
    | some w =>
      let e := bits w 11 0
      let m := bits w 23 12 + 1
      if (List.range m).any fun i => writePending s die x.asid (e + i) none then none
      else
        some (s.postAccess (s.now + 4) none
          { die, op := .publish e m, shape := { base := 0, n := 0 }, asid := x.asid, issued := s.now, cls := .publish, launch := id }, 4)

/-- An earlier launch of the same queue has not performed its completion actions (R293). -/
def earlierOpen (s : State) (id : Nat) (x : Launch) : Bool :=
  s.launches.any fun y => y.1 < id && y.2.asid = x.asid && y.2.die = x.die && y.2.queue = x.queue && y.2.phase.live

/-- The actions of a launch on all its dies: die and descriptor. -/
def actionHomes (x : Launch) : List (Nat × LaunchDesc) := x.homes.map fun m => (m, x.descOn m)

/-- The dropped bit of a handle entry cleared. -/
def undrop (h : BitVec 512) : BitVec 512 := if hDropped h then BitVec.ofNat 512 (h.toNat - 2 ^ 258) else h

/-- Handles of a context whose replay has completed are live again (R307). -/
def settleRebuild (s : State) (die asid : Nat) : State :=
  s.modCtx die asid fun c =>
    let done := (c.rebuild.filter fun r => r.2.all fun i => ((s.launch i).map fun x => decide (x.phase = .complete)).getD false).map (·.1)
    { c with
      handles := c.handles.map fun h => if done.contains h.1 then (h.1, undrop h.2) else h
      rebuild := c.rebuild.filter fun r => !done.contains r.1 }

/-- LAUNCH_COMPLETE: in queue order a completed launch performs its fences, then its publishes, then its counter rises in the
next cycle; what it held is released and its end is recorded (R28, R253, R293). -/
def execLaunchComplete (launch : Nat) (s : State) : Host.Outcome State Fault Refusal :=
  match s.launch launch with
  | none => .next s
  | some x =>
    if x.phase != .completing || earlierOpen s launch x then .next s
    else
      let todo := (actionHomes x).foldl (fun n h => Nat.max n (h.2.fences.length + h.2.publishes.length)) 0
      if x.acts < todo then
        let r := (actionHomes x).foldl (fun (acc : Option (State × Nat)) h =>
          acc.bind fun (st, w) => (completionStep st h.1 launch x h.2 x.acts).map fun y => (y.1, Nat.max w y.2)) (some (s, 0))
        match r with
        | none => .next (s.postUnit (s.now + 1) (rkSwap + 1) (.launchComplete launch))
        | some (s1, w) =>
          .next ((s1.modLaunch launch fun y => { y with acts := y.acts + 1 }).postUnit (s.now + w) (rkSwap + 1) (.launchComplete launch))
      else
        let s1 := s.modLaunch launch fun y => { y with phase := .complete }
        let s2 := (actionHomes x).foldl (fun (st : State) h =>
          let st := if counterOk st h.1 x.asid h.2.cc then st.postUnit (s.now + 1) rkCount (.cincApply h.1 h.2.cc 1) else st
          let st := releaseDie (releaseReserves st h.1 launch x.asid) h.1 launch
          let st := st.launchNote h.1 launch { type := 3, gang := if x.desc.gang then launch else 0, t := x.gang.t, cycle := x.gang.c }
          kickScheduler st h.1) s1
        .next (kickQueue (settleRebuild s2 x.die x.asid) x)

/-! ### Segment replay (R307, R308) -/

/-- The publish count of a handle on a die (R324, R325). -/
def publishCount (s : State) (die asid h : Nat) : Nat :=
  match (s.ctx die asid).bind fun c => (mget c.handles h).map fun e => (c, e) with
  | some (c, e) => match hShdw e with
    | some n => ((mget c.shadows n).map shCount).getD 0
    | none => 0
  | none => 0

/-- The recorded commands of a segment, in order. -/
def segLog (c : Context) (g : Nat) : List LogEnt := c.log.filter fun e => e.seg = g

/-- The segments to run for a handle, deepest first, or the status that refuses the replay (R308). -/
def replayPlan (s : State) (die asid : Nat) : Nat → Nat → Except Nat (List Nat)
  | 0, _ => .error 0x104
  | n + 1, h =>
    match s.ctx die asid with
    | none => .error 0x105
    | some c =>
      match (mget c.producers h).filter fun g => !c.lost.contains g with
      | none => .error 0x105
      | some g =>
        let l := segLog c g
        let ins := (l.flatMap fun e => e.desc.inputs).eraseDups
        let stale := l.any fun e => e.pcounts.any fun p => publishCount s die asid p.1 != p.2
        if stale then .error 0x103
        else
          (ins.filter fun i => ((mget c.handles i).map hDropped).getD false).foldl (fun acc i =>
            match acc, replayPlan s die asid n i with
            | .ok r, .ok q => .ok (q ++ r)
            | .error e, _ => .error e
            | _, .error e => .error e) (.ok [g])

/-- A recorded launch is enqueued again on the replay queue, at the consumer's level. -/
def reenqueue (s : State) (die asid level : Nat) (e : LogEnt) : Nat × State :=
  let id := s.nextLaunch
  let x : Launch := { asid, die, queue := 16, desc := { e.desc with level }, mdescs := e.mdescs, pairs := e.pairs, tags := e.tags, replay := true }
  (id, ({ s with launches := mset s.launches id x, nextLaunch := id + 1 }).modCtx die asid fun c =>
    { c with queues := mset c.queues 16 (((mget c.queues 16).getD []) ++ [id]) })

/-- SEGMENT_REPLAY: the segments that produce a consumer's dropped inputs run again, in recorded order, on the replay queue;
the consumer waits for them; a replay that cannot be made ends it with its status (R307, R308). -/
def execSegmentReplay (launch : Nat) (s : State) : Host.Outcome State Fault Refusal :=
  match s.launch launch with
  | none => .next s
  | some x =>
    match s.ctx x.die x.asid with
    | none => .next s
    | some c =>
      let lost := x.desc.inputs.filter fun h => ((mget c.handles h).map hDropped).getD false
      let plan := lost.foldl (fun (acc : Except Nat (List Nat)) h =>
        match acc, replayPlan s x.die x.asid 8 h with
        | .ok r, .ok q => .ok (r ++ q)
        | .error e, _ => .error e
        | _, .error e => .error e) (.ok [])
      match plan with
      | .error k => .next (endLaunch s launch k)
      | .ok segs =>
        let order := segs.eraseDups
        let (s1, ids) := order.foldl (fun (acc : State × List Nat) g =>
          (segLog c g).foldl (fun (a : State × List Nat) e =>
            let (id, st) := reenqueue a.1 x.die x.asid x.desc.level e
            (st, a.2 ++ [id])) acc) (s, [])
        let outs := order.flatMap fun g => (c.producers.filter fun p => p.2 = g).map (·.1)
        .next (kickScheduler (noteHeads (s1.modCtx x.die x.asid fun y => { y with
          rebuild := outs.foldl (fun m h => mset m h ids) y.rebuild }) x.die) x.die)

end Sys2Proof.Machine
end

