-- ==== Sys2Proof/Machine/Gangs.lean ====
section
/-! DEFINITION. Gangs: proposals and instants (R383), reservation (R290, R306, R316), readiness and decision (R384, R385, R388),
agreement across groups (R386), retries (R387), starts and resumes (R26, R392), agreed stops (R390), relaunch (R348). A gang's
id is its launch id (log entry 40). -/

namespace Sys2Proof.Machine

/-! ### The chosen schedule (R290, R306) -/

/-- The active cores of a cluster. -/
def activeCores (d : Die) (c : Nat) : List Nat :=
  ((List.range 24).map fun i => c * 32 + i).filter fun k => !d.absent.contains k && !d.toRetire.contains k

/-- Cores for one team after another on a list of clusters, each team the lowest active cores that the teams before it left. -/
def teamCores (d : Die) (size : Nat) : List Nat → List Nat → Option (List Nat)
  | [], used => some used
  | c :: r, used =>
    let f := (activeCores d c).filter fun k => !used.contains k
    if f.length < size then none else teamCores d size r (used ++ f.take size)

def imageOn (s : State) (x : Launch) (die : Nat) : Image := ((s.ctx die x.asid).bind fun c => mget c.images (x.descOn die).image).getD {}

/-- The cores of a member under shape i of its image, in team order, none of them among those to leave out; with no shape
declared, the lowest clusters that hold a team, one for each team. -/
def shapeCores (s : State) (x : Launch) (die i : Nat) (others : List Nat) : Option (List Nat) :=
  let d := x.descOn die
  let im := imageOn s x die
  if im.scheds.isEmpty then
    let cs := (List.range 8).filter fun c => decide (d.teamSize ≤ (activeCores (s.die die) c).length)
    if cs.length < gridSize d then none
    else (teamCores (s.die die) d.teamSize (cs.take (gridSize d)) others).map (·.drop others.length)
  else
    match im.scheds[i]? with
    | none => none
    | some h =>
      if h.clusters.length < gridSize d then none
      else (teamCores (s.die die) d.teamSize (h.clusters.take (gridSize d)) others).map (·.drop others.length)

/-- The first shape that fits every member. -/
def chosenShape (s : State) (x : Launch) : Option Nat :=
  let n := x.homes.foldl (fun n m => Nat.max n (imageOn s x m).scheds.length) 1
  (List.range n).find? fun i => x.homes.all fun m => (shapeCores s x m i []).isSome

/-- The cores that a member reserves: active cores of the shape's clusters that no other gang has reserved, or, when they are
too few, cores that no gang yet to start has reserved: nothing new is placed on those (R290; log entry 88). -/
def reservedCores (s : State) (x : Launch) (die id : Nat) : List Nat :=
  let others := (s.die die).gangCores.filter fun g => g.1 != id
  let waiting := others.filter fun g => !((s.launch g.1).map (·.gang.started)).getD false
  (shapeCores s x die x.gang.sched (others.map (·.2))).getD ((shapeCores s x die x.gang.sched (waiting.map (·.2))).getD [])

/-- The flood path between two members, none when no link leads there (R384). -/
def floodLat (s : State) (a b : Nat) : Option Nat := (route s countedOk a b).map (pathLatency s)

/-- The longest flood path of a gang is within its limit (R384). -/
def floodsReach (s : State) (x : Launch) : Bool :=
  x.homes.all fun a => x.homes.all fun b => match floodLat s a b with
    | some n => decide (n ≤ 32768)
    | none => true

/-! ### Proposals (R383) -/

/-- The lead die: the member with the lowest coordinates. -/
def leadDie (x : Launch) : Nat := x.homes.foldl Nat.min (x.homes.headD x.die)

/-- The event is posted for a GRP value of a die. -/
def State.postGrp (s : State) (die g : Nat) (rank : Nat) (w : Instr) : State := s.postUnit (s.now + untilGrp s die g) rank w

/-- A record of TYPE 2 on a die for an attempt (R253, R388). -/
def attemptNote (s : State) (die id outcome ready : Nat) (used strag : List Nat) : State :=
  match s.launch id with
  | none => s
  | some x => s.launchNote die id
      { type := 2, outcome, gang := id, t := x.gang.t, cycle := x.gang.c, ready, used, attempt := x.gang.attempt, strag }

/-- The instants T and C of a proposal: T moved forward to the earliest whole microsecond, C computed by the lead die's map;
with no map C moved forward to its earliest cycle and T zero (R383). -/
def instants (s : State) (lead : Nat) (cross : Bool) (t c : Nat) : Nat × Nat :=
  match (s.die lead).rooster.map with
  | some m =>
    let lo := mapToPtp m (s.grp lead) + (if cross then 2000000 else 200000)
    let t' := if t < lo then (lo + 999) / 1000 * 1000 else t
    (t', mapToGcc m t')
  | none => (0, Nat.max c (s.grp lead + 720000))

/-- U(T) at a die (R381). -/
def uOf (s : State) (die t : Nat) : Nat :=
  match (s.die die).rooster.map with
  | some m => uAt s die t (mapToPtp m (s.grp die))
  | none => 2 ^ 32 - 1

/-- An attempt begins: a gang across groups whose clock is not good enough is refused at once; otherwise the lead die sends
the launch cycle to every member (R383, R389). -/
def propose (s : State) (id kind attempt t c : Nat) : State :=
  match s.launch id with
  | none => s
  | some x =>
    let lead := leadDie x
    let (t', c') := instants s lead x.gang.cross t c
    let s1 := s.modLaunch id fun y => { y with gang := { y.gang with attempt, kind, pending := true, t := t', c := c', committed := false } }
    if x.gang.cross && uOf s lead t' > x.desc.gtol then
      let s2 := x.homes.foldl (fun (st : State) m => attemptNote st m id 2 0 [] []) s1
      s2.modLaunch id fun y => { y with gang := { y.gang with pending := false, newcomer := none } }
    else
      let shape := if floodsReach s x then chosenShape s x else none
      let s2 := s1.modLaunch id fun y => { y with gang := { y.gang with sched := shape.getD 65535 } }
      let s3 := x.homes.foldl (fun (st : State) m =>
        if m = lead then st.postUnit st.now rkArrive (.gangProposalReceive m id c')
        else st.sendCounted { at_ := lead, dst := m, src := lead, launch := id, asid := x.asid, body := .proposal id c' }) s2
      if x.gang.cross then
        let early := match (s.die lead).rooster.map with
          | some m => mapToGcc m (t' - 50000)
          | none => c'
        s3.postGrp lead early rkArrive (.commitDeadline id)
      else s3

/-- A proposal that R383 turns away with BUSY. -/
def proposalBusy (x : Launch) (kind : Nat) : Bool :=
  x.gang.pending || x.gang.relaunch ||
  (if kind = 0 then x.gang.started || x.gang.saved else if kind = 1 then !x.gang.started || x.gang.stopping else !x.gang.saved)

/-- The pages of a gang's list take their places in the pinned translation store of a die, when all fit (R316). -/
def placePins (s : State) (die id asid : Nat) (l : List (Nat × Nat)) : State :=
  let d := s.die die
  let pinned (p : Nat × Nat) : Bool :=
    match (s.ctx die asid).map fun c => pageWalk die c p.1 with
    | some (.ok (e, lv)) => ptePin e && lv = p.2
    | _ => false
  if d.pins.length + l.length ≤ 1024 then
    s.modDie die fun d => { d with pins := d.pins ++ (l.filter pinned).map fun p => (id, p.1, p.2) }
  else s

/-- The segments of a saved task that hold the bytes its regions will pop or read (R278). -/
def namedSegs (t : Task) (need : Nat) : List Nat :=
  if need = 0 || t.arch.top = 0 then [] else segsOf (t.arch.top - need) (Nat.min need t.arch.top)

/-- Ebile fills one segment of a saved task's window from the spill area, or leaves it where its slot or page is missing. -/
def fillSegment (s : State) (die asid : Nat) (r : SaveRec) (g : Nat) : SaveRec :=
  let t := r.task
  match segState t g, frameAddrs s die asid t.res.spillBase (4096 * g) 4096 with
  | some x, some as =>
    if x.st != .away || (slotHolder t g).isSome then r
    else
      let b := as.flatMap fun a => Mem.bytes (s.die die).dram a 64
      let o := g % winSlots t * 4096
      { r with task := setSeg t g { x with st := .resident, cxl := false, bad := false }
               window := r.window.take o ++ b ++ r.window.drop (o + 4096) }
  | _, _ => r

/-- Ebile fills what the regions of a gang's saved tasks will pop or read, from the CXL tier and the spill area, before the
agreed instant (R278; at the proposal, log entry 90). -/
def fillNamed (s : State) (x : Launch) (id die : Nat) : State :=
  let need := (x.descOn die).residual
  (x.saved.filter fun v => v.die = die).foldl (fun (st : State) v => v.recs.foldl (fun (st : State) r =>
    let gs := (namedSegs r.task need).filter fun g => (segState r.task g).any fun y => y.st == .away
    let place := savedPlace die v.num r.ix
    let st1 := gs.foldl (fun (st : State) g => (tierFrame st place id g).elim st fun f => returnFrame st f r.task.res.spillBase) st
    let r1 := gs.foldl (fun r g => fillSegment st1 die x.asid r g) r
    st1.modLaunch id fun y => { y with saved := y.saved.map fun w =>
      if w.num = v.num && w.die = die then { w with recs := w.recs.map fun q => if q.ix = r.ix then r1 else q } else w }) st) s

/-- A resident gang is to make room for a gang of these tokens: its stop as a whole is proposed, unless one already is
(R294, R383). -/
def displaceGang (s : State) (id tokens : Nat) : State :=
  match s.launch id with
  | none => s
  | some x =>
    if proposalBusy x 1 then s
    else propose (s.modLaunch id fun y => { y with gang := { y.gang with newcomer := some tokens } }) id 1 0 0 0

/-- Teams that do not belong to the gang and hold its reserved cores make room: a grid team by R295, a gang at an agreed
instant (R290, R294). -/
def displace (s : State) (die id : Nat) (x : Launch) : State :=
  let cores := ((s.die die).gangCores.filter fun g => g.1 = id).map (·.2)
  let hit := (s.die die).teams.filter fun t => t.2.launch != id && !t.2.leaving && t.2.cores.any cores.contains
  hit.foldl (fun (st : State) t =>
    if ((s.launch t.2.launch).map (·.desc.gang)).getD false then displaceGang st t.2.launch (tokensOf s x)
    else decideVictim st die t.1 id (tokensOf s x)) s

/-- GANG_PROPOSAL_RECEIVE: a member takes the lead die's C, reserves its cores and pins, and its instants follow (R290, R316,
R383 to R385). -/
def execGangProposalReceive (die : Nat) (gid : Nat) (c : Nat) (s : State) : Host.Outcome State Fault Refusal :=
  match s.launch gid with
  | none => .next s
  | some x =>
    if !x.gang.pending || x.gang.c != c then .next s
    else
      let d := x.descOn die
      let back := (x.requeued.filter fun r => r.1 / 1024 = die).map (·.1 % 1024)
      let slot : GangSlot := { c, t := x.gang.t, members := x.homes, kind := x.gang.kind, attempt := x.gang.attempt
                               teams := if x.requeued.isEmpty then List.range (gridSize d) else back }
      let s1 := s.modDie die fun y => { y with slots := mset y.slots gid slot }
      let s2 := if x.gang.kind = 1 then s1
        else
          let s' := s1.modDie die fun y => { y with gangCores := y.gangCores ++ (reservedCores s x die gid).map fun k => (gid, k) }
          displace (placePins (fillNamed s' x gid die) die gid x.asid d.pins) die gid x
      .next (((s2.postGrp die (c + 2 ^ 64 - 131072) rkRead (.readinessSend die gid)).postGrp die (c + 2 ^ 64 - 65536) rkRead
        (.gangDecision die gid)).postGrp die c rkRead (.gangStart die gid))

/-! ### Readiness (R278, R316, R384) -/

/-- A pair-table entry of a die has an UP route to its peer (R349). -/
def pairsUp (s : State) (x : Launch) (die : Nat) : Bool :=
  x.pairs.all fun e => e.1 / 256 != die || bits e.2.toNat 15 15 = 0 || (route s timedOk die (pairPeer e.2)).isSome

/-- The residual frames of a member's saved tasks that its regions need are resident (R278). -/
def framesResident (x : Launch) (die : Nat) : Bool :=
  x.saved.all fun v => v.die != die || v.recs.all fun r =>
    (namedSegs r.task (x.descOn die).residual).all fun g => ((segState r.task g).map (·.st)).getD .resident == .resident

/-- READY bits of a member (R253, R384). -/
def readyBits (s : State) (x : Launch) (id die : Nat) : Nat :=
  let d := s.die die
  let pages := (x.descOn die).pins
  let b0 := pages.all fun p => d.pins.any fun q => q = (id, p.1, p.2)
  let b1 := framesResident x die
  let b2 := ((s.ctx die x.asid).map fun c => (mget c.images (x.descOn die).image).isSome).getD false &&
    (x.gang.sched != 65535 || x.gang.kind = 1) && (d.tts.all fun t => t.2.asid != x.asid || t.2.ok) && pairsUp s x die
  let b3 := d.rooster.sync = 1 && (!x.gang.cross || uOf s die x.gang.t ≤ x.desc.gtol)
  bit b0 + 2 * bit b1 + 4 * bit b2 + 8 * bit b3

/-- The reserved cores of a member are all free and no gang reserved one of them before, and nothing keeps the launch from being dispatched there (R252, R286, R290,
R443). -/
def coresFree (s : State) (x : Launch) (id die : Nat) : Bool :=
  let d := s.die die
  let mine := (d.gangCores.filter fun g => g.1 = id).map (·.2)
  let waits := x.phase != .queued || (waitsMet s x && !inputDropped s x && !inputRebuilding s x && d.ewait.isEmpty &&
    ((s.ctx x.die x.asid).map fun c => c.queues.any fun q => q.2.head? = some id).getD false)
  x.gang.kind = 1 ||
  (mine.length = gridSize (x.descOn die) * (x.descOn die).teamSize && !d.hot && waits &&
    mine.all fun k => (d.gangCores.find? fun g => g.2 = k).all (fun g => g.1 = id) && !coreHeld d k && !d.savingCores.contains k && !d.absent.contains k && !d.toRetire.contains k)

/-- A member's message floods to every other member (R384, R385). -/
def flood (s : State) (die : Nat) (x : Launch) (f : Nat → Instr) : State :=
  x.homes.foldl (fun (st : State) m =>
    match floodLat s die m with
    | some n => st.postUnit (st.now + n) rkArrive (f m)
    | none => st) s

/-- The slot of a pending gang on a die, with the launch, once the die's GRP has reached an instant; before it, the event is
due again. -/
def atInstant (s : State) (die gid back : Nat) (w : Instr) : Except State (Launch × GangSlot) :=
  match s.launch gid, mget (s.die die).slots gid with
  | some x, some k =>
    let g := (k.c + 2 ^ 64 - back) % 2 ^ 64
    if stepTo (s.grp die) g > 0 then .error (s.postGrp die g rkRead w) else .ok (x, k)
  | _, _ => .error s

/-- READINESS_SEND (R384). -/
def execReadinessSend (die : Nat) (gid : Nat) (s : State) : Host.Outcome State Fault Refusal :=
  match atInstant s die gid 131072 (.readinessSend die gid) with
  | .error s1 => .next s1
  | .ok (x, _) =>
    let b := readyBits s x gid die
    let f := coresFree s x gid die
    let s1 := s.modDie die fun d => { d with slots := (mget d.slots gid).elim d.slots fun k => mset d.slots gid { k with own := b } }
    .next (flood s1 die x fun m => .readinessReceive m gid die b f)

/-- READINESS_RECEIVE: the member's bitmap takes the message (R384). -/
def execReadinessReceive (die : Nat) (gid : Nat) (member : Nat) (bits : Nat) (free : Bool) (s : State) :
    Host.Outcome State Fault Refusal :=
  .next (s.modDie die fun d =>
    match mget d.slots gid with
    | some k => { d with slots := mset d.slots gid { k with ready := (k.ready.filter fun r => r.1 != member) ++ [(member, bits, free)] } }
    | none => d)

/-! ### The decision and the start (R385, R388) -/

/-- Members whose message is missing. -/
def GangSlot.missing (k : GangSlot) : List Nat := k.members.filter fun m => !k.ready.any fun r => r.1 = m
/-- Members whose message is missing or not ready. -/
def GangSlot.stragglers (k : GangSlot) : List Nat := k.members.filter fun m => !k.ready.any fun r => r.1 = m && r.2.1 = 15 && r.2.2

/-- Every member learns that no one starts. -/
def floodAbort (s : State) (die gid : Nat) : State :=
  match s.launch gid with
  | some x => flood s die x fun m => .abortReceive m gid
  | none => s

/-- GANG_DECISION: at D a member that lacks a message floods an abort (R385). -/
def execGangDecision (die : Nat) (gid : Nat) (s : State) : Host.Outcome State Fault Refusal :=
  match atInstant s die gid 65536 (.gangDecision die gid) with
  | .error s1 => .next s1
  | .ok (_, k) => .next (if k.missing.isEmpty then s else floodAbort s die gid)

/-- ABORT_RECEIVE (R385). -/
def execAbortReceive (die : Nat) (gid : Nat) (s : State) : Host.Outcome State Fault Refusal :=
  .next (s.modDie die fun d =>
    match mget d.slots gid with
    | some k => { d with slots := mset d.slots gid { k with aborted := true } }
    | none => d)

/-- The reserved cores of a member's team k, in the order of the reservation. -/
def coresOf (d : Die) (id size k : Nat) : List Nat := (((d.gangCores.filter fun g => g.1 = id).map (·.2)).drop (k * size)).take size

/-- The clusters that a gang uses on a die. -/
def gangClusters (d : Die) (id : Nat) : List Nat := ((d.gangCores.filter fun g => g.1 = id).map fun g => g.2 / 32).eraseDups

/-- Numbers for a gang's teams that no die of it uses. -/
def gangBase (s : State) (x : Launch) : Nat := x.homes.foldl (fun n m => Nat.max n (s.die m).nextTeam) 0

/-- A pair-table entry with the path latency that Ebile writes at launch (R349). -/
def freshLat (s : State) (die : Nat) (e : BitVec 128) : BitVec 128 :=
  match route s countedOk die (pairPeer e) with
  | some w => BitVec.ofNat 128 (e.toNat - pairLat e * 2 ^ 32 + pathLatency s w % 2 ^ 32 * 2 ^ 32)
  | none => e

/-- The member's clusters start from C: the teams of a launch, or the saved teams of a resume (R25, R26, R392). -/
def startMember (s : State) (die id : Nat) (k : GangSlot) : State :=
  match s.launch id with
  | none => s
  | some x =>
    let d := x.descOn die
    let s0 := (gangClusters (s.die die) id).foldl (fun (st : State) c => (loadStore st die c x.asid d.image).getD st) s
    let s1 := (kickScheduler (popQueue_ s0 x id) x.die).modLaunch id fun y => { y with
      pairs := y.pairs.map fun e => if e.1 / 256 = die then (e.1, freshLat s die e.2) else e
      phase := .running, tokens := some (y.tokens.getD (tokensOf s x)), tags := allocTags s id x
      requeued := y.requeued.filter fun r => r.1 / 1024 != die, gang := { y.gang with started := true, pending := false, saved := false } }
    let place (st : State) (lin num : Nat) (t : Team) (back : Bool) : State :=
      let cs := coresOf (s.die die) id d.teamSize lin
      let c := cs.headD 0 / 32
      addTeam st die num { t with cluster := c, cores := cs, launchCycle := k.c, start := (k.c + c * 2048) % 2 ^ 64 } back
    if k.kind = 2 then
      (x.saved.filter fun v => v.die = die).foldl (fun (st : State) v =>
        place st v.team.linear v.num { v.team with dispatched := s.now, saved := [], stopping := .none, draining := false, deadline := none } true) s1
    else
      k.teams.foldl (fun (st : State) lin => place st lin (gangBase st x) (newTeam s die id x lin 0 [] k.c) false) s1

/-- How a displaced gang stops: rules 2 and 3 of R295 for the whole gang, where the save needs room on every member, and
R303 without it; a stop that no newcomer asked for is a save (log entry 63). -/
def stopGang (s : State) (id : Nat) (x : Launch) : State :=
  let mine (m : Nat) : List (Nat × Team) := (s.die m).teams.filter fun t => t.2.launch = id
  let need (m : Nat) : Nat := (mine m).foldl (fun n t => n + teamBytes s m t.1) 0
  let all (st : State) (q : StopReq) : State :=
    let st := st.modLaunch id fun y => { y with gang := { y.gang with stopping := true } }
    x.homes.foldl (fun (st : State) m => st.modDie m fun d => { d with
      teams := d.teams.map fun t => if t.2.launch = id then (t.1, { t.2 with stopping := q }) else t }) st
  if x.desc.killable && x.gang.newcomer.any fun n => decide (n ≥ (params s (leadDie x) x.asid).killt) then all s .kill
  else if x.homes.all fun m => decide (need m ≤ ((s.ctx m x.asid).map (·.saveFree)).getD 0) then
    all (x.homes.foldl (fun (st : State) m => (mine m).foldl (fun (st : State) t =>
      takeRoom st m x.asid t.1 (teamBytes s m t.1)) st) s) .save
  else if x.desc.drainok then s
  else if x.desc.killable then all s .kill
  else endLaunch s id 0x100

/-- A member's tasks are asked to stop at C (R390). -/
def stopMember (s : State) (die id : Nat) : State :=
  match s.launch id with
  | none => s
  | some x =>
    let s1 := (if x.gang.stopping then s else stopGang s id x).modLaunch id fun y => { y with
      gang := { y.gang with pending := false, newcomer := none } }
    ((s1.die die).tasks.filter fun t => t.2.launch = id).foldl (fun (st : State) t =>
      st.postAt { die, core := t.1 } st.now rkRead (coreOrd { die, core := t.1 }) none .gangStop) s1

/-- GANG_START: at C a member with every message ready and no abort starts, or stops for a pre-emption; otherwise the outcome
is straggler, the reservation is released and the lead die retries (R290, R385 to R388). -/
def execGangStart (die : Nat) (gid : Nat) (s : State) : Host.Outcome State Fault Refusal :=
  match atInstant s die gid 0 (.gangStart die gid) with
  | .error s1 => .next s1
  | .ok (x, k) =>
    let s0 := s.modDie die fun d => { d with slots := mdel d.slots gid }
    let used := gangClusters (s.die die) gid
    if k.stragglers.isEmpty && !k.aborted && (!x.gang.cross || x.gang.committed) then
      let s1 := attemptNote s0 die gid 0 k.own used []
      .next (if k.kind = 1 then stopMember s1 die gid else startMember s1 die gid k)
    else
      let s1 := attemptNote s0 die gid (if k.attempt ≥ 3 then 3 else 1) k.own used k.stragglers
      let s2 := if k.kind = 1 then s1 else kickScheduler (s1.modDie die fun d => { d with
        gangCores := d.gangCores.filter fun g => g.1 != gid, pins := d.pins.filter fun p => p.1 != gid }) die
      .next (if die = leadDie x then s2.postUnit (s2.now + 1) rkCount (.gangRetry gid) else s2)

/-- GANG_RETRY: the next attempt, a ms or a × 3,600,000 cycles behind the last; after attempt 3 the gang is refused and the
host hears of it (R387, R392, R444). A replayed gang makes its first attempt here (R308). -/
def execGangRetry (gid : Nat) (s : State) : Host.Outcome State Fault Refusal :=
  match s.launch gid with
  | none => .next s
  | some x =>
    if !x.phase.live then .next s
    else if !x.gang.pending then
      .next (if x.gang.started || x.gang.saved || x.gang.relaunch then s else propose s gid 0 0 0 0)
    else if x.gang.attempt ≥ 3 then
      .next ((s.modLaunch gid fun y => { y with gang := { y.gang with pending := false, newcomer := none } }).hostEvent 3)
    else
      let a := x.gang.attempt + 1
      .next (propose s gid x.gang.kind a (x.gang.t + a * 1000000) (x.gang.c + a * 3600000))

/-! ### Agreement across groups (R386) -/

/-- CROSS_GROUP_PREPARE: this group's lead takes the coordinator's instant, and replies once its members have reported. -/
def execCrossGroupPrepare (gid : Nat) (t : Nat) (s : State) : Host.Outcome State Fault Refusal :=
  match s.launch gid with
  | none => .next s
  | some x =>
    let kind := if x.gang.saved then 2 else if x.gang.started then 1 else 0
    let s1 := s.modLaunch gid fun y => { y with gang := { y.gang with cross := true } }
    if !x.desc.gang || !x.phase.live || proposalBusy x kind then .next s1
    else .next ((propose s1 gid kind 0 t 0).modLaunch gid fun y => { y with gang := { y.gang with prepared := y.homes.length } })

/-- CROSS_GROUP_DECISION: with every reply at hand and its own members ready, the coordinator commits; otherwise it aborts. -/
def execCrossGroupDecision (gid : Nat) (s : State) : Host.Outcome State Fault Refusal :=
  match s.launch gid with
  | none => .next s
  | some x =>
    let ok := x.gang.pending && x.homes.all fun m => readyBits s x gid m = 15
    let s1 := s.modLaunch gid fun y => { y with gang := { y.gang with cross := true, committed := ok } }
    .next (if ok then s1 else floodAbort s1 (leadDie x) gid)

/-- CROSS_GROUP_COMMIT_RECEIVE: the lead holds the coordinator's COMMIT, or its members learn of the ABORT. -/
def execCrossGroupCommitReceive (gid : Nat) (commit : Bool) (s : State) : Host.Outcome State Fault Refusal :=
  match s.launch gid with
  | none => .next s
  | some x =>
    let s1 := s.modLaunch gid fun y => { y with gang := { y.gang with committed := commit } }
    .next (if commit then s1 else floodAbort s1 (leadDie x) gid)

/-- COMMIT_DEADLINE: a lead without COMMIT 50 µs before T floods an abort in its group. -/
def execCommitDeadline (gid : Nat) (s : State) : Host.Outcome State Fault Refusal :=
  match s.launch gid with
  | none => .next s
  | some x =>
    if !x.gang.pending || x.gang.committed then .next s
    else
      match (s.die (leadDie x)).rooster.map with
      | some m =>
        let g := mapToGcc m (x.gang.t - 50000)
        if stepTo (s.grp (leadDie x)) g > 0 then .next (s.postGrp (leadDie x) g rkArrive (.commitDeadline gid))
        else .next (floodAbort s (leadDie x) gid)
      | none => .next (floodAbort s (leadDie x) gid)

/-! ### The agreed stop and the relaunch (R348, R390) -/

/-- GANG_STOP: from C on the task stops at its first qualifying point (R390). -/
def execGangStop (s : State) : Host.Outcome State Fault Refusal :=
  let l := s.at_
  match s.task l with
  | none => .next s
  | some t => .next (s.setTask l { t with stop := ((s.team l.die t.team).map (·.stopping)).getD .none })

/-- RELAUNCH: the first loaded alternate that avoids the lost link takes the timetable's place and the gang starts again at a
new agreed instant, from the lowest chunk that is unpublished; with no alternate the launch ends (R21, R348). -/
def execRelaunch (launch : Nat) (s : State) : Host.Outcome State Fault Refusal :=
  match s.launch launch with
  | none => .next s
  | some x =>
    if !x.gang.relaunch || !x.phase.live then .next s
    else
      let num := x.homes.findSome? fun m => if (s.die m).ttLaunch = launch then (s.die m).ttRun else none
      match num.bind fun n => (findAlternate s x n).map fun g => (n, g) with
      | none => .next (endLaunch s launch 0x102)
      | some (n, g) =>
        let rc := lowestUnpublished s x n
        let s1 := freeSaves (putInPlace s n g) launch
        let s2 := x.homes.foldl (fun (st : State) m => releaseDie st m launch) s1
        let s3 := s2.modLaunch launch fun y => { y with
          requeued := [], retired := 0, fault := none
          gang := { y.gang with relaunch := false, started := false, saved := false, stopping := false, rchunk := rc } }
        .next (propose s3 launch 0 0 0 0)

end Sys2Proof.Machine
end

