-- ==== Sys2Proof/Machine/Ring.lean ====
section
/-! DEFINITION. The host's registers and command ring (R433 to R438, R451): how an entry becomes a command's event, and
how a command ends. -/

namespace Sys2Proof.Machine

/-! ### Status codes (R435) -/

def stOk : Nat := 0
def stQueueFull : Nat := 1
def stLaunchInvalid : Nat := 2
def stSaveArea : Nat := 3
def stPinned : Nat := 4
def stAperture : Nat := 5
def stBusy : Nat := 6
def stTimetable : Nat := 7
def stSignature : Nat := 8
def stKeysSpent : Nat := 9
def stNoRecord : Nat := 10
def stUnknown : Nat := 11
def stEntryInvalid : Nat := 12
def stNotFound : Nat := 13

/-! ### The entry (R434, R437) -/

/-- `n` bytes of an entry from byte b on. -/
def entryField (e : BitVec 512) (b n : Nat) : Nat := bits e.toNat (8 * (b + n) - 1) (8 * b)
/-- `n` bytes of ARGS from offset o on. -/
def entryArg (e : BitVec 512) (o n : Nat) : Nat := entryField e (24 + o) n

def State.arg (s : State) (o n : Nat) : Nat := entryArg s.host.cmd o n
def State.cDie (s : State) : Nat := entryField s.host.cmd 10 2 % 512
def State.cAsid (s : State) : Nat := entryField s.host.cmd 8 2 % 512

/-- The ARGS fields of an opcode by offset and size (R437). -/
def listedArgs (op : Nat) (grant : Bool) : List (Nat × Nat) :=
  match op with
  | 0x01 => [(0, 8), (8, 8), (16, 10)]
  | 0x03 => [(16, 10)]
  | 0x10 => [(0, 8), (8, 8), (16, 3)]
  | 0x11 | 0x13 | 0x14 => [(0, 8), (16, 1)]
  | 0x12 => [(0, 8), (16, 2)]
  | 0x15 => [(0, 8), (8, 8), (16, 1), (18, 1)]
  | 0x16 => if grant then [(0, 2), (8, 4)] else [(0, 2), (8, 16)]
  | 0x17 => [(0, 3), (8, 32)]
  | 0x18 => [(0, 2), (8, 8)]
  | 0x19 => [(0, 2)]
  | 0x20 => [(0, 8), (8, 8)]
  | 0x21 => [(0, 8), (8, 8), (16, 3), (24, 8)]
  | 0x22 => [(16, 1)]
  | 0x23 | 0x24 => [(0, 1)]
  | 0x30 => [(0, 8), (8, 2), (16, 8)]
  | 0x31 => [(0, 4), (8, 8), (16, 8), (24, 1)]
  | 0x32 | 0x41 | 0x50 => [(0, 8)]
  | 0x33 => [(0, 6)]
  | 0x34 => [(0, 4)]
  | 0x40 => [(0, 8), (8, 2)]
  | 0x51 => [(0, 3), (8, 6), (16, 8), (24, 8)]
  | 0x52 => [(0, 2)]
  | 0x53 => [(0, 8), (8, 8)]
  | 0x54 => [(0, 32), (32, 8)]
  | _ => []

/-- Every byte of ARGS outside the listed fields is zero (R437). -/
def unlistedZero (e : BitVec 512) (l : List (Nat × Nat)) : Bool :=
  (List.range 40).all fun i => (l.any fun f => f.1 ≤ i && i < f.1 + f.2) || entryArg e i 1 = 0

/-- The zero fields of an entry are zero (R434). -/
def headerZero (e : BitVec 512) : Bool :=
  entryField e 2 2 = 0 && entryField e 12 4 = 0 && entryField e 8 2 < 512 && entryField e 10 2 < 512

/-- The command of an opcode, with the form that a mode, kind or action byte names (R436, R437). -/
def opcodeOf (e : BitVec 512) : Instr :=
  match entryField e 0 2 with
  | 0x01 => .contextCreate
  | 0x02 => .contextDestroy
  | 0x03 => .contextParameters
  | 0x10 => .map
  | 0x11 => .unmap
  | 0x12 => .protect
  | 0x13 => .pin
  | 0x14 => .unpin
  | 0x15 => .migrate
  | 0x16 => match entryArg e 1 1 with
    | 0 => .apertureWrite
    | 1 => .apertureGrant
    | _ => .undefinedCommand
  | 0x17 => match entryArg e 2 1 with
    | 0 => .shadowMapWrite
    | 1 => .shadowMapInvalidate
    | _ => .undefinedCommand
  | 0x18 => .handle
  | 0x19 => .drop
  | 0x20 => .imageLoad
  | 0x21 => .timetableLoad
  | 0x22 => .timetableFree
  | 0x23 => .counterAllocate
  | 0x24 => .counterFree
  | 0x30 => .enqueueLaunch
  | 0x31 => match entryArg e 24 1 with
    | 0 => .gangProposalLaunch
    | 1 => .gangProposalPreemption
    | 2 => .gangProposalResume
    | _ => .undefinedCommand
  | 0x32 => .segmentMark
  | 0x33 => match entryArg e 5 1 with
    | 0 => .faultResolveResume
    | 1 => .faultResolveEnd
    | _ => .undefinedCommand
  | 0x34 => .cancelLaunch
  | 0x40 => .recordRead
  | 0x41 => .health
  | 0x50 => .keyInstall
  | 0x51 => match entryArg e 2 1 with
    | 0 => .endpointWrite
    | 1 => .endpointInvalidate
    | _ => .undefinedCommand
  | 0x52 => match entryArg e 1 1 with
    | 0 => .linkRetrain
    | 1 => .linkTakeDown
    | _ => .undefinedCommand
  | 0x53 => .cxlConfiguration
  | 0x54 => .attest
  | _ => .undefinedCommand

/-- The command that an entry names; one with a non-zero zero field is undefined (R435, R437). -/
def commandOf (e : BitVec 512) : Instr :=
  let op := entryField e 0 2
  if headerZero e && unlistedZero e (listedArgs op (entryArg e 1 1 = 1)) then opcodeOf e else .undefinedCommand

/-! ### The ring (R255, R433, R435) -/

/-- Ebile pops the next entry when none is being executed; its command happens some cycles later (log entry 2). -/
def popEntry (s : State) : State :=
  let h := s.host
  if h.busy || h.head = h.tail || s.now < h.readyAt then s
  else
    let e := BitVec.ofNat 512 (Mem.num (s.die 0).dram (h.rbase + 64 * (h.head % 2 ^ h.rsize)) 64)
    let (n, s1) := { s with host := { h with busy := true, cmd := e, head := (h.head + 1) % 2 ^ 32 } }.nextFree
    s1.postUnit (s1.now + 1 + n % 65536) rkCount (commandOf e)

/-- Bytes are posted to host memory, behind every earlier write (R238). -/
def State.postHost (s : State) (a : Nat) (b : List Byte) : State := { s with host := { s.host with posted := s.host.posted ++ [(a, b)] } }

/-- A command ends: its status word is posted behind its effects, and the next entry is popped (R435). -/
def reply (s : State) (status result : Nat) : State :=
  let e := s.host.cmd
  let w := status % 2 ^ 16 + result % 2 ^ 16 * 2 ^ 16 + entryField e 4 4 * 2 ^ 32
  let s1 := s.postHost (entryField e 16 8) (bytesOf w 8)
  popEntry { s1 with host := { s1.host with busy := false, hold := none } }

/-- A command ends with a status and RESULT zero. -/
def ends (s : State) (status : Nat) : Host.Outcome State Fault Refusal := .next (reply s status 0)

/-- A command waits: it looks again in the next cycle, and holds every later entry (R435). -/
def waits (s : State) : Host.Outcome State Fault Refusal := .next (s.postUnit (s.now + 1) rkCount (commandOf s.host.cmd))

/-- A command on a context that is live on the entry's die (R451). -/
def withCtx (s : State) (f : Nat → Nat → Context → Host.Outcome State Fault Refusal) : Host.Outcome State Fault Refusal :=
  match s.ctx s.cDie s.cAsid with
  | some c => if c.killed then ends s stNotFound else f s.cDie s.cAsid c
  | none => ends s stNotFound

/-- A command on a die that runs; another die's number is a failure (R451). -/
def withDie (s : State) (f : Nat → Host.Outcome State Fault Refusal) : Host.Outcome State Fault Refusal :=
  if (s.die s.cDie).started then f s.cDie else ends s stUnknown

/-- UNDEFINED_COMMAND (R435). -/
def execUndefinedCommand (s : State) : Host.Outcome State Fault Refusal := ends s stUnknown

/-- The writes of the host and of other outside agents that a doorbell follows become visible (R238, R316; log entry 97). -/
def takeWrites (s : State) : State :=
  let s1 := s.host.writes.foldl (fun (st : State) w => st.modDie w.1 fun d => { d with dram := Mem.wrBytes d.dram w.2.1 w.2.2 }) s
  { s1 with host := { s1.host with writes := [] } }

/-- What a host read of die A's HBM4 region through BAR2 answers, none outside it or where a block is poisoned (R205, R238,
R433). -/
def hostRead (s : State) (a n : Nat) : Option (List Byte) :=
  if a + n > 2 ^ 38 || poisoned (s.die 0) a n then none else some (Mem.bytes (s.die 0).dram a n)

/-- HOST_DOORBELL: a new tail; one that passes HEAD by more than the depth is ignored and the host hears of it. Before Ebile
is ready the doorbell is taken when it is; what the host wrote before it is visible from then on (R238, R255, R433, R442). -/
def execHostDoorbell (tail : Nat) (s : State) : Host.Outcome State Fault Refusal :=
  let s1 := { s with host := { s.host with locked := true } }
  if s.now < s.host.readyAt then .next (s1.postUnit s.host.readyAt rkCount (.hostDoorbell tail))
  else
    let s2 := takeWrites s1
    if (tail % 2 ^ 32 + 2 ^ 32 - s.host.head) % 2 ^ 32 > 2 ^ s.host.rsize then .next (s2.hostEvent 4)
    else .next (popEntry { s2 with host := { s2.host with tail := tail % 2 ^ 32 } })

/-- REGISTER_WRITE: RBASE and RSIZE until the first doorbell; other registers take no write here (R433). -/
def execRegisterWrite (off : Nat) (val : Word) (s : State) : Host.Outcome State Fault Refusal :=
  if s.host.locked then .next s
  else if off = 8 then .next { s with host := { s.host with rbase := val.toNat / 64 * 64 } }
  else if off = 16 && 6 ≤ val.toNat && val.toNat ≤ 16 then .next { s with host := { s.host with rsize := val.toNat } }
  else .next s

end Sys2Proof.Machine
end

