-- ==== Sys2Proof/Machine/Contexts.lean ====
section
/-! DEFINITION. Host commands on contexts and their tables: contexts (R284, R302, R310, R439, R450), page tables (R311 to R316,
R320), apertures (R317), shadow maps (R325 to R327), handles (R307, R324). -/

namespace Sys2Proof.Machine

/-! ### Ebile's page pool -/

/-- The device physical address of byte a of a die's stacks (R199). -/
def hbmAddr (die a : Nat) : Nat := (if isDieB die then 2 ^ 48 else 0) + a

def roundUp (a n : Nat) : Nat := (a + n - 1) / n * n

/-- Takes n bytes aligned to a power of two: from what was returned, else from the pool's end. -/
def takePool (s : State) (die n align : Nat) : Option (Nat × State) :=
  let d := s.die die
  match d.freed.find? fun f => f.1 % align = 0 && n ≤ f.2 with
  | some f =>
    let rest := if n < f.2 then [(f.1 + n, f.2 - n)] else []
    some (hbmAddr die f.1, s.modDie die fun d => { d with freed := (d.freed.filter (· != f)) ++ rest })
  | none =>
    let a := roundUp d.pool align
    if a + n ≤ 2 ^ 38 then some (hbmAddr die a, s.modDie die fun d => { d with pool := a + n }) else none

/-- Returns n bytes to the pool. -/
def givePool (s : State) (die a n : Nat) : State :=
  if n = 0 then s else s.modDie die fun d => { d with freed := d.freed ++ [(a % 2 ^ 48, n)] }

/-- A range of main memory reads as zero and is no longer poisoned (R203). -/
def zeroRange (d : Die) (a n : Nat) : Die :=
  { d with dram := Mem.clear d.dram a n, poison := d.poison.filter fun b => b * 64 < a || a + n ≤ b * 64 }

/-! ### Contexts (R284, R302, R310, R439, R450) -/

/-- The scheduling parameters of an entry, in their limits (R284). -/
def argParams (s : State) : Option SchedParams :=
  let p : SchedParams := { ageq := s.arg 16 4, draint := s.arg 20 4, killt := s.arg 24 1, pregap := s.arg 25 1 }
  if 1024 ≤ p.ageq && p.ageq ≤ 2 ^ 31 then some p else none

/-- The tables of a new context take their places (R310, R311). -/
def takeRoot (s : State) (die : Nat) : Option (List Nat × State) :=
  [(2 ^ 19, 2 ^ 19), (2 ^ 18, 2 ^ 18), (2 ^ 17, 2 ^ 17), (4096, 4096)].foldl (fun acc x =>
    match acc with
    | some (l, st) => (takePool st die x.1 x.2).map fun r => (l ++ [r.1], r.2)
    | none => none) (some ([], s))

/-- CONTEXT_CREATE: BUSY when the ASID lives on the die; SAVE_AREA when the save area cannot be had (R302, R437, R450). -/
def execContextCreate (s : State) : Host.Outcome State Fault Refusal :=
  withDie s fun die =>
    let asid := s.cAsid
    if s.dies.any fun d => (mget d.2.ctxs asid).any fun c => d.1 = die || c.killed then ends s stBusy
    else
      match argParams s, takeRoot s die with
      | none, _ => ends s stUnknown
      | some _, none => ends s stUnknown
      | some p, some (root, s1) =>
        let n := s.arg 0 8
        match takePool s1 die (roundUp n 4096) 4096 with
        | none => ends s stSaveArea
        | some (a, s2) =>
          let c : Context := { root, params := p, saveBase := a, saveSize := n, saveFree := n, quota := s.arg 8 8 }
          ends (s2.modDie die fun d => { d with ctxs := mset d.ctxs asid c }) stOk

/-- CONTEXT_PARAMETERS (R284). -/
def execContextParameters (s : State) : Host.Outcome State Fault Refusal :=
  withCtx s fun die asid _ =>
    match argParams s with
    | some p => ends (kickScheduler (s.modCtx die asid fun c => { c with params := p }) die) stOk
    | none => ends s stUnknown

/-- The launches of a context with work on a die, in queue order. -/
def launchesOn (s : State) (die asid : Nat) : List Nat :=
  (s.launches.filter fun x => x.2.asid = asid && x.2.phase.live && x.2.homes.contains die).map (·.1)

/-- Something of the context is still to perform on the die: commands, fabric words, accesses, armed windows (R439). -/
def ctxBusy (s : State) (die asid : Nat) : Bool :=
  let d := s.die die
  (d.cmds.any fun c => c.2.asid = asid && c.2.acc) ||
  (d.horizon.isSome && ((s.launch d.ttLaunch).map (·.asid)) = some asid) ||
  s.calendar.any fun e =>
    match e.what with
    | .accessPerform a => a.asid = asid && a.die = die
    | .fabricDeparture t => t.asid = asid && (t.src = die || t.dst = die)
    | .routerForward _ _ t => t.asid = asid && (t.src = die || t.dst = die)
    | .fabricWordArrival w => w.asid = asid && (w.src = die || w.dst = die)
    | .countedFlitArrival c _ => c.asid = asid && (c.src = die || c.dst = die)
    | _ => false

/-- Everything a context holds on a die is freed and zeroed (R177, R203, R439). -/
def freeContext (s : State) (die asid : Nat) (c : Context) : State :=
  let pages := c.ptes.filter fun e => pteV e.2.toNat && pteLeaf e.2.toNat && pteApr e.2.toNat = 0
  let tables := c.ptes.filter fun e => pteV e.2.toNat && !pteLeaf e.2.toNat
  let s1 := s.modDie die fun d =>
    let d1 := pages.foldl (fun d e => zeroRange d (ptePage e.2.toNat) (2 ^ levelShift (e.1 / 2 ^ 36))) d
    let mine := (d.tags.filter fun t => t.2 = asid).map (·.1)
    let d2 := setMem s.now d1 .scratch (d1.scratch.filter fun x => !mine.contains (x.1 / 64))
    { d2 with
      tags := d.tags.filter fun t => t.2 != asid
      counters := d.counters.filter fun x => x.2.asid != asid
      tts := d.tts.filter fun x => x.2.asid != asid
      ttRun := if ((d.ttRun.bind (mget d.tts)).map (·.asid)) = some asid then none else d.ttRun
      tlb := d.tlb.filter fun x => x.1 != asid
      frames := d.frames.filter fun f => f.2.asid != asid
      stores := d.stores.filter fun x => x.2.1 != asid
      stuck := d.stuck.filter fun x => x.asid != asid
      ctxs := mdel d.ctxs asid }
  let s2 := tables.foldl (fun (st : State) e =>
    givePool st die (bits e.2.toNat 51 8 * 256) (tableSize (e.1 / 2 ^ 36 + 1))) s1
  let s3 := [(0, 2 ^ 19), (1, 2 ^ 18), (2, 2 ^ 17), (3, 4096)].foldl (fun (st : State) x =>
    match c.root[x.1]? with
    | some a => givePool st die a x.2
    | none => st) s2
  let s4 := givePool s3 die c.saveBase (roundUp c.saveSize 4096)
  if s4.dies.any fun d => (mget d.2.ctxs asid).isSome then s4
  else { s4 with launches := s4.launches.filter fun x => x.2.asid != asid }

/-- Every launch of a context on a die ends as cancelled, with its counted traffic that waits (R439, R449). -/
def cancelAll (s : State) (die asid : Nat) : State :=
  (launchesOn s die asid).foldl (fun (st : State) id => dropStuck (endLaunch st id 0x107) id) s

/-- CONTEXT_DESTROY: launches are cancelled, what is in flight completes, then everything is freed and zeroed (R439). -/
def execContextDestroy (s : State) : Host.Outcome State Fault Refusal :=
  match s.ctx s.cDie s.cAsid with
  | none => ends s stNotFound
  | some _ =>
    let s1 := cancelAll s s.cDie s.cAsid
    if ctxBusy s1 s.cDie s.cAsid then waits s1
    else ends (freeContext s1 s.cDie s.cAsid ((s1.ctx s.cDie s.cAsid).getD {})) stOk

/-! ### Page tables (R311 to R316) -/

def setPte (s : State) (die asid l va e : Nat) : State :=
  tlbDrop (s.modCtx die asid fun c => { c with ptes := mset c.ptes (pteKey l va) (BitVec.ofNat 64 e) }) die asid l va

/-- The leaf of a level that maps an address. -/
def leafAt (c : Context) (l va : Nat) : Option Nat :=
  match mget c.ptes (pteKey l va) with
  | some e => if pteV e.toNat && pteLeaf e.toNat then some e.toNat else none
  | none => none

/-- The leaf bits of an argument byte: PIN, C, RA, W, R in bits 4 to 0 (R437). -/
def leafBits (b : Nat) : Nat := b % 32 * 4 + 3

/-- An access translated under a leaf has not performed yet (R315). -/
def pageBusy (s : State) (die asid l va : Nat) : Bool :=
  let n := 2 ^ levelShift l
  let lo := va / n * n
  let mine (r : ApReq) : Bool := r.src = die && r.sasid = asid && r.sva / n = va / n && !r.waited
  let here (a : Access) : Bool := a.mem == .virt && a.die = die && a.asid = asid && a.shape.base / n = va / n
  (s.calendar.any fun e =>
    match e.what with
    | .accessPerform a => match a.op with
      | .request r => mine r || (here a && !r.waited)
      | _ => here a
    | .apertureRequest r => mine r
    | .countedFlitArrival c _ => match c.body with
      | .request r => mine r
      | _ => false
    | _ => false) ||
  (s.dies.any fun d => d.2.stuck.any fun c => match c.body with
    | .request r => mine r
    | _ => false) ||
  ((s.die die).cmds.any fun c => c.2.asid = asid && c.2.acc && !c.2.done && c.2.n > 0 &&
    c.2.pages.any fun x => x.1 < lo + n && lo < x.1 + x.2) ||
  ((s.die die).tasks.any fun t => t.2.ctl.asid = asid &&
    (t.2.fsts.any mine || t.2.sbuf.any here || t.2.wpend.any here ||
     (t.2.units.any fun u => u.drain.any fun x => x.2.1 / n = va / n) ||
     (t.2.res.segs.any fun g => (g.2.st == .outbound || g.2.st == .inbound) && !g.2.cxl && (t.2.res.spillBase + 4096 * g.1) / n = va / n)))

/-- A placed gang lists the page (R316). -/
def pagePinned (s : State) (die asid l va : Nat) : Bool :=
  (s.die die).pins.any fun p => ((s.launch p.1).map (·.asid)) = some asid && p.2.2 = l && p.2.1 / 2 ^ levelShift l = va / 2 ^ levelShift l

/-- Some context of the die maps a part of a range of main memory. -/
def mappedNow (d : Die) (a n : Nat) : Bool :=
  d.ctxs.any fun c => c.2.ptes.any fun e =>
    let x := e.2.toNat
    let m := 2 ^ levelShift (e.1 / 2 ^ 36)
    pteV x && pteLeaf x && pteApr x = 0 && ptePage x < a + n && a < ptePage x + m

/-- The table entries above a level, built from the pool where they are missing; none when a larger leaf or a bad entry
stands there. -/
def buildTables (s : State) (die asid va : Nat) : Nat → Nat → Option State
  | 0, _ => some s
  | n + 1, l =>
    match s.ctx die asid with
    | none => none
    | some c =>
      let e := ((mget c.ptes (pteKey l va)).getD 0).toNat
      if pteV e then
        if pteLeaf e || tableBad die l e then none else buildTables s die asid va n (l + 1)
      else
        match takePool s die (tableSize (l + 1)) (tableSize (l + 1)) with
        | none => none
        | some (a, s1) => buildTables (setPte s1 die asid l va (a + 1)) die asid va n (l + 1)

/-- Ebile rewrites the poisoned blocks of a page before it maps them again (R205). -/
def rewritePoison (d : Die) (a n : Nat) : Die :=
  (d.poison.filter fun b => a ≤ b * 64 && b * 64 < a + n).foldl (fun d b => zeroRange d (b * 64) 64) d

/-- MAP: a leaf is written, missing levels are built; a page that no context maps is zeroed first (R203, R205, R313, R315,
R437). -/
def execMap (s : State) : Host.Outcome State Fault Refusal :=
  withCtx s fun die asid c =>
    let va := s.arg 0 8
    let size := s.arg 16 1
    let l := sizeLevel size
    let apr := s.arg 18 1
    let e := leafBits (s.arg 17 1) + apr * 256 + s.arg 8 8
    if size > 3 || va ≥ 2 ^ 52 || va % 2 ^ levelShift l != 0 || s.arg 17 1 ≥ 32 || s.arg 8 8 % 65536 != 0 || s.arg 8 8 ≥ 2 ^ 52 ||
       leafBad die c l e then ends s stUnknown
    else
      match buildTables s die asid va (l - 1) 1 with
      | none => ends s stUnknown
      | some s1 =>
        let old := ((mget c.ptes (pteKey l va)).getD 0).toNat
        if pteV old && !pteLeaf old then ends s stUnknown
        else if pteV old && pageBusy s die asid l va then waits s
        else
          let s2 := if apr != 0 then s1
            else if dpaHbm (ptePage e) && !mappedNow (s.die die) (ptePage e) (2 ^ levelShift l) then
              s1.modDie die fun d => zeroRange d (ptePage e) (2 ^ levelShift l)
            else s1.modDie die fun d => rewritePoison d (ptePage e) (2 ^ levelShift l)
          ends (setPte s2 die asid l va e) stOk

/-- A command that changes the leaf of a size code: NOT_FOUND without one, PINNED when a placed gang lists it, and the change
once every old access has performed (R315, R316, R451). -/
def changeLeaf (s : State) (pinned : Bool) (f : Nat → Option Nat) : Host.Outcome State Fault Refusal :=
  withCtx s fun die asid c =>
    let va := s.arg 0 8
    let l := sizeLevel (s.arg 16 1)
    if s.arg 16 1 > 3 || va ≥ 2 ^ 52 then ends s stNotFound
    else
      match leafAt c l va with
      | none => ends s stNotFound
      | some e =>
        if pinned && pagePinned s die asid l va then ends s stPinned
        else if pageBusy s die asid l va then waits s
        else
          match f e with
          | some e' => if pteV e' && leafBad die c l e' then ends s stUnknown else ends (setPte s die asid l va e') stOk
          | none => ends s stUnknown

/-- UNMAP (R315, R316). -/
def execUnmap (s : State) : Host.Outcome State Fault Refusal := changeLeaf s true fun _ => some 0
/-- PROTECT: the five leaf bits take their new values (R315, R316). -/
def execProtect (s : State) : Host.Outcome State Fault Refusal :=
  changeLeaf s true fun e => if s.arg 17 1 < 32 then some (e - e % 128 + leafBits (s.arg 17 1)) else none
/-- PIN (R316). -/
def execPin (s : State) : Host.Outcome State Fault Refusal := changeLeaf s false fun e => some (e ||| 64)
/-- UNPIN (R316). -/
def execUnpin (s : State) : Host.Outcome State Fault Refusal :=
  changeLeaf s true fun e => some (if ptePin e then e - 64 else e)

/-! ### Migration (R320) -/

/-- The contents of a page move to another, between dies too; the old page reads as zero. -/
def movePage (s : State) (from_ : Nat) (a : Nat) (to_ : Nat) (b n : Nat) : State :=
  let cells := (s.die from_).dram.filter fun c => inRange c.1 a n
  let s1 := s.modDie from_ fun d => zeroRange d a n
  let s2 := s1.modDie to_ fun d => zeroRange d b n
  s2.modDie to_ fun d => { d with dram := cells.foldl (fun m c => Mem.wr m (c.1 - a + b) c.2) d.dram }

/-- A poisoned block of a page that Ebile reads (R205). -/
def poisonIn (d : Die) (a n : Nat) : Option Nat := (d.poison.find? fun b => a ≤ b * 64 && b * 64 < a + n).map (· * 64)

/-- A page behind the die's CXL port that no context maps: at the start of a device's range or behind a mapped page (R217,
R320). -/
def cxlPage (d : Die) (die n : Nat) : Option Nat :=
  let r := (if isDieB die then 3 else 2) * 2 ^ 48
  let behind := d.ctxs.flatMap fun c => c.2.ptes.map fun e => ptePage e.2.toNat + 2 ^ levelShift (e.1 / 2 ^ 36)
  d.cxlDevs.findSome? fun v => ((((r + v.1) :: behind).map fun a => roundUp a n).filter fun a =>
    r + v.1 ≤ a && a + n ≤ r + v.1 + v.2 && !mappedNow d a n).head?

/-- The new page of a migrate: the one given, or one of Ebile's choice, behind the CXL port for a leaf with C = 1 (R313,
R320). -/
def newPage (s : State) (die l : Nat) (cached : Bool) : Option (Nat × State) :=
  let n := 2 ^ levelShift l
  let a := s.arg 8 8
  if a = 0 && cached then (cxlPage (s.die die) die n).map fun b => (b, s)
  else if a = 0 then takePool s die n n
  else if a % n = 0 && a < 2 ^ 52 && dpaOwn die a && !mappedNow (s.die die) a n then some (a, s) else none

/-- A migrate command holds the page that it is to move, until it ends (R320). -/
def holdPage (s : State) (die asid l va : Nat) : State :=
  let n := 2 ^ levelShift l
  { s with host := { s.host with hold := some (die, asid, va / n * n, n) } }

/-- A migrate command on a local leaf (R320). -/
def migrateLocal (s : State) (die asid l va e : Nat) : Host.Outcome State Fault Refusal :=
  let n := 2 ^ levelShift l
  match poisonIn (s.die die) (ptePage e) n, newPage s die l (pteC e) with
  | some b, _ => ends (s.postUnit s.now rkCount (.uncorrectableMemoryError die b (unitField 7 0 0))) stUnknown
  | none, none => ends s stUnknown
  | none, some (b, s1) =>
    if s.arg 18 1 != 0 || (pteC e && !dpaCxl b) then ends s stUnknown
    else ends (setPte (movePage s1 die (ptePage e) die b n) die asid l va (e - ptePage e + b)) stOk

/-- A migrate command on an aperture leaf: the target's page moves here, and the target's leaf points back (R320). -/
def migrateHere (s : State) (die asid l va e : Nat) (c : Context) : Host.Outcome State Fault Refusal :=
  match aperture c (pteApr e) with
  | none => ends s stAperture
  | some ap =>
    let n := 2 ^ levelShift l
    let td := apDie ap
    let ta := apAsid ap
    let tva := (va / n * n + apOffset ap) % 2 ^ 52
    match s.ctx td ta with
    | none => ends s stAperture
    | some tc =>
      match leafAt tc l tva, aperture tc (s.arg 18 1) with
      | some te, some back =>
        if pteApr te != 0 || tva % n != 0 || apDie back != die || apAsid back != asid || (tva + apOffset back) % 2 ^ 52 != va / n * n then ends s stAperture
        else if pagePinned s td ta l tva || pagePinned s die asid l va then ends s stPinned
        else if pageBusy s td ta l tva || pageBusy s die asid l va then waits (holdPage s td ta l tva)
        else
          match poisonIn (s.die td) (ptePage te) n, newPage s die l (pteC e) with
          | some b, _ => ends (s.postUnit s.now rkCount (.uncorrectableMemoryError td b (unitField 7 0 0))) stUnknown
          | none, none => ends s stUnknown
          | none, some (b, s1) =>
            let s2 := movePage s1 td (ptePage te) die b n
            let keep := e % 256 - (if pteC e && !dpaCxl b then 32 else 0)
            let s3 := setPte s2 die asid l va (keep + b)
            ends (setPte s3 td ta l tva (te % 256 - (if pteC te then 32 else 0) + s.arg 18 1 * 256)) stOk
      | _, _ => ends s stAperture

/-- MIGRATE (R315, R316, R320). -/
def execMigrate (s : State) : Host.Outcome State Fault Refusal :=
  withCtx s fun die asid c =>
    let va := s.arg 0 8
    let l := sizeLevel (s.arg 16 1)
    if s.arg 16 1 > 3 || va ≥ 2 ^ 52 then ends s stNotFound
    else
      match leafAt c l va with
      | none => ends s stNotFound
      | some e =>
        if pteApr e != 0 then migrateHere s die asid l va e c
        else if pagePinned s die asid l va then ends s stPinned
        else if pageBusy s die asid l va then waits (holdPage s die asid l va)
        else migrateLocal s die asid l va e

/-! ### Apertures (R317) -/

/-- The bits of an aperture entry that are zero. -/
def apertureZero (n : Nat) : Bool := bits n 63 52 = 0 && bits n 78 73 = 0 && bits n 127 89 = 0

/-- APERTURE_WRITE: an entry is written after the checks of R317. -/
def execApertureWrite (s : State) : Host.Outcome State Fault Refusal :=
  withCtx s fun die asid _ =>
    let n := s.arg 8 16
    let e := BitVec.ofNat 128 n
    let granted := ((s.ctx (apDie e) (apAsid e)).map fun t => !t.killed && t.grants.contains (die, asid)).getD false
    if s.arg 0 1 = 0 then ends s stUnknown
    else if !apertureZero n || apOffset e % 65536 != 0 || apDie e = die || !inGroup s (apDie e) || !granted then ends s stAperture
    else
      ends (s.modDie die fun d => { d with
        tlb := d.tlb.filter fun x => x.1 != asid
        ctxs := (mget d.ctxs asid).elim d.ctxs fun c => mset d.ctxs asid { c with apertures := mset c.apertures (s.arg 0 1) e } }) stOk

/-- APERTURE_GRANT: a source context may reach this context (R317). -/
def execApertureGrant (s : State) : Host.Outcome State Fault Refusal :=
  withCtx s fun die asid _ =>
    let g := (s.arg 8 2, s.arg 10 2)
    if g.1 ≥ 512 || g.2 ≥ 512 then ends s stUnknown
    else ends (s.modCtx die asid fun c => { c with grants := if c.grants.contains g then c.grants else c.grants ++ [g] }) stOk

/-! ### Shadow maps (R325 to R327) -/

/-- Two ranges of one length overlap. -/
def overlap (a b n m : Nat) : Bool := a < b + m && b < a + n

/-- The ranges of an entry overlap each other or a range of another valid entry of its kind (R325). -/
def shadowClash (c : Context) (num : Nat) (e : BitVec 256) : Bool :=
  overlap (shV e) (shS e) (shSize e) (shSize e) ||
  c.shadows.any fun x => x.1 != num && shValid x.2 && shVirt x.2 == shVirt e &&
    [shV e, shS e].any fun a => [shV x.2, shS x.2].any fun b => overlap a b (shSize e) (shSize x.2)

/-- The bits of an entry that are zero, the address bits included (R325). -/
def shadowZero (e : BitVec 256) : Bool :=
  bits e.toNat 255 195 = 0 &&
  (if shVirt e then shV e < 2 ^ 52 && shS e < 2 ^ 52 && shV e % 65536 = 0 && shS e % 65536 = 0
   else shV e < 2 ^ 29 && shS e < 2 ^ 29 && shV e % 64 = 0 && shS e % 64 = 0)

/-- The ranges of a scratch entry lie in one slice, each of a virtual one in one page (R325). The lines of a scratch entry get
the context's tag when Ebile prepares the slice (R177), which may be after the command: the owner tag is checked at each
access. -/
def shadowPlaced (die : Nat) (c : Context) (e : BitVec 256) : Bool :=
  let n := shSize e
  if shVirt e then
    n % 65536 = 0 && [shV e, shS e].all fun a =>
      match pageWalk die c a with
      | .ok (_, l) => a / 2 ^ levelShift l = (a + n - 1) / 2 ^ levelShift l
      | .error _ => false
  else
    saSlice (shV e) = saSlice (shS e) && [shV e, shS e].all fun a => saSlice a = saSlice (a + n - 1)

/-- A placed gang's timetable names the entry (R327). -/
def shadowHeld (s : State) (die asid num : Nat) : Bool :=
  ((s.die die).gangCores.any fun g => ((s.launch g.1).map (·.asid)) = some asid) &&
  (s.die die).tts.any fun t => t.2.asid = asid && t.2.chunks.any fun k => k.shdw = some num

/-- SHADOW_MAP_WRITE: an entry after the checks of R325; its publish count starts at 0 and stays while the entry is valid
(R325, R327). -/
def execShadowMapWrite (s : State) : Host.Outcome State Fault Refusal :=
  withCtx s fun die asid c =>
    let num := s.arg 0 2
    let e := BitVec.ofNat 256 (s.arg 8 32)
    if num ≥ 4096 then ends s stUnknown
    else if !shadowZero e || shSize e = 0 || shadowClash c num e then ends s stEntryInvalid
    else if !shadowPlaced die c e then ends s stUnknown
    else if shadowHeld s die asid num then ends s stBusy
    else if writePending s die asid num none then waits s
    else
      let count := match mget c.shadows num with
        | some x => if shValid x then shCount x else 0
        | none => 0
      let e' := BitVec.ofNat 256 (e.toNat - shCount e * 2 ^ 160 + count * 2 ^ 160)
      ends (s.modCtx die asid fun c => { c with shadows := mset c.shadows num e' }) stOk

/-- SHADOW_MAP_INVALIDATE (R327). -/
def execShadowMapInvalidate (s : State) : Host.Outcome State Fault Refusal :=
  withCtx s fun die asid _ =>
    let num := s.arg 0 2
    if num ≥ 4096 then ends s stUnknown
    else if shadowHeld s die asid num then ends s stBusy
    else if writePending s die asid num none then waits s
    else ends (s.modCtx die asid fun c => { c with shadows := mdel c.shadows num }) stOk

/-! ### Handles (R307, R323, R324) -/

/-- The reserved fields of a handle entry are zero (R323). -/
def handleZero (h : BitVec 512) : Bool :=
  let n := h.toNat
  bits n 511 288 = 0 && bits n 286 284 = 0 && bits n 271 259 = 0 && bits n 255 240 = 0 && bits n 239 237 = 0 && bits n 231 230 = 0 &&
  hBase h % 64 = 0 && hBase h < 2 ^ 52 && hPad h < 2 ^ hWidth h

/-- The checks of the handle command: OK, or its status (R324). -/
def handleStatus (die : Nat) (c : Context) (h : BitVec 512) : Nat :=
  let bytes := hTiles h * tileBytes h
  let onePage := match pageWalk die c (hBase h) with
    | .ok (_, l) => hBase h / 2 ^ levelShift l = (hBase h + bytes - 1) / 2 ^ levelShift l
    | .error _ => false
  if (hFmt h).isNone || hClass h > 5 then stUnknown
  else if !handleZero h || ((List.range 4).any fun d => hDim h d = 0 || (hRank h ≤ d && hDim h d != 1)) || !onePage then stEntryInvalid
  else stOk

/-- HANDLE: an entry read from memory is written after its checks (R324). -/
def execHandle (s : State) : Host.Outcome State Fault Refusal :=
  withCtx s fun die asid c =>
    let h := BitVec.ofNat 512 (Mem.num (s.die die).dram (s.arg 8 8) 64)
    if s.arg 0 2 ≥ 4096 then ends s stUnknown
    else
      let st := handleStatus die c h
      if st != stOk then ends s st
      else ends (s.modCtx die asid fun c => { c with handles := mset c.handles (s.arg 0 2) h }) stOk

/-- DROP: the handle is marked dropped and its memory is released (R307). -/
def execDrop (s : State) : Host.Outcome State Fault Refusal :=
  withCtx s fun die asid c =>
    match mget c.handles (s.arg 0 2) with
    | none => ends s stUnknown
    | some h =>
      if !hValid h then ends s stUnknown
      else ends (s.modCtx die asid fun c => { c with
        handles := mset c.handles (s.arg 0 2) (if hDropped h then h else BitVec.ofNat 512 (h.toNat + 2 ^ 258)) }) stOk

end Sys2Proof.Machine
end

