-- ==== Sys2Proof/Machine/Loads.lean ====
section
/-! DEFINITION. Host commands that load and enqueue: images (R256, R438), timetables (R340, R345), counters (R395), launches
(R255, R279, R285, R307, R420, R438) and segment marks (R307). -/

namespace Sys2Proof.Machine

/-! ### Image objects (R438) -/

/-- A section of an image object: its type, length and address. -/
structure Section where
  type : Nat
  len : Nat
  addr : Nat
deriving DecidableEq, Repr, Inhabited

/-- The sections of an image object, when its header and table are in order. -/
def sections (m : Mem) (a len : Nat) : Option (List Section) :=
  let n := Mem.num m (a + 4) 4
  if len < 64 || Mem.num m a 4 != 1 || n = 0 || n > 64 || Mem.num m (a + 8) 8 != len || Mem.num m (a + 16) 48 != 0 || len < 64 + 16 * n then none
  else
    let l := (List.range n).map fun i =>
      let e := a + 64 + 16 * i
      (Mem.num m e 2, Mem.num m (e + 2) 2, Mem.num m (e + 4) 4, Mem.num m (e + 8) 8)
    if l.any fun x => x.1 = 0 || x.1 > 9 || x.2.1 != 0 || x.2.2.2 + x.2.2.1 > len then none
    else some (l.map fun x => { type := x.1, len := x.2.2.1, addr := a + x.2.2.2 })

/-- Records of a fixed size: the number of each record. -/
def records (m : Mem) (size : Nat) (x : Section) : List Nat := (List.range (x.len / size)).map fun i => Mem.num m (x.addr + size * i) size

/-- Records of an 8 B place, an 8 B length and their bytes, or none when they do not fit the section. -/
def blobs (m : Mem) : Nat → Nat → Nat → Option (List (Nat × List Byte))
  | 0, _, _ => some []
  | f + 1, a, n =>
    if n = 0 then some []
    else if n < 16 then none
    else
      let k := Mem.num m (a + 8) 8
      if n < 16 + k then none
      else (blobs m f (a + 16 + k) (n - 16 - k)).map fun r => (Mem.num m a 8, Mem.bytes m (a + 16) k) :: r

/-- Schedules: name index and counts of clusters and pairs (2, 2, 4 B), the clusters (1 B each), the pairs (4 B each half);
the layout is the model's (log entry 41). -/
def schedules (m : Mem) : Nat → Nat → Nat → Option (List Sched)
  | 0, _, _ => some []
  | f + 1, a, n =>
    if n = 0 then some []
    else
      let cs := Mem.num m (a + 2) 2
      let ps := Mem.num m (a + 4) 4
      let k := 8 + cs + 8 * ps
      if n < 8 || n < k then none
      else (schedules m f (a + k) (n - k)).map fun r =>
        { name := Mem.num m a 2, clusters := (List.range cs).map fun i => Mem.num m (a + 8 + i) 1
          eqs := (List.range ps).map fun i => (Mem.num m (a + 8 + cs + 8 * i) 4, Mem.num m (a + 12 + cs + 8 * i) 4) } :: r

/-- All of a list, or none. -/
def allSome {α : Type} : List (Option α) → Option (List α)
  | [] => some []
  | some a :: r => (allSome r).map fun l => a :: l
  | none :: _ => none

/-- The sections of a type. -/
def ofType (l : List Section) (t : Nat) : List Section := l.filter fun x => x.type = t

/-- A valid block-table entry has no reserved bit and START ≤ END, and no two bundle ranges overlap (R256). -/
def blocksOk (m : Map (BitVec 512)) : Bool :=
  let valid := m.filter fun e => bits e.2.toNat 240 240 = 1
  let first (e : BitVec 512) : Nat := bits e.toNat 15 0
  let last (e : BitVec 512) : Nat := bits e.toNat 31 16
  (valid.all fun e =>
    let n := e.2.toNat
    bits n 511 384 = 0 && bits n 15 15 = 0 && bits n 31 31 = 0 && bits n 255 242 = 0 && bits n 227 224 = 0 && bits n 192 192 = 0 &&
    ((List.range 8).all fun k => bits n (256 + 16 * k + 14) (256 + 16 * k + 8) = 0) && first e.2 ≤ last e.2) &&
  noneRelated (fun x y => first x.2 ≤ last y.2 && first y.2 ≤ last x.2) valid

/-- What an image object holds: the image, its handle entries and its main-memory data. -/
structure Loaded where
  image : Image
  handles : List (Nat × BitVec 512)
  data : List (Nat × List Byte)
deriving DecidableEq, Repr, Inhabited

/-- The largest scratch window that the launch descriptors of an image declare, zero with none (R61, R438). -/
def declaredWindow (l : List (BitVec 2048)) : Nat := l.foldl (fun n d => Nat.max n (bits d.toNat 159 128)) 0

/-- An image object in memory (R438), or none when it breaks a rule; scratch data beyond a declared window are refused (R61;
log entry 98). -/
def parseImage (m : Mem) (a len : Nat) : Option Loaded :=
  match sections m a len with
  | none => none
  | some l =>
    let text := (ofType l 1).flatMap fun x => (records m 48 x).map (BitVec.ofNat 384)
    let blocks : Map (BitVec 512) := ((ofType l 2).flatMap (records m 64)).mapIdx fun i n => (i, BitVec.ofNat 512 n)
    let handles := ((ofType l 3).flatMap (records m 72)).map fun n => (n % 65536, bits n 63 16, BitVec.ofNat 512 (n / 2 ^ 64))
    let pairs := ((ofType l 4).flatMap (records m 24)).map fun n => (n % 65536, bits n 63 16, BitVec.ofNat 128 (n / 2 ^ 64))
    let fits := l.all fun x => match x.type with
      | 1 => x.len % 48 = 0
      | 2 => x.len % 64 = 0
      | 3 => x.len % 72 = 0
      | 4 => x.len % 24 = 0
      | 7 => x.len % 256 = 0
      | _ => true
    let bad := (handles.any fun h => h.1 ≥ 4096 || h.2.1 != 0) || (pairs.any fun p => p.1 ≥ 256 || p.2.1 != 0) || blocks.length > 4096 || !blocksOk blocks || !fits
    if bad then none
    else
      match allSome ((ofType l 5).map fun x => blobs m (x.len + 1) x.addr x.len),
            allSome ((ofType l 6).map fun x => blobs m (x.len + 1) x.addr x.len),
            allSome ((ofType l 8).map fun x => schedules m (x.len + 1) x.addr x.len) with
      | some sc, some mm, some sch =>
        let launches := (ofType l 7).flatMap fun x => (records m 256 x).map (BitVec.ofNat 2048)
        if sc.flatten.any fun e => e.1 + e.2.length > declaredWindow launches then none
        else
          let image : Image := { text, blocks, pairs := pairs.foldl (fun k p => mset k p.1 p.2.2) [], scratch := sc.flatten
                                 scheds := sch.flatten, launches, digest := Config.digest (Mem.bytes m a len) }
          some { image, handles := handles.map fun h => (h.1, h.2.2), data := mm.flatten }
      | _, _, _ => none

/-- Main-memory data go to pages mapped with W (R451). -/
def dataMapped (s : State) (die asid : Nat) (x : Nat × List Byte) : Bool :=
  (rangePages x.1 x.2.length).all fun p => match xlateUnit s die asid p false true with
    | .ok _ => true
    | .error _ => false

/-- The bytes of a record are written by virtual address. -/
def writeData (s : State) (die asid : Nat) (x : Nat × List Byte) : State :=
  (x.2.mapIdx fun i b => (x.1 + i, b)).foldl (fun (st : State) e =>
    match resolveAddr st die asid .virt e.1 with
    | some a => st.modDie die fun d => { d with dram := Mem.wr d.dram a e.2 }
    | none => st) s

/-- IMAGE_LOAD: the sections of an image object are loaded; RESULT is the image number (R256, R437, R438, R451). -/
def execImageLoad (s : State) : Host.Outcome State Fault Refusal :=
  withCtx s fun die asid c =>
    match parseImage (s.die die).dram (s.arg 0 8) (s.arg 8 8) with
    | none => ends s stUnknown
    | some x =>
      match (x.handles.map fun h => handleStatus die c h.2).find? (· != stOk) with
      | some k => ends s k
      | none =>
        if !x.data.all (dataMapped s die asid) then ends s stEntryInvalid
        else
          let n := s.host.nextImage
          let s1 := (x.data.foldl (fun (st : State) e => writeData st die asid e) s).modCtx die asid fun c => { c with
            images := mset c.images n x.image, handles := x.handles.foldl (fun h e => mset h e.1 e.2) c.handles }
          .next (reply { s1 with host := { s1.host with nextImage := n + 1 } } stOk n)

/-! ### Timetables (R340, R345) -/

/-- The timetables of a set are freed on every die. -/
def freeSet (s : State) (asid setId : Nat) : State :=
  { s with dies := s.dies.map fun d => (d.1, { d.2 with tts := d.2.tts.filter fun t => !(t.2.asid = asid && t.2.setId = setId && !t.2.ok) }) }

/-- TIMETABLE_LOAD: the load that completes its set has the checks of R345 applied to all of it (R437). -/
def execTimetableLoad (s : State) : Host.Outcome State Fault Refusal :=
  withCtx s fun die asid _ =>
    let num := s.arg 16 1
    let n := s.arg 17 2
    let id := s.arg 24 8
    if num ≥ 64 || n = 0 || n > 512 then ends s stUnknown
    else
      match parseTimetable (s.die die).dram (s.arg 0 8) (s.arg 8 8) asid n id with
      | none => ends (freeSet s asid id) stTimetable
      | some t =>
        let s1 := s.modDie die fun d => { d with tts := mset d.tts num t }
        let held := s1.dies.foldl (fun k d => k + (d.2.tts.filter fun x => x.2.asid = asid && x.2.setId = id && !x.2.ok).length) 0
        if held < n then ends s1 stOk
        else if setOk s1 asid id then
          ends { s1 with dies := s1.dies.map fun d => (d.1, { d.2 with tts := d.2.tts.map fun x =>
            if x.2.asid = asid && x.2.setId = id then (x.1, fillLexp s1 d.1 x.2) else x }) } stOk
        else ends (freeSet s1 asid id) stTimetable

/-- TIMETABLE_FREE (R437). -/
def execTimetableFree (s : State) : Host.Outcome State Fault Refusal :=
  withCtx s fun die asid _ =>
    match mget (s.die die).tts (s.arg 16 1) with
    | some t => if t.asid = asid then ends (s.modDie die fun d => { d with tts := mdel d.tts (s.arg 16 1) }) stOk else ends s stUnknown
    | none => ends s stUnknown

/-! ### Counters (R395) -/

/-- COUNTER_ALLOCATE: the counter named, or any free one; RESULT is its number (R395, R437, R451). -/
def execCounterAllocate (s : State) : Host.Outcome State Fault Refusal :=
  withCtx s fun die asid _ =>
    let want := s.arg 0 1
    let free := (List.range 256).filter fun k => (mget (s.die die).counters k).isNone
    let pick := if want = 255 then free.head? else if free.contains want then some want else none
    match pick with
    | some k => .next (reply (s.modDie die fun d => { d with counters := mset d.counters k { val := 0, asid } }) stOk k)
    | none => ends s stBusy

/-- COUNTER_FREE (R395, R451). -/
def execCounterFree (s : State) : Host.Outcome State Fault Refusal :=
  withCtx s fun die asid _ =>
    if counterOk s die asid (s.arg 0 1) then ends (s.modDie die fun d => { d with counters := mdel d.counters (s.arg 0 1) }) stOk
    else ends s stNotFound

/-! ### Launch descriptors (R285, R438) -/

/-- Handles of a descriptor's list of 16. -/
def handleList (n lo : Nat) : List Nat :=
  (List.range 16).filterMap fun i => let e := bits n (lo + 16 * i + 15) (lo + 16 * i); if e ≥ 2 ^ 15 then some (e % 4096) else none

/-- The fields of a descriptor's 256 bytes; lists it names by address are read from the die's memory. -/
def parseLaunch (m : Mem) (b : BitVec 2048) : LaunchDesc :=
  let n := b.toNat
  let f (o k : Nat) : Nat := bits n (8 * (o + k) - 1) (8 * o)
  let e := f 8 8
  let gtol := f 204 4
  { gang := bits e 56 56 = 1, image := f 0 4, entry := f 4 4, ext := (bits e 15 0, bits e 31 16, bits e 47 32), teamSize := bits e 52 48
    swsize := f 16 4, rw := f 20 4, killable := bits e 57 57 = 1, drainok := bits e 58 58 = 1, curlim := f 24 2, cc := f 26 1, tpt := f 28 4
    tiles := (bits (f 32 8) 15 0, bits (f 32 8) 31 16, bits (f 32 8) 47 32)
    waits := (List.range 4).filterMap fun i => let w := f (40 + 8 * i) 8; if bits w 8 8 = 1 then some (w % 256, w / 2 ^ 32) else none
    publishes := (List.range 8).filterMap fun i => let w := f (72 + 4 * i) 4; if w ≥ 2 ^ 31 then some (w % 2 ^ 24) else none
    fences := (List.range 8).filterMap fun i => let w := f (104 + i) 1; if w ≥ 128 then some (w % 8, w / 8 % 8) else none
    args := Mem.bytes m (f 112 8) (Nat.min (f 120 4) 4032)
    inputs := handleList n (8 * 128), outputs := handleList n (8 * 160)
    members := (List.range (Nat.min (f 202 2) 512)).map fun i => Mem.num m (f 192 8 + 2 * i) 2
    gtol := if gtol = 0 then 2000 else gtol
    pins := (List.range (Nat.min (f 216 4) 1025)).map fun i => (Mem.num m (f 208 8 + 16 * i) 8, sizeLevel (Mem.num m (f 208 8 + 16 * i + 8) 8))
    residual := f 220 4, spillBase := f 224 8, spillSize := f 232 8 }

/-- A descriptor keeps the limits and zero fields of R285 and R438. -/
def launchOk (b : BitVec 2048) (d : LaunchDesc) : Bool :=
  let n := b.toNat
  let f (o k : Nat) : Nat := bits n (8 * (o + k) - 1) (8 * o)
  let e := f 8 8
  1 ≤ d.teamSize && d.teamSize ≤ 24 && bits e 55 53 = 0 && bits e 63 59 = 0 && d.swsize % 4096 = 0 && d.rw % 4096 = 0 &&
  d.swsize + d.rw ≤ 2 ^ 21 && d.rw ≤ 2 ^ 20 && 96 ≤ d.curlim && f 27 1 = 0 && d.tpt ≤ 2 ^ 24 &&
  1 ≤ d.tiles.1 && 1 ≤ d.tiles.2.1 && 1 ≤ d.tiles.2.2 && f 38 2 = 0 && f 120 4 ≤ 4032 && f 124 4 = 0 && f 200 2 = 0 && f 240 16 = 0 &&
  ((List.range 4).all fun i => bits (f (40 + 8 * i) 8) 31 9 = 0) && ((List.range 8).all fun i => bits (f (72 + 4 * i) 4) 30 24 = 0) &&
  (d.fences.all fun x => match FKind.ofCode x.1, FScope.ofCode x.2 with
    | some k, some sc => fenceLegal k sc
    | _, _ => false) &&
  1 ≤ f 202 2 && f 202 2 ≤ 512 && (d.gang || (f 202 2 = 1 && d.residual = 0)) && f 216 4 ≤ 1024 &&
  d.spillBase < 2 ^ 52 && d.spillBase % 4096 = 0 && d.spillSize % 4096 = 0 && (d.spillSize != 0 || d.spillBase = 0)

/-- The bulk tags that an image's instructions name, on every stack (R214; log entry 42). -/
def imageTags (im : Image) : List (Nat × Nat) :=
  let tags := im.text.flatMap fun b =>
    match decodeBundle b.toNat with
    | .ok x => x.ops.filterMap fun o => match o.2 with
        | .mbulk _ g => some g.val
        | .mclose _ _ g => some g.val
        | _ => none
    | .error _ => []
  tags.eraseDups.flatMap fun g => (List.range 4).map fun st => (st, g)

/-! ### Enqueue (R255, R279, R307, R420) -/

/-- The place of a gang's descriptor among those its image carries: the first gang descriptor with its entry bundle. -/
def descPlace (im : Image) (d : LaunchDesc) : Nat :=
  ((im.launches.mapIdx fun i b => (i, parseLaunch [] b)).find? fun x => x.2.gang && x.2.entry = d.entry).elim 0 (·.1)

/-- The descriptor of a gang's member: its die's newest image of the context with a gang descriptor in that place (R420). -/
def memberDesc (s : State) (asid die place : Nat) : Option LaunchDesc :=
  match s.ctx die asid with
  | none => none
  | some c =>
    c.images.reverse.findSome? fun e =>
      (e.2.launches[place]?).bind fun b =>
        let d := parseLaunch (s.die die).dram b
        if d.gang && launchOk b d then some { d with image := e.1 } else none

/-- The combined pair table of a launch: each member's pair lines with the path latency to the peer (R279, R349). -/
def pairTable (s : State) (asid : Nat) (ms : List (Nat × Nat)) : Map (BitVec 128) :=
  ms.foldl (fun acc m =>
    let im := ((s.ctx m.1 asid).bind fun c => mget c.images m.2).getD {}
    im.pairs.foldl (fun k p => mset k (m.1 * 256 + p.1) (freshLat s m.1 p.2)) acc) []

/-- A channel has one user task on its die, so that a die's entries for a launch are at most 8 for each of its tasks there
(R279, R285; log entry 96). -/
def pairsFew (ms : List Nat) (d : Nat → LaunchDesc) (t : Map (BitVec 128)) : Bool :=
  ms.all fun m => decide ((t.filter fun e => e.1 / 256 = m && bits e.2.toNat 15 15 = 1).length ≤ 8 * (gridSize (d m) * (d m).teamSize))

/-- The pair checks of R279 and the zero fields of R349. -/
def pairsOk (ms : List Nat) (t : Map (BitVec 128)) : Bool :=
  t.all fun e =>
    let n := e.2.toNat
    let die := e.1 / 256
    let ch := e.1 % 256
    if bits n 15 15 = 0 then true
    else
      bits n 14 9 = 0 && bits n 31 24 = 0 && bits n 127 64 = 0 && ms.contains (pairPeer e.2) &&
      match mget t (pairPeer e.2 * 256 + ch) with
      | some q => bits q.toNat 15 15 = 1 && pairPeer q = die && pairBack q = pairBack e.2
      | none => false

/-- The launch that an enqueue command makes, or none when it breaks a limit. -/
def makeLaunch (s : State) (die asid : Nat) (c : Context) (queue level : Nat) (b : BitVec 2048) : Option Launch :=
  let d0 := parseLaunch (s.die die).dram b
  let d := { d0 with level, members := if d0.gang then d0.members else [die] }
  match mget c.images d.image with
  | none => none
  | some im =>
    if !launchOk b d0 || level > 7 then none
    else
      let place := descPlace im d
      let others := d.members.filter (· != die)
      let descs := others.map fun m => (memberDesc s asid m place).map fun x => (m, { x with level, members := d.members })
      match allSome descs with
      | none => none
      | some ds =>
        let ms := (d.members.map fun m => (m, (((ds.find? fun x => x.1 = m).map (·.2)).getD d).image))
        let pairs := pairTable s asid ms
        if d.members.eraseDups.length != d.members.length || !d.members.contains die || !(d.members.all fun m => inGroup s m) || !pairsOk d.members pairs ||
          !pairsFew d.members (fun m => ((ds.find? fun x => x.1 = m).map (·.2)).getD d) pairs then none
        else
          let tags := (ms.flatMap fun m => imageTags (((s.ctx m.1 asid).bind fun c => mget c.images m.2).getD {})).eraseDups
          let mdescs : Map LaunchDesc := if d.gang then (ds.foldl (fun k x => mset k x.1 x.2) (mset [] die d)) else []
          some { asid, die, queue, desc := d, mdescs, pairs, tags, segment := c.marks.length
                 pcounts := d.inputs.map fun h => (h, publishCount s die asid h) }

/-- Ebile records a command of a segment, with the producing segment of each of its outputs; a full log overwrites its oldest
records, whose segments are lost (R307, R308; log entry 60). -/
def recordCmd (asid : Nat) (c : Context) (e : LogEnt) : Context :=
  if e.seg = 0 then c
  else
    let keep (x : LogEnt) : Bool := decide (c.logOff < x.off + 1024 + Config.replayLog asid)
    { c with
      log := c.log.filter keep ++ [{ e with off := c.logOff }]
      logOff := c.logOff + 1
      lost := c.lost ++ (c.log.filter fun x => !keep x).map (·.seg)
      producers := e.desc.outputs.foldl (fun m h => mset m h e.seg) c.producers }

/-- ENQUEUE_LAUNCH: a descriptor is checked and its launch joins its queue; the launch id is written to the host (R255, R285,
R307, R437). -/
def execEnqueueLaunch (s : State) : Host.Outcome State Fault Refusal :=
  withCtx s fun die asid c =>
    let q := s.arg 8 1
    if q > 15 then ends s stUnknown
    else
      match makeLaunch s die asid c q (s.arg 9 1) (BitVec.ofNat 2048 (Mem.num (s.die die).dram (s.arg 0 8) 256)) with
      | none => ends s stLaunchInvalid
      | some x =>
        let waiting := (mget c.queues q).getD []
        if waiting.length ≥ 1024 then ends s stQueueFull
        else
          let id := s.nextLaunch
          let e : LogEnt := { seg := x.segment, desc := x.desc, queue := q, pcounts := x.pcounts, mdescs := x.mdescs, pairs := x.pairs, tags := x.tags }
          let s1 := { s with launches := mset s.launches id x, nextLaunch := id + 1 }
          let s2 := noteHeads (s1.modCtx die asid fun c => recordCmd asid { c with queues := mset c.queues q (waiting ++ [id]) } e) die
          ends ((kickScheduler s2 die).postHost (s.arg 16 8) (bytesOf id 4)) stOk

/-- SEGMENT_MARK: the commands enqueued from here to the next mark form a segment (R307). -/
def execSegmentMark (s : State) : Host.Outcome State Fault Refusal :=
  withCtx s fun die asid _ => ends (s.modCtx die asid fun c => { c with marks := c.marks ++ [s.arg 0 8] }) stOk

end Sys2Proof.Machine
end

