-- ==== Sys2Proof/Machine/Admin.lean ====
section
/-! DEFINITION. Host commands on launches, records, keys, ports and links (R217, R252, R253, R314, R333, R351, R365, R383, R439,
R441, R443), patch images (R440), junction sensors (R443), power-on and the resets (R442, R445). -/

namespace Sys2Proof.Machine

/-! ### Launches (R314, R383, R392, R439) -/

/-- A gang proposal of a kind: BUSY under R383 (R383, R392, R451). -/
def proposeCommand (kind : Nat) (s : State) : Host.Outcome State Fault Refusal :=
  withCtx s fun _ asid _ =>
    let id := s.arg 0 4
    match s.launch id with
    | none => ends s stUnknown
    | some x =>
      if x.asid != asid || !x.desc.gang || !x.phase.live || zeroCount x.desc then ends s stUnknown
      else if proposalBusy x kind then ends s stBusy
      else ends (propose s id kind 0 (s.arg 8 8) (s.arg 16 8)) stOk

/-- GANG_PROPOSAL_LAUNCH (R383). -/
def execGangProposalLaunch (s : State) : Host.Outcome State Fault Refusal := proposeCommand 0 s
/-- GANG_PROPOSAL_PREEMPTION (R383). -/
def execGangProposalPreemption (s : State) : Host.Outcome State Fault Refusal := proposeCommand 1 s
/-- GANG_PROPOSAL_RESUME (R306, R392). -/
def execGangProposalResume (s : State) : Host.Outcome State Fault Refusal := proposeCommand 2 s

/-- The held task that a fault resolve names: LAUNCH_INVALID and NOT_FOUND as R451 says. -/
def withHeld (s : State) (f : Loc → Task → Host.Outcome State Fault Refusal) : Host.Outcome State Fault Refusal :=
  withCtx s fun die asid _ =>
    let id := s.arg 0 4
    match s.launch id with
    | none => ends s stLaunchInvalid
    | some x =>
      if x.asid != asid then ends s stLaunchInvalid
      else
        let l : Loc := { die, core := s.arg 4 1 }
        match s.task l with
        | some t => if t.launch = id && t.phase = .held then f l t else ends s stNotFound
        | none => ends s stNotFound

/-- FAULT_RESOLVE_RESUME: the held task goes on from its checkpoint (R314, R448). -/
def execFaultResolveResume (s : State) : Host.Outcome State Fault Refusal :=
  withHeld s fun l _ => ends (resumeAt s l (s.now + 1)) stOk

/-- FAULT_RESOLVE_END: the held task ends with its fault's code (R314, R361). -/
def execFaultResolveEnd (s : State) : Host.Outcome State Fault Refusal :=
  withHeld s fun l t =>
    let code := bits t.ctl.trapc.toNat 47 32
    let s1 := s.modTask l fun t => { t with phase := .ended }
    let s2 := s1.modLaunch t.launch fun x => { x with fault := firstFault x.fault (s.gcc l t, l.die, l.core, code) }
    ends (s2.postUnit (s2.now + 1) rkSwap (.faultPropagation t.launch)) stOk

/-- CANCEL_LAUNCH: a launch still to finish ends as cancelled; RESULT says whether one was ended (R439, R449). -/
def execCancelLaunch (s : State) : Host.Outcome State Fault Refusal :=
  withCtx s fun _ asid _ =>
    let id := s.arg 0 4
    match s.launch id with
    | none => ends s stLaunchInvalid
    | some x =>
      if x.asid != asid then ends s stLaunchInvalid
      else if x.phase.live then .next (reply (dropStuck (endLaunch s id 0x107) id) stOk 1)
      else ends s stOk

/-! ### Records, health, attestation (R252 to R254, R365, R382, R441, R443) -/

/-- Error records that waited enter the queue, as far as it has room (R252). -/
def admitWaiting (d : Die) : Die :=
  let n := 256 - d.erecs.length
  { d with erecs := d.erecs ++ d.ewait.take n, ewait := d.ewait.drop n }

/-- RECORD_READ: up to 32 records, oldest first, go to a host buffer; NO_RECORD when the queue is empty (R252, R436). -/
def execRecordRead (s : State) : Host.Outcome State Fault Refusal :=
  withDie s fun die =>
    let n := s.arg 9 1
    let d := s.die die
    if n = 0 || n > 32 || s.arg 8 1 > 1 then ends s stUnknown
    else if s.arg 8 1 = 0 then
      let l := d.lrecs.take n
      if l.isEmpty then ends s stNoRecord
      else .next (reply ((s.modDie die fun d => { d with lrecs := d.lrecs.drop n }).postHost (s.arg 0 8)
        (l.flatMap fun r => bytesOf r.toNat 128)) stOk l.length)
    else
      let l := d.erecs.take n
      if l.isEmpty then ends s stNoRecord
      else
        let s1 := s.modDie die fun d => admitWaiting { d with erecs := d.erecs.drop n }
        .next (reply ((kickScheduler s1 die).postHost (s.arg 0 8) (l.flatMap fun r => bytesOf r.toNat 64)) stOk l.length)

/-- The power status word (R443). -/
def powerStatus (h : HostIf) : Nat := h.peak + bit h.warm * 2 ^ 8 + bit h.hot * 2 ^ 9 + bit h.trip * 2 ^ 10

/-- HEALTH: the health register, the power status word, and the times of the last 1PPS in edge (R365, R382, R437, R443). -/
def execHealth (s : State) : Host.Outcome State Fault Refusal :=
  withDie s fun die =>
    let d := s.die die
    let p := d.rooster.pps.getD (0, 0)
    ends (s.postHost (s.arg 0 8) (bytesOf d.health.toNat 8 ++ bytesOf (powerStatus s.host) 8 ++ bytesOf p.1 8 ++ bytesOf p.2 8)) stOk

/-- Digests of the images a module has loaded, die by die and context by context. -/
def imageDigests (s : State) : List (BitVec 256) :=
  s.dies.flatMap fun d => d.2.ctxs.flatMap fun c => c.2.images.map fun i => i.2.digest

/-- ATTEST: the fuse counter advances, then the report with its signature is released; KEYS_SPENT at leaf 1,024 (R441). -/
def execAttest (s : State) : Host.Outcome State Fault Refusal :=
  let q := s.host.fuseQ
  if q ≥ 1024 then ends s stKeysSpent
  else
    let body := bytesOf (s.arg 0 32) 32 ++ bytesOf Config.romDigest.toNat 32 ++ bytesOf ((s.host.patch.map (·.toNat)).getD 0) 32 ++
      (imageDigests s).flatMap (fun x => bytesOf x.toNat 32) ++ bytesOf (s.die s.cDie).health.toNat 8 ++ bytesOf q 4
    let sig := Config.attestSign q (Config.digest body)
    let s1 := { s with host := { s.host with fuseQ := q + 1 } }
    ends (s1.postHost (s.arg 32 8) (body ++ bytesOf sig.toNat 1452)) stOk

/-! ### Keys, endpoints, links, the CXL port (R217, R333, R351, R438) -/

/-- Die B of a die's module, whose far ports the keys and endpoints belong to. -/
def dieBOf (die : Nat) : Nat := if isDieB die then die else sibling die

/-- KEY_INSTALL: a key block is loaded into die B's cipher engine and zeroed (R351, R438). -/
def execKeyInstall (s : State) : Host.Outcome State Fault Refusal :=
  withDie s fun die =>
    let a := s.arg 0 8
    let b := Mem.num (s.die die).dram a 64
    let port := bits b 7 0
    let ep := bits b 15 8
    let dir := bits b 23 16
    let an := bits b 31 24
    if port > 1 || ep > 7 || dir > 1 || an > 3 || bits b 255 160 != 0 then ends s stUnknown
    else
      let s1 := s.modEndpoint (dieBOf die) (epKey port ep) fun e => { e with keys := mset e.keys (dir * 4 + an) (BitVec.ofNat 512 b) }
      ends (s1.modDie die fun d => { d with dram := Mem.clear d.dram a 64 }) stOk

/-- ENDPOINT_WRITE: a far endpoint's addresses; its retry state starts afresh, its keys stay (R351, R437). -/
def execEndpointWrite (s : State) : Host.Outcome State Fault Refusal :=
  withDie s fun die =>
    if s.arg 0 1 > 1 || s.arg 1 1 > 7 then ends s stUnknown
    else ends (s.modEndpoint (dieBOf die) (epKey (s.arg 0 1) (s.arg 1 1)) fun e =>
      { valid := true, mac := BitVec.ofNat 48 (s.arg 8 6), peer := BitVec.ofNat 64 (s.arg 16 8), own := BitVec.ofNat 64 (s.arg 24 8)
        keys := e.keys }) stOk

/-- ENDPOINT_INVALIDATE (R437). -/
def execEndpointInvalidate (s : State) : Host.Outcome State Fault Refusal :=
  withDie s fun die =>
    if s.arg 0 1 > 1 || s.arg 1 1 > 7 then ends s stUnknown
    else ends (s.modEndpoint (dieBOf die) (epKey (s.arg 0 1) (s.arg 1 1)) fun e => { e with valid := false }) stOk

/-- LINK_RETRAIN: the link leaves its state for TRAINING, timed regions whose spans use it meet the link-loss fault, and its
training measures a latency (R333, R347). -/
def execLinkRetrain (s : State) : Host.Outcome State Fault Refusal :=
  withDie s fun die =>
    let k := s.arg 0 1
    if k > 5 then ends s stUnknown
    else
      let users := linkUsers s die k
      let p := neighbour s die k
      let s1 := modLink (cutLink (cutLink s die k) p (farLink k)) die k fun _ far x => { x with state := 1, peer := far }
      let s2 := forgetLink (forgetLink ((s1.modDie die linkHealth).modDie p linkHealth) die k) p (farLink k)
      let s3 := users.foldl linkLoss s2
      let (n, s4) := s3.nextFree
      let (m, s5) := s4.nextFree
      ends (s5.postUnit (s5.now + 1 + n % 2 ^ 24) rkArrive (.linkTraining die k (16 + m % 4080))) stOk

/-- LINK_TAKE_DOWN (R333, R347). -/
def execLinkTakeDown (s : State) : Host.Outcome State Fault Refusal :=
  withDie s fun die =>
    if s.arg 0 1 > 5 then ends s stUnknown
    else ends (s.postUnit s.now rkArrive (.linkDown die (s.arg 0 1))) stOk

/-- A record of a CXL configuration block, or none when it breaks the layout (R438). -/
def cxlRecord (n : Nat) : Option (Option (Nat × Nat)) :=
  let base := bits n 127 64
  let size := bits n 191 128
  if bits n 7 0 > 3 || bits n 15 8 > 1 || bits n 63 16 != 0 || bits n 255 192 != 0 || base ≥ 2 ^ 48 || base % 2 ^ 28 != 0 || size % 2 ^ 28 != 0 then none
  else some (if bits n 15 8 = 1 then some (base, size) else none)

/-- CXL_CONFIGURATION: the port is enumerated and one decoder is programmed for each device that answers; RESULT counts them.
A port has up to 16 TiB (R217, R437, R438). -/
def execCxlConfiguration (s : State) : Host.Outcome State Fault Refusal :=
  withDie s fun die =>
    let len := s.arg 8 8
    if len > 128 || len % 32 != 0 then ends s stUnknown
    else
      match allSome ((List.range (len / 32)).map fun i => cxlRecord (Mem.num (s.die die).dram (s.arg 0 8 + 32 * i) 32)) with
      | none => ends s stUnknown
      | some l =>
        let ask := l.filterMap id
        if (ask.map (·.2)).sum > 2 ^ 44 then ends s stUnknown
        else
        let (r, s1) := ask.foldl (fun (acc : List (Nat × Nat) × State) x =>
          let (n, st) := acc.2.nextFree
          (if n % 2 = 1 then acc.1 ++ [x] else acc.1, st)) ([], s)
        .next (reply (s1.modDie die fun d => { d with cxlDevs := r }) stOk r.length)

/-! ### Patch images (R440) -/

/-- PATCH_IMAGE_LOAD: an image whose digest and signature check is installed; any other is refused with SIGNATURE. -/
def execPatchImageLoad (digestOk sigOk : Bool) (digest : BitVec 256) (s : State) : Host.Outcome State Fault Refusal :=
  .next (if digestOk && sigOk then { s with host := { s.host with patch := some digest, patchStatus := stOk } }
         else { s with host := { s.host with patchStatus := stSignature } })

/-! ### Junction sensors (R443) -/

/-- The peak junction temperature takes a reading, from 0 to 255. -/
def notePeak (s : State) (temp : Int) : State :=
  { s with host := { s.host with peak := Nat.max s.host.peak (Nat.min temp.toNat 255) } }

/-- JUNCTION_WARM (R443, R444). -/
def execJunctionWarm (die : Nat) (temp : Int) (s : State) : Host.Outcome State Fault Refusal :=
  if !(s.die die).started then .next s
  else .next (({ notePeak s temp with host := { (notePeak s temp).host with warm := true } }).hostEvent 2)

/-- JUNCTION_HOT: no new team is dispatched on the die (R443, R444). -/
def execJunctionHot (die : Nat) (temp : Int) (s : State) : Host.Outcome State Fault Refusal :=
  if !(s.die die).started then .next s
  else
    let s1 := notePeak s temp
    .next (({ s1 with host := { s1.host with hot := true } }.modDie die fun d => { d with hot := true }).hostEvent 2)

/-- JUNCTION_COOL: dispatch resumes (R443). -/
def execJunctionCool (die : Nat) (temp : Int) (s : State) : Host.Outcome State Fault Refusal :=
  if !(s.die die).started then .next s
  else .next (kickScheduler ((notePeak s temp).modDie die fun d => { d with hot := false }) die)

/-! ### Power-on and resets (R442, R445) -/

/-- A die's offset from die A's start (R442). -/
def startOf (die : Nat) : Nat := if isDieB die then 2048 else 0

/-- A die whose units have just been reset. What main memory held stays; the health register and what it counts stay when
asked (R203, R365, R445). -/
def resetDie (s : State) (keep : Bool) (die : Nat) (d : Die) : Die :=
  let off : Int := -((s.now + startOf die : Nat) : Int)
  let d0 : Die := { Die.initial with lcc := off, grp := off }
  if keep then { d0 with dram := d.dram, poison := d.poison, mflips := d.mflips, health := d.health, absent := d.absent, spares := d.spares
                         retiredPc := d.retiredPc, pcErr := d.pcErr, coreErr := d.coreErr, toRetire := d.toRetire }
  else d0

/-- The machine with every unit of its dies reset; nothing is pending. -/
def resetAll (s : State) (keep : Bool) : State :=
  { s with calendar := [], formed := false, launches := [], nextLaunch := 1
           dies := s.dies.map fun (d : Nat × Die) => (d.1, resetDie s keep d.1 d.2)
           host := { fuseQ := s.host.fuseQ, trip := s.host.trip, posted := s.host.posted, events := s.host.events, readyAt := s.now + 26624 } }

/-- JUNCTION_TRIP: power is removed, every context is lost, and TRIP stays set (R443). -/
def execJunctionTrip (die : Nat) (temp : Int) (s : State) : Host.Outcome State Fault Refusal :=
  if !(s.die die).started then .next s
  else
    let s1 := resetAll (notePeak s temp) false
    .next { s1 with powered := false, host := { s1.host with trip := true } }

/-- POWER_ON: the units of the module start in their order, links train and the group forms; Ebile pops entries once die B's
cluster 7 has started (R202, R288, R371, R372, R442). -/
def execPowerOn (s : State) : Host.Outcome State Fault Refusal :=
  let off (die : Nat) : Int := -((s.now + startOf die : Nat) : Int)
  let s1 : State := { s with
    powered := true
    host := { s.host with readyAt := s.now + 26624 }
    dies := s.dies.map fun (d : Nat × Die) => (d.1, { d.2 with started := true, lcc := off d.1, grp := off d.1 }) }
  let s2 := s1.dies.foldl (fun (st : State) d =>
    let at_ := st.now + startOf d.1
    (((st.postDie d.1 (at_ + 16128) 0 .refreshWindow).postDie d.1 (at_ + 64) rkRead .scrubStep).postDie d.1 (at_ + 4096) rkBeacon .beaconSend).postDie
      d.1 (at_ + 65536) rkCount .placementPass) s1
  let (n, s3) := s2.nextFree
  let (m, s4) := s3.nextFree
  .next ((s4.postUnit (s.now + 26624 + n % 2 ^ 20) rkArrive (.linkTraining 0 0 (16 + m % 4080))).postUnit (s.now + 26624 + 2 ^ 20) rkArrive
    (.groupFormation s.ext.1 s.ext.2.1 s.ext.2.2))

/-- A host command, or a doorbell that waits: what a function-level reset forgets. -/
def hostPending : Instr → Bool
  | .hostDoorbell _ | .undefinedCommand | .contextCreate | .contextDestroy | .contextParameters | .map | .unmap | .protect | .pin | .unpin
  | .migrate | .apertureWrite | .apertureGrant | .shadowMapWrite | .shadowMapInvalidate | .handle | .drop | .imageLoad | .timetableLoad
  | .timetableFree | .counterAllocate | .counterFree | .enqueueLaunch | .gangProposalLaunch | .gangProposalPreemption
  | .gangProposalResume | .segmentMark | .faultResolveResume | .faultResolveEnd | .cancelLaunch | .recordRead | .health | .keyInstall
  | .endpointWrite | .endpointInvalidate | .linkRetrain | .linkTakeDown | .cxlConfiguration | .attest => true
  | _ => false

/-- FUNCTION_LEVEL_RESET: the ring is forgotten and the record queues emptied at once; every context of both dies is destroyed,
and Ebile is ready again within 100 ms (R439, R445). -/
def execFunctionLevelReset (s : State) : Host.Outcome State Fault Refusal :=
  let s1 : State := { s with
    calendar := s.calendar.filter fun e => !hostPending e.what
    host := { s.host with rbase := 0, rsize := 6, head := 0, tail := 0, locked := false, busy := false, cmd := 0, readyAt := s.now + 360000000 }
    dies := s.dies.map fun (d : Nat × Die) => (d.1, { d.2 with lrecs := [], erecs := [], ewait := [] }) }
  let all := s1.dies.flatMap fun d => d.2.ctxs.map fun c => (d.1, c.1)
  let s2 := all.foldl (fun (st : State) c => cancelAll st c.1 c.2) s1
  if all.any fun c => ctxBusy s2 c.1 c.2 then .next (s2.postUnit (s2.now + 1) rkCount .functionLevelReset)
  else
    let s3 := all.foldl (fun (st : State) c => freeContext st c.1 c.2 ((st.ctx c.1 c.2).getD {})) s2
    .next { s3 with host := { s3.host with readyAt := s3.now + 1 }
                    dies := s3.dies.map fun (d : Nat × Die) => (d.1, { d.2 with lrecs := [], erecs := [], ewait := [] }) }

/-- CONVENTIONAL_RESET: every unit of both dies is reset and the power-on sequence runs from its first step; main memory, the
fuses, TRIP and the health state survive (R203, R445). -/
def execConventionalReset (s : State) : Host.Outcome State Fault Refusal :=
  if !s.powered then .next s else .next ((resetAll s true).postUnit s.now 0 .powerOn)

end Sys2Proof.Machine
end

