-- ==== Sys2Proof/Machine/Dispatch.lean ====
section
/-! DEFINITION. One arm per instruction: a direct call of its meaning, or its rejection by name. -/

namespace Sys2Proof.Machine

def exec (i : Instr) (s : State) : Host.Outcome State Fault Refusal :=
  match i with
  | .resultLanding l r => Sys2Proof.Machine.execResultLanding l r s
  | .accessPerform a => Sys2Proof.Machine.execAccessPerform a s
  | .add p d a b => Sys2Proof.Machine.execAdd p d a b s
  | .sub p d a b => Sys2Proof.Machine.execSub p d a b s
  | .and p d a b => Sys2Proof.Machine.execAnd p d a b s
  | .or p d a b => Sys2Proof.Machine.execOr p d a b s
  | .xor p d a b => Sys2Proof.Machine.execXor p d a b s
  | .andn p d a b => Sys2Proof.Machine.execAndn p d a b s
  | .shl p d a b => Sys2Proof.Machine.execShl p d a b s
  | .shr p d a b => Sys2Proof.Machine.execShr p d a b s
  | .sar p d a b => Sys2Proof.Machine.execSar p d a b s
  | .min p d a b => Sys2Proof.Machine.execMin p d a b s
  | .max p d a b => Sys2Proof.Machine.execMax p d a b s
  | .minu p d a b => Sys2Proof.Machine.execMinu p d a b s
  | .maxu p d a b => Sys2Proof.Machine.execMaxu p d a b s
  | .mul p d a b => Sys2Proof.Machine.execMul p d a b s
  | .mulh p d a b => Sys2Proof.Machine.execMulh p d a b s
  | .mulhu p d a b => Sys2Proof.Machine.execMulhu p d a b s
  | .clz p d a => Sys2Proof.Machine.execClz p d a s
  | .ctz p d a => Sys2Proof.Machine.execCtz p d a s
  | .popc p d a => Sys2Proof.Machine.execPopc p d a s
  | .sext p d a w => Sys2Proof.Machine.execSext p d a w s
  | .zext p d a w => Sys2Proof.Machine.execZext p d a w s
  | .addsh1 p d a b => Sys2Proof.Machine.execAddsh1 p d a b s
  | .addsh2 p d a b => Sys2Proof.Machine.execAddsh2 p d a b s
  | .addsh3 p d a b => Sys2Proof.Machine.execAddsh3 p d a b s
  | .addsh4 p d a b => Sys2Proof.Machine.execAddsh4 p d a b s
  | .addi p d a imm => Sys2Proof.Machine.execAddi p d a imm s
  | .andi p d a imm => Sys2Proof.Machine.execAndi p d a imm s
  | .ori p d a imm => Sys2Proof.Machine.execOri p d a imm s
  | .xori p d a imm => Sys2Proof.Machine.execXori p d a imm s
  | .shli p d a sh => Sys2Proof.Machine.execShli p d a sh s
  | .shri p d a sh => Sys2Proof.Machine.execShri p d a sh s
  | .sari p d a sh => Sys2Proof.Machine.execSari p d a sh s
  | .li p d imm => Sys2Proof.Machine.execLi p d imm s
  | .lch p d h imm => Sys2Proof.Machine.execLch p d h imm s
  | .cmp p q a b cc => Sys2Proof.Machine.execCmp p q a b cc s
  | .cmpi p q a cc imm => Sys2Proof.Machine.execCmpi p q a cc imm s
  | .pand p q a b => Sys2Proof.Machine.execPand p q a b s
  | .por p q a b => Sys2Proof.Machine.execPor p q a b s
  | .pxor p q a b => Sys2Proof.Machine.execPxor p q a b s
  | .pnot p q a => Sys2Proof.Machine.execPnot p q a s
  | .br p off => Sys2Proof.Machine.execBr p off s
  | .brp p ps off => Sys2Proof.Machine.execBrp p ps off s
  | .jmp p a => Sys2Proof.Machine.execJmp p a s
  | .call p off => Sys2Proof.Machine.execCall p off s
  | .ret p => Sys2Proof.Machine.execRet p s
  | .exit p => Sys2Proof.Machine.execExit p s
  | .trap p code => Sys2Proof.Machine.execTrap p code s
  | .yield p => Sys2Proof.Machine.execYield p s
  | .loop p lv xc xs stride => Sys2Proof.Machine.execLoop p lv xc xs stride s
  | .loopi p lv count stride => Sys2Proof.Machine.execLoopi p lv count stride s
  | .ntreq p vd => Sys2Proof.Machine.execNtreq p vd s
  | .wfe p ev => Sys2Proof.Machine.execWfe p ev s
  | .sev p ev a => Sys2Proof.Machine.execSev p ev a s
  | .bar p b => Sys2Proof.Machine.execBar p b s
  | .align p a => Sys2Proof.Machine.execAlign p a s
  | .tenter p a => Sys2Proof.Machine.execTenter p a s
  | .texit p => Sys2Proof.Machine.execTexit p s
  | .rdc p d creg => Sys2Proof.Machine.execRdc p d creg s
  | .wrc p creg a => Sys2Proof.Machine.execWrc p creg a s
  | .stqp p d => Sys2Proof.Machine.execStqp p d s
  | .lds p d a imm => Sys2Proof.Machine.execLds p d a imm s
  | .sts p sr a imm => Sys2Proof.Machine.execSts p sr a imm s
  | .xsv vd xa => Sys2Proof.Machine.execXsv vd xa s
  | .xvs xd va => Sys2Proof.Machine.execXvs xd va s
  | .xpv md pa => Sys2Proof.Machine.execXpv md pa s
  | .xvp pd ma => Sys2Proof.Machine.execXvp pd ma s
  | .vadd h t d a b => Sys2Proof.Machine.execVadd h t d a b s
  | .vsub h t d a b => Sys2Proof.Machine.execVsub h t d a b s
  | .vmul h t d a b => Sys2Proof.Machine.execVmul h t d a b s
  | .vfma h t d a b c => Sys2Proof.Machine.execVfma h t d a b c s
  | .vfms h t d a b c => Sys2Proof.Machine.execVfms h t d a b c s
  | .vfnma h t d a b c => Sys2Proof.Machine.execVfnma h t d a b c s
  | .vmin h t d a b => Sys2Proof.Machine.execVmin h t d a b s
  | .vmax h t d a b => Sys2Proof.Machine.execVmax h t d a b s
  | .vabs h t d a => Sys2Proof.Machine.execVabs h t d a s
  | .vneg h t d a => Sys2Proof.Machine.execVneg h t d a s
  | .vcps h t d a b => Sys2Proof.Machine.execVcps h t d a b s
  | .vrcp h t d a => Sys2Proof.Machine.execVrcp h t d a s
  | .vrsq h t d a => Sys2Proof.Machine.execVrsq h t d a s
  | .vsqrt h t d a => Sys2Proof.Machine.execVsqrt h t d a s
  | .vexp2 h t d a => Sys2Proof.Machine.execVexp2 h t d a s
  | .vlog2 h t d a => Sys2Proof.Machine.execVlog2 h t d a s
  | .vtanh h t d a => Sys2Proof.Machine.execVtanh h t d a s
  | .viadd h w d a b => Sys2Proof.Machine.execViadd h w d a b s
  | .visub h w d a b => Sys2Proof.Machine.execVisub h w d a b s
  | .vimul h w d a b => Sys2Proof.Machine.execVimul h w d a b s
  | .vimad h w d a b c => Sys2Proof.Machine.execVimad h w d a b c s
  | .vimin h w u d a b => Sys2Proof.Machine.execVimin h w u d a b s
  | .vimax h w u d a b => Sys2Proof.Machine.execVimax h w u d a b s
  | .vand h d a b => Sys2Proof.Machine.execVand h d a b s
  | .vor h d a b => Sys2Proof.Machine.execVor h d a b s
  | .vxor h d a b => Sys2Proof.Machine.execVxor h d a b s
  | .vshl h w d a b => Sys2Proof.Machine.execVshl h w d a b s
  | .vshr h w d a b => Sys2Proof.Machine.execVshr h w d a b s
  | .vsar h w d a b => Sys2Proof.Machine.execVsar h w d a b s
  | .vcmp h t cc md a b => Sys2Proof.Machine.execVcmp h t cc md a b s
  | .vsel h d a b mc => Sys2Proof.Machine.execVsel h d a b mc s
  | .vmov h d a => Sys2Proof.Machine.execVmov h d a s
  | .vsplat h w d a lane => Sys2Proof.Machine.execVsplat h w d a lane s
  | .vli h k d imm => Sys2Proof.Machine.execVli h k d imm s
  | .viota h w d => Sys2Proof.Machine.execViota h w d s
  | .vperm h w d a b => Sys2Proof.Machine.execVperm h w d a b s
  | .vrot h w d a n => Sys2Proof.Machine.execVrot h w d a n s
  | .vpack h w u d a b => Sys2Proof.Machine.execVpack h w u d a b s
  | .vunpk h w u d a => Sys2Proof.Machine.execVunpk h w u d a s
  | .vcvt h d a src dst rm => Sys2Proof.Machine.execVcvt h d a src dst rm s
  | .vscl h t d a sr => Sys2Proof.Machine.execVscl h t d a sr s
  | .vred h t op d a => Sys2Proof.Machine.execVred h t op d a s
  | .vscan h t op d a => Sys2Proof.Machine.execVscan h t op d a s
  | .part h d a n => Sys2Proof.Machine.execPart h d a n s
  | .vrng h d a b w => Sys2Proof.Machine.execVrng h d a b w s
  | .vdrop h t d a key theta => Sys2Proof.Machine.execVdrop h t d a key theta s
  | .mand h d a b => Sys2Proof.Machine.execMand h d a b s
  | .mor h d a b => Sys2Proof.Machine.execMor h d a b s
  | .mnot h d a => Sys2Proof.Machine.execMnot h d a s
  | .mcnt h d a => Sys2Proof.Machine.execMcnt h d a s
  | .mwldN p k a => Sys2Proof.Machine.execMwldN p k a s
  | .mwldW p k a => Sys2Proof.Machine.execMwldW p k a s
  | .mafmt p f => Sys2Proof.Machine.execMafmt p f s
  | .mbeat p a set cb src => Sys2Proof.Machine.execMbeat p a set cb src s
  | .mbeatt p a set cb src => Sys2Proof.Machine.execMbeatt p a set cb src s
  | .mbeat2 p a set cb src => Sys2Proof.Machine.execMbeat2 p a set cb src s
  | .mdrn p a q f rm => Sys2Proof.Machine.execMdrn p a q f rm s
  | .mclr p a n => Sys2Proof.Machine.execMclr p a n s
  | .mgbeat p a b => Sys2Proof.Machine.execMgbeat p a b s
  | .mgdrn p row q => Sys2Proof.Machine.execMgdrn p row q s
  | .mgclr p => Sys2Proof.Machine.execMgclr p s
  | .aRowArrival l row f => Sys2Proof.Machine.execARowArrival l row f s
  | .ldv h d xa off pi => Sys2Proof.Machine.execLdv h d xa off pi s
  | .stv h sr xa off pi => Sys2Proof.Machine.execStv h sr xa off pi s
  | .ldvs h w d xa xs off pi => Sys2Proof.Machine.execLdvs h w d xa xs off pi s
  | .stvs h w sr xa xs off pi => Sys2Proof.Machine.execStvs h w sr xa xs off pi s
  | .gath h w d xa vi => Sys2Proof.Machine.execGath h w d xa vi s
  | .scat h w sr xa vi => Sys2Proof.Machine.execScat h w sr xa vi s
  | .scata h sr xa vi => Sys2Proof.Machine.execScata h sr xa vi s
  | .atomv h op r xa vi => Sys2Proof.Machine.execAtomv h op r xa vi s
  | .ldb h d xa off pi => Sys2Proof.Machine.execLdb h d xa off pi s
  | .ldg h g xa off pi => Sys2Proof.Machine.execLdg h g xa off pi s
  | .stg h g xa off pi => Sys2Proof.Machine.execStg h g xa off pi s
  | .sbind h z xa off => Sys2Proof.Machine.execSbind h z xa off s
  | .sunb h z => Sys2Proof.Machine.execSunb h z s
  | .qpop h d q => Sys2Proof.Machine.execQpop h d q s
  | .qst h q xa off pi => Sys2Proof.Machine.execQst h q xa off pi s
  | .streamFetch l z => Sys2Proof.Machine.execStreamFetch l z s
  | .muleStreamTransfer l z => Sys2Proof.Machine.execMuleStreamTransfer l z s
  | .fsend p dk xa xr cnt stamp => Sys2Proof.Machine.execFsend p dk xa xr cnt stamp s
  | .fsenda p dk xa xr cnt stamp => Sys2Proof.Machine.execFsenda p dk xa xr cnt stamp s
  | .fsendq p dk q xr cnt stamp => Sys2Proof.Machine.execFsendq p dk q xr cnt stamp s
  | .frecv p xa cnt => Sys2Proof.Machine.execFrecv p xa cnt s
  | .fld p vd xa => Sys2Proof.Machine.execFld p vd xa s
  | .fst p vs xa => Sys2Proof.Machine.execFst p vs xa s
  | .fatom p op vr xa => Sys2Proof.Machine.execFatom p op vr xa s
  | .mcpy h => Sys2Proof.Machine.execMcpy h s
  | .mbulk h tag => Sys2Proof.Machine.execMbulk h tag s
  | .mclose p st tag => Sys2Proof.Machine.execMclose p st tag s
  | .publ p xa => Sys2Proof.Machine.execPubl p xa s
  | .ttgo p xa stamp => Sys2Proof.Machine.execTtgo p xa stamp s
  | .upd h xv => Sys2Proof.Machine.execUpd h xv s
  | .norm h => Sys2Proof.Machine.execNorm h s
  | .fars h port => Sys2Proof.Machine.execFars h port s
  | .farr h port => Sys2Proof.Machine.execFarr h port s
  | .cwait p cc xv => Sys2Proof.Machine.execCwait p cc xv s
  | .cinc p cc imm => Sys2Proof.Machine.execCinc p cc imm s
  | .fence p kind scope => Sys2Proof.Machine.execFence p kind scope s
  | .psend p ch vr g stamp => Sys2Proof.Machine.execPsend p ch vr g stamp s
  | .precv p ch vr g => Sys2Proof.Machine.execPrecv p ch vr g s
  | .rpush p va g => Sys2Proof.Machine.execRpush p va g s
  | .rpop p vd g => Sys2Proof.Machine.execRpop p vd g s
  | .rspill p n => Sys2Proof.Machine.execRspill p n s
  | .rfill p n => Sys2Proof.Machine.execRfill p n s
  | .rdrop p n => Sys2Proof.Machine.execRdrop p n s
  | .blkBegin p n => Sys2Proof.Machine.execBlkBegin p n s
  | .blkEnd p n => Sys2Proof.Machine.execBlkEnd p n s
  | .blkRev p n => Sys2Proof.Machine.execBlkRev p n s
  | .eventFlagSet t ix ev => Sys2Proof.Machine.execEventFlagSet t ix ev s
  | .barrierComplete t b => Sys2Proof.Machine.execBarrierComplete t b s
  | .cincApply die cc n => Sys2Proof.Machine.execCincApply die cc n s
  | .muleCommandComplete die id => Sys2Proof.Machine.execMuleCommandComplete die id s
  | .zeroCountCompletion die id => Sys2Proof.Machine.execZeroCountCompletion die id s
  | .mbulkBlock die id k => Sys2Proof.Machine.execMbulkBlock die id k s
  | .mcloseRelease die stack tag => Sys2Proof.Machine.execMcloseRelease die stack tag s
  | .segmentTransferComplete l seg => Sys2Proof.Machine.execSegmentTransferComplete l seg s
  | .cxlFrameMove l frame toCxl => Sys2Proof.Machine.execCxlFrameMove l frame toCxl s
  | .fabricDeparture t => Sys2Proof.Machine.execFabricDeparture t s
  | .routerForward die link t => Sys2Proof.Machine.execRouterForward die link t s
  | .fabricWordArrival w => Sys2Proof.Machine.execFabricWordArrival w s
  | .countedFlitArrival c intact => Sys2Proof.Machine.execCountedFlitArrival c intact s
  | .pairedVectorArrival v => Sys2Proof.Machine.execPairedVectorArrival v s
  | .apertureRequest r => Sys2Proof.Machine.execApertureRequest r s
  | .killNotice die asid launch => Sys2Proof.Machine.execKillNotice die asid launch s
  | .linkTraining die link lat => Sys2Proof.Machine.execLinkTraining die link lat s
  | .linkDegrade die link lat => Sys2Proof.Machine.execLinkDegrade die link lat s
  | .linkDown die link => Sys2Proof.Machine.execLinkDown die link s
  | .relaunch launch => Sys2Proof.Machine.execRelaunch launch s
  | .faultPropagation launch => Sys2Proof.Machine.execFaultPropagation launch s
  | .beaconArrival die link b => Sys2Proof.Machine.execBeaconArrival die link b s
  | .groupFormation x y z => Sys2Proof.Machine.execGroupFormation x y z s
  | .mapRecordReceive die r => Sys2Proof.Machine.execMapRecordReceive die r s
  | .ptpSyncReceive die m => Sys2Proof.Machine.execPtpSyncReceive die m s
  | .readinessSend die gid => Sys2Proof.Machine.execReadinessSend die gid s
  | .readinessReceive die gid member bits free => Sys2Proof.Machine.execReadinessReceive die gid member bits free s
  | .gangDecision die gid => Sys2Proof.Machine.execGangDecision die gid s
  | .abortReceive die gid => Sys2Proof.Machine.execAbortReceive die gid s
  | .gangStart die gid => Sys2Proof.Machine.execGangStart die gid s
  | .gangRetry gid => Sys2Proof.Machine.execGangRetry gid s
  | .crossGroupPrepare gid t => Sys2Proof.Machine.execCrossGroupPrepare gid t s
  | .crossGroupDecision gid => Sys2Proof.Machine.execCrossGroupDecision gid s
  | .commitDeadline gid => Sys2Proof.Machine.execCommitDeadline gid s
  | .drainHorizon die gid => Sys2Proof.Machine.execDrainHorizon die gid s
  | .drainDeadline t => Sys2Proof.Machine.execDrainDeadline t s
  | .clusterStart t => Sys2Proof.Machine.execClusterStart t s
  | .teamResume t => Sys2Proof.Machine.execTeamResume t s
  | .launchComplete launch => Sys2Proof.Machine.execLaunchComplete launch s
  | .segmentReplay launch => Sys2Proof.Machine.execSegmentReplay launch s
  | .uncorrectableSramError a => Sys2Proof.Machine.execUncorrectableSramError a s
  | .uncorrectableMemoryError die dpa unit => Sys2Proof.Machine.execUncorrectableMemoryError die dpa unit s
  | .pseudoChannelRetirement die stack pc => Sys2Proof.Machine.execPseudoChannelRetirement die stack pc s
  | .longhaulFrameReceive f => Sys2Proof.Machine.execLonghaulFrameReceive f s
  | .longhaulAckSend die port ep => Sys2Proof.Machine.execLonghaulAckSend die port ep s
  | .longhaulAckReceive die port ep cum bitmap => Sys2Proof.Machine.execLonghaulAckReceive die port ep cum bitmap s
  | .longhaulResendTimeout die port ep seq => Sys2Proof.Machine.execLonghaulResendTimeout die port ep seq s
  | .endpointLoss die port ep => Sys2Proof.Machine.execEndpointLoss die port ep s
  | .hostDoorbell tail => Sys2Proof.Machine.execHostDoorbell tail s
  | .registerWrite off val => Sys2Proof.Machine.execRegisterWrite off val s
  | .junctionWarm die temp => Sys2Proof.Machine.execJunctionWarm die temp s
  | .junctionHot die temp => Sys2Proof.Machine.execJunctionHot die temp s
  | .junctionCool die temp => Sys2Proof.Machine.execJunctionCool die temp s
  | .junctionTrip die temp => Sys2Proof.Machine.execJunctionTrip die temp s
  | .gangProposalReceive die gid c => Sys2Proof.Machine.execGangProposalReceive die gid c s
  | .crossGroupCommitReceive gid commit => Sys2Proof.Machine.execCrossGroupCommitReceive gid commit s
  | .saveRecordWritten l team => Sys2Proof.Machine.execSaveRecordWritten l team s
  | .patchImageLoad digestOk sigOk digest => Sys2Proof.Machine.execPatchImageLoad digestOk sigOk digest s
  | .sNop => Sys2Proof.Machine.execSNop s
  | .xbNop => Sys2Proof.Machine.execXbNop s
  | .vNop => Sys2Proof.Machine.execVNop s
  | .mNop => Sys2Proof.Machine.execMNop s
  | .lsNop => Sys2Proof.Machine.execLsNop s
  | .fbNop => Sys2Proof.Machine.execFbNop s
  | .rpNop => Sys2Proof.Machine.execRpNop s
  | .bundleIssue => Sys2Proof.Machine.execBundleIssue s
  | .stallEnd => Sys2Proof.Machine.execStallEnd s
  | .reversePosition => Sys2Proof.Machine.execReversePosition s
  | .replayPosition => Sys2Proof.Machine.execReplayPosition s
  | .texitHoldEnd => Sys2Proof.Machine.execTexitHoldEnd s
  | .alignWaitEnd => Sys2Proof.Machine.execAlignWaitEnd s
  | .wfeWake => Sys2Proof.Machine.execWfeWake s
  | .cwaitSatisfied => Sys2Proof.Machine.execCwaitSatisfied s
  | .fenceComplete => Sys2Proof.Machine.execFenceComplete s
  | .commandAcceptance => Sys2Proof.Machine.execCommandAcceptance s
  | .residualControllerSpill => Sys2Proof.Machine.execResidualControllerSpill s
  | .residualControllerFill => Sys2Proof.Machine.execResidualControllerFill s
  | .gangStop => Sys2Proof.Machine.execGangStop s
  | .taskFirstBundle => Sys2Proof.Machine.execTaskFirstBundle s
  | .taskStop => Sys2Proof.Machine.execTaskStop s
  | .saveStart => Sys2Proof.Machine.execSaveStart s
  | .taskRetire => Sys2Proof.Machine.execTaskRetire s
  | .coreRetirement => Sys2Proof.Machine.execCoreRetirement s
  | .beaconSend => Sys2Proof.Machine.execBeaconSend s
  | .mapRecordIssue => Sys2Proof.Machine.execMapRecordIssue s
  | .ptpHoldover => Sys2Proof.Machine.execPtpHoldover s
  | .ppsOutEdge => Sys2Proof.Machine.execPpsOutEdge s
  | .ppsInEdge => Sys2Proof.Machine.execPpsInEdge s
  | .referenceLoss => Sys2Proof.Machine.execReferenceLoss s
  | .oxCommandStart => Sys2Proof.Machine.execOxCommandStart s
  | .normResultWrite => Sys2Proof.Machine.execNormResultWrite s
  | .updNormGate => Sys2Proof.Machine.execUpdNormGate s
  | .updTileStart => Sys2Proof.Machine.execUpdTileStart s
  | .updTilePublish => Sys2Proof.Machine.execUpdTilePublish s
  | .updCompletion => Sys2Proof.Machine.execUpdCompletion s
  | .refreshWindow => Sys2Proof.Machine.execRefreshWindow s
  | .placementPass => Sys2Proof.Machine.execPlacementPass s
  | .scrubStep => Sys2Proof.Machine.execScrubStep s
  | .walkerDeparture => Sys2Proof.Machine.execWalkerDeparture s
  | .undefinedCommand => Sys2Proof.Machine.execUndefinedCommand s
  | .contextCreate => Sys2Proof.Machine.execContextCreate s
  | .contextDestroy => Sys2Proof.Machine.execContextDestroy s
  | .contextParameters => Sys2Proof.Machine.execContextParameters s
  | .map => Sys2Proof.Machine.execMap s
  | .unmap => Sys2Proof.Machine.execUnmap s
  | .protect => Sys2Proof.Machine.execProtect s
  | .pin => Sys2Proof.Machine.execPin s
  | .unpin => Sys2Proof.Machine.execUnpin s
  | .migrate => Sys2Proof.Machine.execMigrate s
  | .apertureWrite => Sys2Proof.Machine.execApertureWrite s
  | .apertureGrant => Sys2Proof.Machine.execApertureGrant s
  | .shadowMapWrite => Sys2Proof.Machine.execShadowMapWrite s
  | .shadowMapInvalidate => Sys2Proof.Machine.execShadowMapInvalidate s
  | .handle => Sys2Proof.Machine.execHandle s
  | .drop => Sys2Proof.Machine.execDrop s
  | .imageLoad => Sys2Proof.Machine.execImageLoad s
  | .timetableLoad => Sys2Proof.Machine.execTimetableLoad s
  | .timetableFree => Sys2Proof.Machine.execTimetableFree s
  | .counterAllocate => Sys2Proof.Machine.execCounterAllocate s
  | .counterFree => Sys2Proof.Machine.execCounterFree s
  | .enqueueLaunch => Sys2Proof.Machine.execEnqueueLaunch s
  | .gangProposalLaunch => Sys2Proof.Machine.execGangProposalLaunch s
  | .gangProposalPreemption => Sys2Proof.Machine.execGangProposalPreemption s
  | .gangProposalResume => Sys2Proof.Machine.execGangProposalResume s
  | .segmentMark => Sys2Proof.Machine.execSegmentMark s
  | .faultResolveResume => Sys2Proof.Machine.execFaultResolveResume s
  | .faultResolveEnd => Sys2Proof.Machine.execFaultResolveEnd s
  | .cancelLaunch => Sys2Proof.Machine.execCancelLaunch s
  | .recordRead => Sys2Proof.Machine.execRecordRead s
  | .health => Sys2Proof.Machine.execHealth s
  | .keyInstall => Sys2Proof.Machine.execKeyInstall s
  | .endpointWrite => Sys2Proof.Machine.execEndpointWrite s
  | .endpointInvalidate => Sys2Proof.Machine.execEndpointInvalidate s
  | .linkRetrain => Sys2Proof.Machine.execLinkRetrain s
  | .linkTakeDown => Sys2Proof.Machine.execLinkTakeDown s
  | .cxlConfiguration => Sys2Proof.Machine.execCxlConfiguration s
  | .attest => Sys2Proof.Machine.execAttest s
  | .powerOn => Sys2Proof.Machine.execPowerOn s
  | .functionLevelReset => Sys2Proof.Machine.execFunctionLevelReset s
  | .conventionalReset => Sys2Proof.Machine.execConventionalReset s

end Sys2Proof.Machine
end

