-- ==== Sys2Proof/Machine/Step.lean ====
section
/-! DEFINITION. One step of the machine: the earliest pending event happens. And the state that runs a given
instruction next. -/

namespace Sys2Proof.Machine

/-- One step: time advances to the earliest event of the calendar, and that event happens. -/
def step (s : State) : Host.Outcome State Fault Refusal :=
  match s.calendar with
  | [] => .fault .halted
  | e :: r => exec e.what { s with calendar := r, now := Nat.max s.now e.due, at_ := e.place }

/-- The bundle that holds an instruction word alone, in the slot the decoder finds it for; a word that decodes to
nothing stands in a slot of its width. -/
def bundleOfWord (nbits w : Nat) : Nat :=
  match decodeWord nbits w with
  | some (sl, i) => soloBundle sl i w
  | none => w * 2 ^ (if nbits = 16 then Slot.xb else if nbits = 48 then Slot.v0 else if nbits = 64 then Slot.fb else Slot.s1).field.1

/-- The task that `withFetchWord` places: team 0 of launch 0, image 0, in free code at bundle 0. -/
def probeTask : Task := { wait := .none, ctl := { swsize := 65536 } }

/-- The state whose next step fetches and runs exactly the given instruction: die 0 holds context 0 with an image of
that one bundle, core 0 holds a task of it at bundle 0, and its issue is the earliest event (log entry 7). -/
def State.withFetchWord (s : State) (nbits w : Nat) : State :=
  let d := (mget s.dies 0).getD Die.initial
  let img : Image := { text := [BitVec.ofNat 384 (bundleOfWord nbits w)] }
  let c : Context := { (mget d.ctxs 0).getD {} with images := [(0, img)] }
  let d' := { d with ctxs := mset d.ctxs 0 c, tasks := mset d.tasks 0 probeTask
                     teams := mset d.teams 0 { launch := 0, cluster := 0, cores := [0], linear := 0 } }
  let e : Ev := { due := s.now, rank := 0, ord := 0, what := .bundleIssue }
  { s with dies := mset s.dies 0 d', calendar := e :: s.calendar }

end Sys2Proof.Machine
end

