-- ==== Sys2Proof/Safety.lean ====
section
/-! DEFINITION. The terms in which the claims are stated: what a safe state is, the predicate that guards a slot
operation, and what the reading of an operand yields. -/

namespace Sys2Proof

/-- The predicate field PR of a slot operation, in every family that carries one (R34). -/
def Instr.guard : Instr → Option (Fin 16)
  | .add p .. | .sub p .. | .and p .. | .or p .. | .xor p .. | .andn p .. | .shl p .. | .shr p .. | .sar p ..
  | .min p .. | .max p .. | .minu p .. | .maxu p .. | .mul p .. | .mulh p .. | .mulhu p .. | .clz p ..
  | .ctz p .. | .popc p .. | .sext p .. | .zext p .. | .addsh1 p .. | .addsh2 p .. | .addsh3 p .. | .addsh4 p ..
  | .addi p .. | .andi p .. | .ori p .. | .xori p .. | .shli p .. | .shri p .. | .sari p .. | .li p ..
  | .lch p .. | .cmp p .. | .cmpi p .. | .pand p .. | .por p .. | .pxor p .. | .pnot p .. | .br p .. | .brp p ..
  | .jmp p .. | .call p .. | .ret p | .exit p | .trap p .. | .yield p | .loop p .. | .loopi p .. | .ntreq p ..
  | .wfe p .. | .sev p .. | .bar p .. | .align p .. | .tenter p .. | .texit p | .rdc p .. | .wrc p ..
  | .stqp p .. | .lds p .. | .sts p .. | .mwldN p .. | .mwldW p .. | .mafmt p .. | .mbeat p .. | .mbeatt p ..
  | .mbeat2 p .. | .mdrn p .. | .mclr p .. | .mgbeat p .. | .mgdrn p .. | .mgclr p | .fsend p .. | .fsenda p ..
  | .fsendq p .. | .frecv p .. | .fld p .. | .fst p .. | .fatom p .. | .mclose p .. | .publ p .. | .ttgo p ..
  | .cwait p .. | .cinc p .. | .fence p .. | .psend p .. | .precv p .. | .rpush p .. | .rpop p .. | .rspill p ..
  | .rfill p .. | .rdrop p .. | .blkBegin p .. | .blkEnd p .. | .blkRev p .. => some p
  | .vadd h .. | .vsub h .. | .vmul h .. | .vfma h .. | .vfms h .. | .vfnma h .. | .vmin h .. | .vmax h ..
  | .vabs h .. | .vneg h .. | .vcps h .. | .vrcp h .. | .vrsq h .. | .vsqrt h .. | .vexp2 h .. | .vlog2 h ..
  | .vtanh h .. | .viadd h .. | .visub h .. | .vimul h .. | .vimad h .. | .vimin h .. | .vimax h .. | .vand h ..
  | .vor h .. | .vxor h .. | .vshl h .. | .vshr h .. | .vsar h .. | .vcmp h .. | .vsel h .. | .vmov h ..
  | .vsplat h .. | .vli h .. | .viota h .. | .vperm h .. | .vrot h .. | .vpack h .. | .vunpk h .. | .vcvt h ..
  | .vscl h .. | .vred h .. | .vscan h .. | .part h .. | .vrng h .. | .vdrop h .. | .mand h .. | .mor h ..
  | .mnot h .. | .mcnt h .. | .ldv h .. | .stv h .. | .ldvs h .. | .stvs h .. | .gath h .. | .scat h ..
  | .scata h .. | .atomv h .. | .ldb h .. | .ldg h .. | .stg h .. | .sbind h .. | .sunb h .. | .qpop h ..
  | .qst h .. | .mcpy h | .mbulk h .. | .upd h .. | .norm h | .fars h .. | .farr h .. => some h.pr
  | _ => none

end Sys2Proof

namespace Sys2Proof.Machine

/-- Every memory of every die is in its canonical form, and so is what the reads of a cycle still see. -/
def State.memOk (s : State) : Bool :=
  s.dies.all fun e => Memory.wf e.2.scratch && Memory.wf e.2.dram &&
    (match e.2.was with
      | some (_, m) => Memory.wf m
      | none => true)

/-- A vector source of width w yields `x` and leaves the state `s1` with the task `t1`: what any operation that reads it
goes on with. -/
def Reads (s : State) (t : Task) (w : Nat) (a : VSrc) (x : Vec) (s1 : State) (t1 : Task) : Prop :=
  ∀ k, readV s t w a k = k x s1 t1

/-- A source of the M or LS slot yields `x`. -/
def ReadsM (s : State) (t : Task) (a : MSrc) (x : Vec) (s1 : State) (t1 : Task) : Prop :=
  ∀ k, readM s t a k = k x s1 t1

/-- The residual items of an operation are pushed, when the open block takes any, and leave the state `s1`. -/
def Pushes (s : State) (t : Task) (items : List Vec) (s1 : State) (t1 : Task) : Prop :=
  ∀ k, pushItems s t items k = k s1 t1

/-- `e` entries of a result queue are popped, oldest first, and leave the state `s1`. -/
def Pops (s : State) (t : Task) (q e : Nat) (vs : List Vec) (s1 : State) (t1 : Task) : Prop :=
  ∀ k, popEntries q e [] k s t = k vs s1 t1

/-- Nothing changed but what is pending: no register, flag, table or byte of memory. -/
def OnlyPosted (s s' : State) : Prop := s' = { s with calendar := s'.calendar, seq := s'.seq }

end Sys2Proof.Machine
end

