-- ==== Sys2Proof/Certificates/Slice0/Obligations.lean ====
section
/-! DEFINITION. The statements for the provers, family by family. -/

open Sys2Proof
open Sys2Proof.Machine

/-- R105, R91: the twenty three-register operations with a true predicate compute rd from ra and rb modulo 2^64. The
result is posted to land on rd after latency 1, or 3 for the multiplies; nothing else changes at issue (`State.emitX`;
SCALAR_LANDING says what the landing does). -/
def Obligations.ScalarArithmetic : Prop :=
  ∀ (s : State) (t : Task) (p : Fin 16) (d a : Fin 32) (b : SSrc),
    s.task s.at_ = some t → t.arch.pred p.val = true →
    let x := t.arch.rx a.val
    let y := t.arch.src b
    exec (.add p d a b) s = .next (s.emitX t 1 d.val (x + y)) ∧
    exec (.sub p d a b) s = .next (s.emitX t 1 d.val (x - y)) ∧
    exec (.and p d a b) s = .next (s.emitX t 1 d.val (x &&& y)) ∧
    exec (.or p d a b) s = .next (s.emitX t 1 d.val (x ||| y)) ∧
    exec (.xor p d a b) s = .next (s.emitX t 1 d.val (x ^^^ y)) ∧
    exec (.andn p d a b) s = .next (s.emitX t 1 d.val (x &&& ~~~y)) ∧
    exec (.shl p d a b) s = .next (s.emitX t 1 d.val (x <<< (y.extractLsb' 0 6).toNat)) ∧
    exec (.shr p d a b) s = .next (s.emitX t 1 d.val (x >>> (y.extractLsb' 0 6).toNat)) ∧
    exec (.sar p d a b) s = .next (s.emitX t 1 d.val (x.sshiftRight (y.extractLsb' 0 6).toNat)) ∧
    exec (.min p d a b) s = .next (s.emitX t 1 d.val (BitVec.ofInt 64 (Min.min x.toInt y.toInt))) ∧
    exec (.max p d a b) s = .next (s.emitX t 1 d.val (BitVec.ofInt 64 (Max.max x.toInt y.toInt))) ∧
    exec (.minu p d a b) s = .next (s.emitX t 1 d.val (BitVec.ofNat 64 (Min.min x.toNat y.toNat))) ∧
    exec (.maxu p d a b) s = .next (s.emitX t 1 d.val (BitVec.ofNat 64 (Max.max x.toNat y.toNat))) ∧
    exec (.mul p d a b) s = .next (s.emitX t 3 d.val (BitVec.ofNat 64 (x.toNat * y.toNat))) ∧
    exec (.mulh p d a b) s = .next (s.emitX t 3 d.val (BitVec.ofInt 64 ((x.toInt * y.toInt) / (2 ^ 64 : Nat)))) ∧
    exec (.mulhu p d a b) s = .next (s.emitX t 3 d.val (BitVec.ofNat 64 (x.toNat * y.toNat / 2 ^ 64))) ∧
    exec (.addsh1 p d a b) s = .next (s.emitX t 1 d.val (x + y * 2)) ∧
    exec (.addsh2 p d a b) s = .next (s.emitX t 1 d.val (x + y * 4)) ∧
    exec (.addsh3 p d a b) s = .next (s.emitX t 1 d.val (x + y * 8)) ∧
    exec (.addsh4 p d a b) s = .next (s.emitX t 1 d.val (x + y * 16))

/-- R105, R106, R91: the two-register and immediate forms with a true predicate land their result on rd after latency 1.
CLZ and CTZ count 64 when ra is 0. -/
def Obligations.ScalarUnaryAndImmediate : Prop :=
  ∀ (s : State) (t : Task) (p : Fin 16) (d a : Fin 32) (b : SSrc) (w : SW) (imm : BitVec 11) (sh : Fin 64)
    (k : BitVec 16) (h : Fin 4),
    s.task s.at_ = some t → t.arch.pred p.val = true →
    let x := t.arch.rx a.val
    let y := t.arch.src b
    exec (.clz p d a) s = .next (s.emitX t 1 d.val (if x = 0 then 64 else BitVec.ofNat 64 (63 - x.toNat.log2))) ∧
    (∃ n : Nat, (∀ i, i < n → x.getLsbD i = false) ∧ (x.getLsbD n = true ∨ n = 64) ∧ n ≤ 64 ∧
      exec (.ctz p d a) s = .next (s.emitX t 1 d.val (BitVec.ofNat 64 n))) ∧
    exec (.popc p d a) s = .next (s.emitX t 1 d.val (BitVec.ofNat 64 ((List.range 64).countP x.getLsbD))) ∧
    exec (.sext p d a w) s = .next (s.emitX t 1 d.val ((x.setWidth (swWidth w)).signExtend 64)) ∧
    exec (.zext p d a w) s = .next (s.emitX t 1 d.val ((x.setWidth (swWidth w)).setWidth 64)) ∧
    exec (.addi p d b imm) s = .next (s.emitX t 1 d.val (y + imm.signExtend 64)) ∧
    exec (.andi p d b imm) s = .next (s.emitX t 1 d.val (y &&& imm.signExtend 64)) ∧
    exec (.ori p d b imm) s = .next (s.emitX t 1 d.val (y ||| imm.signExtend 64)) ∧
    exec (.xori p d b imm) s = .next (s.emitX t 1 d.val (y ^^^ imm.signExtend 64)) ∧
    exec (.shli p d b sh) s = .next (s.emitX t 1 d.val (y <<< sh.val)) ∧
    exec (.shri p d b sh) s = .next (s.emitX t 1 d.val (y >>> sh.val)) ∧
    exec (.sari p d b sh) s = .next (s.emitX t 1 d.val (y.sshiftRight sh.val)) ∧
    exec (.li p d k) s = .next (s.emitX t 1 d.val (k.signExtend 64)) ∧
    ∃ v : Word, (v.extractLsb' (16 * h.val) 16 = k ∧
        ∀ i, i < 64 → ¬(16 * h.val ≤ i ∧ i < 16 * h.val + 16) → v.getLsbD i = (t.arch.rx d.val).getLsbD i) ∧
      exec (.lch p d h k) s = .next (s.emitX t 1 d.val v)

/-- R107, R91: compares and predicate operations with a true predicate land a predicate after latency 1. eq and ne compare
for equality, lt, ge, le and gt are signed, the u forms unsigned; CMPI sign-extends its immediate. The predicate operations
read any predicate; all of them write p4 to p15 alone. -/
def Obligations.ComparesAndPredicates : Prop :=
  ∀ (s : State) (t : Task) (p q pa pb : Fin 16) (a : Fin 32) (b : SSrc) (imm : BitVec 8) (cc : CC),
    s.task s.at_ = some t → t.arch.pred p.val = true →
    let holds (x y : Word) : Bool := match cc with
      | .eq => x.toNat = y.toNat | .ne => x.toNat ≠ y.toNat
      | .lt => x.toInt < y.toInt | .ge => x.toInt ≥ y.toInt | .le => x.toInt ≤ y.toInt | .gt => x.toInt > y.toInt
      | .ltu => x.toNat < y.toNat | .geu => x.toNat ≥ y.toNat | .leu => x.toNat ≤ y.toNat | .gtu => x.toNat > y.toNat
    exec (.cmp p q a b cc) s = .next (s.emitP t 1 q.val (holds (t.arch.rx a.val) (t.arch.src b))) ∧
    exec (.cmpi p q b cc imm) s = .next (s.emitP t 1 q.val (holds (t.arch.src b) (imm.signExtend 64))) ∧
    exec (.pand p q pa pb) s = .next (s.emitP t 1 q.val (t.arch.pred pa.val && t.arch.pred pb.val)) ∧
    exec (.por p q pa pb) s = .next (s.emitP t 1 q.val (t.arch.pred pa.val || t.arch.pred pb.val)) ∧
    exec (.pxor p q pa pb) s = .next (s.emitP t 1 q.val (Bool.xor (t.arch.pred pa.val) (t.arch.pred pb.val))) ∧
    exec (.pnot p q pa) s = .next (s.emitP t 1 q.val (!t.arch.pred pa.val)) ∧
    (∀ i ∈ [Instr.pand p q pa pb, .por p q pa pb, .pxor p q pa pb, .pnot p q pa], i.wf = decide (4 ≤ q.val)) ∧
    (∀ i ∈ [Instr.cmp p q a b cc, .cmpi p q b cc imm], i.wf = true → 4 ≤ q.val)

/-- R34: a slot whose predicate is false has no architectural effect at all, in every family that carries a predicate. -/
def Sys2Proof.Claims.FalsePredicateHasNoEffect : Prop :=
  ∀ (i : Instr) (p : Fin 16) (s : State) (t : Task),
    i.guard = some p → s.task s.at_ = some t → t.arch.pred p.val = false → exec i s = .next s

/-- R446: a NOP in any slot changes nothing. -/
def Sys2Proof.Claims.NopsChangeNothing : Prop :=
  ∀ (s : State) (t : Task), s.task s.at_ = some t →
    ∀ i ∈ [Instr.sNop, .xbNop, .vNop, .mNop, .lsNop, .fbNop, .rpNop], exec i s = .next s

/-- An operation under a false predicate has no effect, and a NOP changes nothing (R34, R446). -/
def Obligations.NoEffect : Prop := Sys2Proof.Claims.FalsePredicateHasNoEffect ∧ Sys2Proof.Claims.NopsChangeNothing

/-- The frame of a result in flight: posting a result changes the calendar and its numbering, and no register, flag,
special register, accumulator or byte of memory of any core or die. Of the landings of a cycle the later-issued comes last,
of one bundle the higher slot; on a gradient register the slot's position decides (R92, R125). -/
def Obligations.EmitFrame : Prop :=
  ∀ (s : State) (t : Task) (lat : Nat) (r : Landing),
    let s' := s.emit t lat r
    s' = { s with calendar := s'.calendar, seq := s'.seq } ∧
    landOrd (s.landing t r) = (match r.dest with
      | .g _ => s.slot.code * 2 ^ 80 + s.now
      | _ => s.now * 16 + s.slot.code) ∧
    (∀ e, e ∈ s'.calendar ↔ e ∈ s.calendar ∨
      e = { due := s.now + lat, rank := landRank r.dest, ord := landOrd (s.landing t r), owner := some s.at_
            what := .resultLanding s.at_ (s.landing t r) })

/-- R108: a taken BR, BRP, JMP, CALL or RET makes its target the bundle that follows the delay bundles; CALL also lands its
own index + 3 on x31 after latency 1. Nothing else changes. A displacement that leaves the index range downwards names an
index that no image has. -/
def Sys2Proof.Claims.Branches : Prop :=
  ∀ (s : State) (t : Task) (p ps : Fin 16) (a : Fin 32) (off : BitVec 22) (off18 : BitVec 18) (n n18 : Nat),
    s.task s.at_ = some t → t.arch.pred p.val = true →
    (n : Int) = ((t.fetch.pc : Int) + off.toInt) % (2 ^ 64 : Nat) →
    (n18 : Int) = ((t.fetch.pc : Int) + off18.toInt) % (2 ^ 64 : Nat) →
    let goto (k : Nat) : State := s.modTask s.at_ fun u => { u with fetch := { u.fetch with br := some k } }
    exec (.br p off) s = .next (goto n) ∧
    exec (.brp p ps off18) s = .next (if t.arch.pred ps.val then goto n18 else s) ∧
    exec (.jmp p a) s = .next (goto (t.arch.rx a.val).toNat) ∧
    exec (.call p off) s = .next ((goto n).emitX t 1 31 (BitVec.ofNat 64 (t.fetch.pc + 3))) ∧
    exec (.ret p) s = .next (goto (t.arch.rx 31).toNat) ∧
    (t.fetch.pc < 2 ^ 15 → (t.fetch.pc : Int) + off.toInt < 0 → n ≥ 2 ^ 15)

/-- R38, R40: after a bundle at index n with a taken branch the fetch stream is n + 1, n + 2 and then the target; when the
first delay bundle branches too it is n + 1, n + 2, the first target, the second target, and when the second does, n + 1,
n + 2, the first target, the bundle behind it, the second target. A branch that is not taken has no delay effect. -/
def Sys2Proof.Claims.DelayBundles : Prop :=
  (∀ (n t1 t2 : Nat),
    let f0 : Fetch := { pc := n, br := some t1 }
    let f1 := advanceFetch f0 none
    let f2 := advanceFetch f1 none
    let f3 := advanceFetch f2 none
    let g2 := advanceFetch { f1 with br := some t2 } none
    let g3 := advanceFetch g2 none
    let g4 := advanceFetch g3 none
    let h3 := advanceFetch { f2 with br := some t2 } none
    let h4 := advanceFetch h3 none
    f1.pc = n + 1 ∧ f2.pc = n + 2 ∧ f3 = { pc := t1 } ∧
    g2.pc = n + 2 ∧ g3.pc = t1 ∧ g4 = { pc := t2 } ∧
    h3.pc = t1 ∧ h4.pc = t1 + 1 ∧ advanceFetch h4 none = { pc := t2 }) ∧
  ∀ (s : State) (t : Task) (p ps : Fin 16) (a : Fin 32) (off : BitVec 22) (off18 : BitVec 18),
    s.task s.at_ = some t → t.arch.pred p.val = false →
    ∀ i ∈ [Instr.br p off, .brp p ps off18, .jmp p a, .call p off, .ret p], exec i s = .next s

/-- The branches set their targets, which follow the two delay bundles (R38, R40, R108). -/
def Obligations.BranchTargets : Prop := Sys2Proof.Claims.Branches ∧ Sys2Proof.Claims.DelayBundles

/-- R97, R94: LOOP and LOOPI at a level not above LDEPTH open it with its count, index, stride and start; the levels below
stay; p1 to p3 follow; every other field of the task stays. Above LDEPTH they raise the loop-nesting fault 0x02. -/
def Sys2Proof.Claims.LoopsOpen : Prop :=
  ∀ (s : State) (t : Task) (p : Fin 16) (lv : Fin 8) (xc xs : Fin 32) (stride : BitVec 9) (count : BitVec 13)
    (st6 : BitVec 6),
    s.task s.at_ = some t → t.arch.pred p.val = true →
    let opened (c : Nat) (idx str : Word) (s' : State) : Prop :=
      ∃ (u : Task) (lev : Level), s'.task s.at_ = some u ∧
        (lv.val < t.arch.levels.length → u.arch.levels[lv.val]? = some lev) ∧
        lev.cnt = c ∧ lev.idx = idx ∧ lev.str = str ∧ lev.start = t.fetch.pc + 1 ∧ lev.lend = 0 ∧ lev.first = true ∧
        (lev.null = true ↔ c = 0) ∧ u.arch.ldepth = lv.val + 1 ∧
        (∀ k, k ≠ lv.val → u.arch.levels[k]? = t.arch.levels[k]?) ∧
        (lv.val < t.arch.levels.length → u.arch.pred 1 = true ∧ u.arch.pred 2 = decide (c = 1) ∧ u.arch.pred 3 = decide (c > 1)) ∧
        (∀ k, k = 0 ∨ 4 ≤ k → u.arch.pred k = t.arch.pred k) ∧
        u = { t with arch := { t.arch with levels := u.arch.levels, ldepth := u.arch.ldepth, p := u.arch.p } } ∧
        s' = s.setTask s.at_ u
    (lv.val ≤ t.arch.ldepth →
      (∃ s', exec (.loop p lv xc xs stride) s = .next s' ∧
        opened ((t.arch.rx xc.val).toNat % 2 ^ 32) (t.arch.rx xs.val) (stride.signExtend 64) s') ∧
      (∃ s', exec (.loopi p lv count st6) s = .next s' ∧ opened count.toNat 0 (st6.signExtend 64) s')) ∧
    (t.arch.ldepth < lv.val →
      exec (.loop p lv xc xs stride) s = .next (takeFault s s.at_ { code := 0x02, slot := s.slot.code }) ∧
      exec (.loopi p lv count st6) s = .next (takeFault s s.at_ { code := 0x02, slot := s.slot.code }))

/-- R98, R99, R41: the close of the innermost level: with iterations left the level counts down, its index advances and
the fetch goes back to its start; without, and without epilogue passes, the level is popped and the fetch goes on. A null
level is popped at its first close. -/
def Sys2Proof.Claims.LoopCloses : Prop :=
  ∀ (a : Arch) (pc lv : Nat) (rt : Bool) (lev : Level),
    lv < a.levels.length → a.ldepth = lv + 1 → a.levels[lv]? = some lev →
    let r := closeLevel a pc lv rt
    (lev.null = false → lev.cnt > 1 →
      r.2.back = some lev.start ∧ r.1.ldepth = a.ldepth ∧
      ∃ x, r.1.levels[lv]? = some x ∧ x.cnt = lev.cnt - 1 ∧ x.idx = lev.idx + lev.str ∧ x.first = false) ∧
    (lev.null = false → lev.cnt ≤ 1 → rt = true → a.ec > 0 →
      r.2.back = some lev.start ∧ r.1.ldepth = a.ldepth ∧ r.1.ec = a.ec - 1 ∧
      ∃ x, r.1.levels[lv]? = some x ∧ x.cnt = 0 ∧ x.idx = lev.idx + lev.str) ∧
    (lev.null = false → lev.cnt ≤ 1 → rt = false ∨ a.ec = 0 → r.2.back = none ∧ r.1.ldepth = lv) ∧
    (lev.null = true → r.2.back = none ∧ r.1.ldepth = lv) ∧
    (rt = false → r.1.rrb = a.rrb ∧ r.1.ec = a.ec)

/-- LOOP and LOOPI open a level, and a close counts it down or pops it (R41, R94, R97 to R99). -/
def Obligations.HardwareLoops : Prop := Sys2Proof.Claims.LoopsOpen ∧ Sys2Proof.Claims.LoopCloses

/-- R110: EXIT in free code makes the task wait for its retirement; YIELD without a stop asked for has no effect and with one
brings the stop in this cycle, but not where a taken branch has delay bundles or its target to come; TRAP takes the program-trap fault 0x05 with its immediate. In a timed region EXIT and
YIELD raise the region-rule fault 0x09. -/
def Obligations.ExitYieldTrap : Prop :=
  ∀ (s : State) (t : Task) (p : Fin 16) (code : BitVec 16),
    s.task s.at_ = some t → t.arch.pred p.val = true →
    (t.timed = false →
      exec (.exit p) s = .next ((s.modTask s.at_ fun u => { u with wait := .exit }).postCore s.at_ s.now rkCount .taskRetire) ∧
      (t.stop = .none → exec (.yield p) s = .next s) ∧
      (t.fetch.straight = false → exec (.yield p) s = .next s) ∧
      (t.stop ≠ .none → t.fetch.straight = true → exec (.yield p) s = .next (s.postCore s.at_ s.now rkCount .taskStop))) ∧
    (t.timed = true →
      exec (.exit p) s = .next (takeFault s s.at_ { code := 0x09, slot := s.slot.code }) ∧
      exec (.yield p) s = .next (takeFault s s.at_ { code := 0x09, slot := s.slot.code })) ∧
    exec (.trap p code) s = .next (takeFault s s.at_ { code := 0x05, slot := s.slot.code, imm := code.toNat })

/-- R113, R120, R184, R361: taking a fault. TRAPC holds the code, the TRAP immediate and the bundle index; TRAPVA the address
when the fault names one, and is kept otherwise. In free code the task is rolled back to its last checkpoint: registers,
predicates, loop state and fetch of the shadow set, and no withheld store; in a timed region its registers stay. The
precise-recoverable codes hold the task in free code; any other fault ends it. Other tasks stay as they are. -/
def Obligations.FaultEntry : Prop :=
  ∀ (s : State) (l : Loc) (t : Task) (f : FaultReq),
    s.task l = some t →
    (∃ u, (takeFault s l f).task l = some u ∧
      u.ctl.trapc.toNat = f.bundle.getD t.fetch.pc % 2 ^ 15 + 2 ^ 16 * (f.imm % 2 ^ 16) + 2 ^ 32 * (f.code % 2 ^ 16) ∧
      (∀ v, f.va = some v → u.ctl.trapva = BitVec.ofNat 64 v) ∧ (f.va = none → u.ctl.trapva = t.ctl.trapva) ∧
      (u.phase = if t.timed = false ∧ (f.code = 0x1B ∨ f.code = 0x20 ∨ f.code = 0x21) then .held else .ended) ∧
      (t.timed = false → u.arch = t.shadow.arch ∧ u.fetch = t.shadow.fetch ∧ u.sbuf = [] ∧ u.undo = []) ∧
      (t.timed = true → u.arch = t.arch ∧ u.fetch = t.fetch ∧ u.mat = t.mat)) ∧
    ∀ k, k ≠ l → (takeFault s l f).task k = s.task k

/-- R110, R111, R399: WFE with its flag set clears it and goes on; with a clear flag it raises the region-rule fault in a
timed region. SEV sets the flag no earlier than 4 cycles after issue, exactly then in a timed region, and raises the
team-index fault 0x07 for a member that the team does not have. The set itself changes that one flag of that member, and of
a member that has been saved that one flag of its record. -/
def Obligations.EventFlags : Prop :=
  ∀ (s : State) (t : Task) (p ev : Fin 16) (a : Fin 32),
    s.task s.at_ = some t → t.arch.pred p.val = true →
    let ra := (t.arch.rx a.val).toNat
    (t.ev.getLsbD ev.val = true → ∃ u, exec (.wfe p ev) s = .next (s.setTask s.at_ u) ∧
      u = { t with ev := u.ev } ∧ ∀ k, u.ev.getLsbD k = (t.ev.getLsbD k && decide (k ≠ ev.val))) ∧
    (t.ev.getLsbD ev.val = false → t.timed = true →
      exec (.wfe p ev) s = .next (takeFault s s.at_ { code := 0x09, slot := s.slot.code })) ∧
    (t.ev.getLsbD ev.val = false → t.timed = false → exec (.wfe p ev) s = .next (stallCore s s.at_ (.wfe ev.val))) ∧
    (ra < t.ctl.teamsz → ∃ due, s.now + 4 ≤ due ∧ (t.timed = true → due = s.now + 4) ∧
      exec (.sev p ev a) s = .next (s.postUnit due rkFlag (.eventFlagSet { die := s.at_.die, team := t.team } ra ev))) ∧
    (t.ctl.teamsz ≤ ra → exec (.sev p ev a) s = .next (takeFault s s.at_ { code := 0x07, slot := s.slot.code })) ∧
    (∀ (tm : Team) (ix core : Nat), s.team s.at_.die t.team = some tm → tm.cores[ix]? = some core →
      s.at_.core = core →
      (∀ x ∈ s.launches, ∀ v ∈ x.2.saved, v.num = t.team → v.die = s.at_.die → ∀ q ∈ v.recs, q.ix ≠ ix) → ∃ u, exec (.eventFlagSet { die := s.at_.die, team := t.team } ix ev) s = .next (s.setTask s.at_ u) ∧
        u = { t with ev := u.ev } ∧ ∀ k, k < 16 → u.ev.getLsbD k = (t.ev.getLsbD k || decide (k = ev.val))) ∧
    (∀ (r : TeamRef) (ix : Nat), ∃ s1 : State, exec (.eventFlagSet r ix ev) s = .next s1 ∧
      ∀ (i j k : Nat) (x : Nat × Launch) (v : SavedTeam) (q : SaveRec),
        s.launches[i]? = some x → x.2.saved[j]? = some v → v.recs[k]? = some q →
        ∃ (y : Nat × Launch) (w : SavedTeam) (q1 : SaveRec),
          s1.launches[i]? = some y ∧ y.2.saved[j]? = some w ∧ w.recs[k]? = some q1 ∧
          q1 = { q with task := { q.task with ev := q1.task.ev } } ∧
          ∀ n, n < 16 → q1.task.ev.getLsbD n =
            (q.task.ev.getLsbD n || (decide (n = ev.val) && decide (v.num = r.team ∧ v.die = r.die ∧ q.ix = ix))))

/-- R112: BAR in a timed region raises the region-rule fault. In free code a member whose barrier has completed at L goes on:
it withdraws its own arrival and its next bundle issues at L + 8; before that the bundle stalls, and the member arrives.
BARRIER_COMPLETE marks the completion cycle and lets every waiting member's BAR bundle issue, in core order; while a
member is missing it does nothing. -/
def Obligations.Barriers : Prop :=
  ∀ (s : State) (t : Task) (tm : Team) (p : Fin 16) (b : Fin 4),
    s.task s.at_ = some t → t.arch.pred p.val = true → s.team s.at_.die t.team = some tm →
    let bar := nth {} tm.bars b.val
    let arrived : Bool := bar.arr.any fun a => a.1 = t.ctl.taskix
    (t.timed = true → exec (.bar p b) s = .next (takeFault s s.at_ { code := 0x09, slot := s.slot.code })) ∧
    (∀ l, t.timed = false → bar.go = some l → arrived = true →
      ∃ s1 : State, exec (.bar p b) s = .next (s1.postCore s.at_ (Nat.max (l + 8) (s.now + 1)) rkIssue .bundleIssue) ∧
        s1.task s.at_ = some { t with wait := .barHold } ∧ s1.now = s.now ∧ s1.calendar = s.calendar ∧
        ∃ tm' : Team, s1.team s.at_.die t.team = some tm' ∧ tm'.cores = tm.cores ∧
          (b.val < tm.bars.length → ∀ a, a ∈ (nth {} tm'.bars b.val).arr ↔ a ∈ bar.arr ∧ a.1 ≠ t.ctl.taskix)) ∧
    (t.timed = false → bar.go = none ∨ arrived = false → exec (.bar p b) s = .next (stallCore s s.at_ (.bar b.val))) ∧
    (∀ r : TeamRef, r = { die := s.at_.die, team := t.team } →
      (barFull tm b.val = false → exec (.barrierComplete r b) s = .next s) ∧
      (barFull tm b.val = true → bar.go = none →
        let s1 := s.modTeam r.die r.team fun x => x.modBar b.val fun y => { y with go := some s.now }
        exec (.barrierComplete r b) s = .next
          (((List.range 256).filter fun c => tm.cores.contains c).foldl (fun (st : State) c =>
            match st.task { die := r.die, core := c } with
            | some u =>
              if u.team = r.team && u.wait = .bar b.val && u.phase = .running then
                retry (undelayCore st { die := r.die, core := c }) { die := r.die, core := c }
              else st
            | none => st) s1)))

/-- R114, R19, R110: ALIGN and TENTER with a target T within ALSLACK of GRP wait for it; beyond, they raise the drift fault.
TENTER raises the region-rule fault in a region and the illegal-regime fault in a grid launch. When GRP has reached T, the
next bundle issues at GCC = T, within a region after TENTER; before, everything in flight keeps its remaining cycles. -/
def Obligations.AlignAndEnter : Prop :=
  ∀ (s : State) (t : Task) (p : Fin 16) (a : Fin 32) (enter : Bool),
    s.task s.at_ = some t →
    let l := s.at_
    let tgt := (t.arch.rx a.val).toNat
    let near : Prop := tgt ≤ s.grp l.die + t.arch.alslack ∧ s.grp l.die ≤ tgt + t.arch.alslack
    let wait (e : Bool) : State := (s.modTask l fun u => { u with wait := .align tgt e }).postCore l (s.now + 1) rkIssue .alignWaitEnd
    (t.arch.pred p.val = true →
      (near → exec (.align p a) s = .next (wait false)) ∧
      (¬near → exec (.align p a) s = .next (takeFault s l { code := 0x08, slot := s.slot.code })) ∧
      (t.timed = true → exec (.tenter p a) s = .next (takeFault s l { code := 0x09, slot := s.slot.code })) ∧
      (t.timed = false → t.ctl.gang = false →
        exec (.tenter p a) s = .next (takeFault s l { code := 0x06, slot := s.slot.code })) ∧
      (t.timed = false → t.ctl.gang = true → near → exec (.tenter p a) s = .next (wait true)) ∧
      (t.timed = false → t.ctl.gang = true → ¬near →
        exec (.tenter p a) s = .next (takeFault s l { code := 0x08, slot := s.slot.code }))) ∧
    (∀ g, g < 2 ^ 64 → t.phase = .running → t.wait = .align g enter →
      (s.grp l.die = g → ∃ (s1 : State) (u : Task), exec .alignWaitEnd s = .next (attempt s1 l) ∧ s1.task l = some u ∧ s1.gcc l u = g ∧
        u.timed = (t.timed || enter) ∧ u.arch = t.arch ∧ u.wait = .none ∧ s1.calendar = s.calendar) ∧
      (s.grp l.die < g → g < s.grp l.die + 2 ^ 63 →
        exec .alignWaitEnd s = .next ((delayAll s l).postCore l (s.now + 1) rkIssue .alignWaitEnd)))

/-- R22, R19: TEXIT in a region leaves it at once (its ingress windows pass to the die) and holds the next bundle; in free
code it raises the illegal-regime fault. The hold ends when nothing of the region is in flight any more: the checkpoint
is taken and the next bundle issues. -/
def Obligations.RegionExit : Prop :=
  ∀ (s : State) (t : Task) (p : Fin 16),
    s.task s.at_ = some t →
    (t.arch.pred p.val = true → t.timed = false →
      exec (.texit p) s = .next (takeFault s s.at_ { code := 0x06, slot := s.slot.code })) ∧
    (t.arch.pred p.val = true → t.timed = true →
      ∃ s1 : State, exec (.texit p) s = .next (s1.postCore s.at_ (Nat.max s.now (regionEnd s s.at_ t) + 1) rkIssue .texitHoldEnd) ∧
        s1.task s.at_ = some { t with windows := [], timed := false, wait := .texit }) ∧
    (t.phase = .running → t.wait = .texit →
      (regionEnd s s.at_ t < s.now → regionOpen t = false →
        exec .texitHoldEnd s = .next (attempt ((checkpoint s s.at_).modTask s.at_ fun u => { u with wait := .none }) s.at_)) ∧
      (s.now ≤ regionEnd s s.at_ t →
        exec .texitHoldEnd s = .next (s.postCore s.at_ (regionEnd s s.at_ t + 1) rkIssue .texitHoldEnd)))

/-- R115, R292: NTREQ takes the team's next tile and lands its coordinates 8 cycles after issue: x, y and z in lanes 0 to 2
and 0 in lane 3, or lane 3 alone 1 when no tile remains; every other lane is 0. -/
def Obligations.TileRequests : Prop :=
  ∀ (s : State) (t : Task) (tm : Team) (x : Launch) (p : Fin 16) (vd : Fin 64),
    s.task s.at_ = some t → t.arch.pred p.val = true → s.team s.at_.die t.team = some tm → s.launch t.launch = some x →
    let d := x.descOn s.at_.die
    ∃ (v : Vec) (s1 : State), exec (.ntreq p vd) s = .next (s1.emitV t 8 vd.val v (BitVec.allOnes 512) []) ∧
      s1.task s.at_ = s.task s.at_ ∧ s1.now = s.now ∧ s1.calendar = s.calendar ∧
      (∀ k, 4 ≤ k → k < 128 → lane 32 v k = 0) ∧
      (tm.nx < tm.en → s1.team s.at_.die t.team = some { tm with nx := tm.nx + 1 } ∧
        lane 32 v 0 = tm.nx % d.tiles.1 % 2 ^ 32 ∧ lane 32 v 1 = tm.nx / d.tiles.1 % d.tiles.2.1 % 2 ^ 32 ∧
        lane 32 v 2 = tm.nx / (d.tiles.1 * d.tiles.2.1) % 2 ^ 32 ∧ lane 32 v 3 = 0) ∧
      (tm.en ≤ tm.nx → s1.team s.at_.die t.team = some tm ∧
        lane 32 v 0 = 0 ∧ lane 32 v 1 = 0 ∧ lane 32 v 2 = 0 ∧ lane 32 v 3 = 1)

/-- R102, R103, R250: RDC lands the value that the named register has in the issue cycle, with latency 1. STQCNT counts the
records of earlier cycles that the queue keeps, at most 64, and STQLOST counts those beyond; a number that names no register
is the control-register fault. -/
def Sys2Proof.Claims.ControlRegisterReads : Prop :=
  ∀ (s : State) (t : Task) (p : Fin 16) (d : Fin 32) (c : BitVec 12),
    s.task s.at_ = some t → t.arch.pred p.val = true →
    let rdc (n : BitVec 12) (v : Nat) : Prop := exec (.rdc p d n) s = .next (s.emitX t 1 d.val (BitVec.ofNat 64 v))
    let cyc (i : Int) : Nat := (i % (2 ^ 64 : Nat)).toNat
    let y := s.die s.at_.die
    let held := t.stq.countP fun e => decide (e.1 < s.now)
    rdc 0x000 (cyc (s.now + y.lcc + t.ctl.dlt)) ∧ rdc 0x001 (cyc (s.now + y.lcc)) ∧ rdc 0x002 (cyc t.ctl.dlt) ∧
    rdc 0x003 (cyc (s.now + y.grp)) ∧ rdc 0x004 t.arch.alslack ∧ rdc 0x010 t.arch.rrb ∧ rdc 0x011 t.arch.ec ∧
    rdc 0x012 t.arch.ldepth ∧ rdc 0x020 t.ctl.curlim ∧ rdc 0x021 t.ctl.frzcnt ∧ rdc 0x022 t.arch.remt ∧
    rdc 0x023 t.arch.goff.toNat ∧ rdc 0x030 t.ctl.asid ∧
    rdc 0x031 (bit t.timed + 2 * bit (t.arch.walk.mode == .reverse)
      + 4 * bit (t.arch.blk.isSome && t.arch.walk.mode != .replay) + 8 * bit t.ctl.gang
      + 16 * bit (t.arch.walk.mode == .replay)) ∧
    rdc 0x032 t.ctl.trapc.toNat ∧ rdc 0x033 t.ctl.trapva.toNat ∧ rdc 0x040 (Nat.min held 64) ∧
    rdc 0x041 (Nat.min (t.ctl.stqlost + (held - 64)) (2 ^ 32 - 1)) ∧ rdc 0x050 t.ctl.teamx ∧ rdc 0x051 t.ctl.teamy ∧
    rdc 0x052 t.ctl.teamz ∧ rdc 0x053 t.ctl.taskix ∧ rdc 0x054 t.ctl.teamsz ∧ rdc 0x055 s.at_.core ∧
    rdc 0x056 s.at_.die ∧ rdc 0x057 t.ctl.swbase ∧ rdc 0x058 t.ctl.swsize ∧ rdc 0x059 t.ctl.rchunk ∧
    ((c.toNat ∉ [0, 1, 2, 3, 4, 0x10, 0x11, 0x12, 0x20, 0x21, 0x22, 0x23, 0x30, 0x31, 0x32, 0x33, 0x40, 0x41, 0x50, 0x51,
        0x52, 0x53, 0x54, 0x55, 0x56, 0x57, 0x58, 0x59]) →
      exec (.rdc p d c) s = .next (takeFault s s.at_ { code := 0x04, slot := s.slot.code }))

/-- R102, R103: WRC writes ALSLACK, RRB, EC, LDEPTH (never upwards), FRZCNT, REMT, GOFF or STQLOST, landing after latency 1;
any other number is the control-register fault. The landing stores the low bits of the value in that register. -/
def Sys2Proof.Claims.ControlRegisterWrites : Prop :=
  ∀ (s : State) (t : Task) (p : Fin 16) (a : Fin 32) (c : BitVec 12) (v : Nat),
    s.task s.at_ = some t → t.arch.pred p.val = true →
    let x := t.arch.rx a.val
    (c.toNat ∈ [0x004, 0x010, 0x011, 0x021, 0x022, 0x023, 0x041] ∨ c.toNat = 0x012 ∧ x.toNat % 8 ≤ t.arch.ldepth →
      exec (.wrc p c a) s = .next (s.emit t 1 { dest := .creg c.toNat, val := x.setWidth 4096 })) ∧
    (c.toNat ∉ [0x004, 0x010, 0x011, 0x012, 0x021, 0x022, 0x023, 0x041] ∨ c.toNat = 0x012 ∧ t.arch.ldepth < x.toNat % 8 →
      exec (.wrc p c a) s = .next (takeFault s s.at_ { code := 0x04, slot := s.slot.code })) ∧
    (writeCreg t 0x004 v).arch.alslack = v % 2 ^ 16 ∧ (writeCreg t 0x010 v).arch.rrb = v % 2 ^ 8 ∧
    (writeCreg t 0x011 v).arch.ec = v % 2 ^ 16 ∧ (v % 8 ≤ 6 → (writeCreg t 0x012 v).arch.ldepth = v % 8) ∧
    (writeCreg t 0x021 v).ctl.frzcnt = v % 2 ^ 64 ∧ (writeCreg t 0x022 v).arch.remt = v % 2 ^ 32 ∧
    (writeCreg t 0x023 v).arch.goff = BitVec.ofNat 64 v ∧ (writeCreg t 0x041 v).ctl.stqlost = v % 2 ^ 32

/-- R116, R249, R250: STQP pops the oldest record that the queue held before this cycle onto rd with latency 3, or lands 0
when there is none. The queue keeps the next 63 of them and the records of this cycle; what it had no place for is counted
as lost. -/
def Sys2Proof.Claims.StatisticsPops : Prop :=
  ∀ (s : State) (t : Task) (p : Fin 16) (d : Fin 32),
    s.task s.at_ = some t → t.arch.pred p.val = true →
    let old := t.stq.filter fun e => decide (e.1 < s.now)
    (old = [] → exec (.stqp p d) s = .next (s.emitX t 3 d.val 0)) ∧
    (∀ e r, old = e :: r →
      let u := { t with stq := r.take 63 ++ t.stq.filter fun x => !decide (x.1 < s.now)
                        ctl := { t.ctl with stqlost := Nat.min (t.ctl.stqlost + (old.length - 64)) (2 ^ 32 - 1) } }
      exec (.stqp p d) s = .next ((s.setTask s.at_ u).emitX t 3 d.val e.2.2))

/-- RDC reads and WRC writes the control registers, and STQP pops the statistics queue (R102, R103, R116). -/
def Obligations.ControlRegisters : Prop := Sys2Proof.Claims.ControlRegisterReads ∧ Sys2Proof.Claims.ControlRegisterWrites ∧ Sys2Proof.Claims.StatisticsPops

/-- R117, R176, R178, R181: LDS and STS access 8 bytes at ra + imm11 × 8. A misaligned address is the alignment fault, an
illegal one the bounds fault. LDS reads after the latency of its place; STS is withheld in free code until the
checkpoint, and performs after its latency in a timed region; a 257th withheld store is the checkpoint-distance fault. -/
def Obligations.ScalarMemory : Prop :=
  ∀ (s : State) (t : Task) (p : Fin 16) (d : Fin 32) (b : SSrc) (imm : BitVec 11),
    s.task s.at_ = some t → t.arch.pred p.val = true →
    let l := s.at_
    let addr := (t.arch.src b + imm.signExtend 64 * 8).toNat
    let legal : Bool := saLegal (s.die l.die) addr && byteLegal (s.die l.die) t.launch t.ctl.asid addr
    let store : Access := { die := l.die, op := .write, shape := { base := addr, stride := 8, w := 8, n := 1 }
                            data := (t.arch.rx d.val).setWidth 4096, en := 0xFF, lat := 2, src := some l
                            bundle := t.fetch.pc, slot := s.slot.code, issued := s.now, timed := t.timed, asid := t.ctl.asid
                            port := portOf l.core addr, time := s.gcc l t % 2 ^ 24, launch := t.launch }
    (addr % 8 ≠ 0 →
      exec (.lds p d b imm) s = .next (takeFault s l { code := 0x0A, slot := s.slot.code }) ∧
      exec (.sts p d b imm) s = .next (takeFault s l { code := 0x0A, slot := s.slot.code })) ∧
    (addr % 8 = 0 → legal = false →
      exec (.lds p d b imm) s = .next (takeFault s l { code := 0x0B, slot := s.slot.code }) ∧
      exec (.sts p d b imm) s = .next (takeFault s l { code := 0x0B, slot := s.slot.code })) ∧
    (addr % 8 = 0 → legal = true →
      (∃ a : Access, exec (.lds p d b imm) s = .next (s.postAccess (s.now + 4 + placeLat l.core addr (s.gcc l t)) (some l) a) ∧
        a.op = .read ∧ a.mem = .scratch ∧ a.die = l.die ∧ a.shape = { base := addr, stride := 8, w := 8, n := 1 } ∧ a.en = 0xFF ∧
        a.land = some (s.landing t { dest := .x d.val })) ∧
      (t.arch.walk.mode = .replay → exec (.sts p d b imm) s = .next s) ∧
      (t.arch.walk.mode ≠ .replay → t.timed = true →
        exec (.sts p d b imm) s = .next (s.postAccess (storeDue s l t store s.now) none { store with start := s.now })) ∧
      (t.arch.walk.mode ≠ .replay → t.timed = false → t.sbuf.length + t.fsts.length < 256 →
        exec (.sts p d b imm) s = .next (s.setTask l { t with sbuf := t.sbuf ++ [store] })) ∧
      (t.arch.walk.mode ≠ .replay → t.timed = false → 256 ≤ t.sbuf.length + t.fsts.length →
        exec (.sts p d b imm) s = .next (takeFault s l { code := 0x0C, slot := s.slot.code })))

/-- R118, R91, R125: the XB transfers read at issue and land 3 cycles later on the physical register their destination names
at issue; XSV writes bytes 0 to 7 alone, XPV all of the mask, XVP is true when any bit of the mask is. -/
def Obligations.Transfers : Prop :=
  ∀ (s : State) (t : Task) (vd : Fin 64) (x : Fin 32) (m : Fin 8) (q : Fin 16),
    s.task s.at_ = some t →
    exec (.xsv vd x) s = .next (s.emit t 3
      { dest := .v (t.arch.phys vd.val), val := (t.arch.rx x.val).setWidth 4096, en := 0xFF, evs := [] }) ∧
    exec (.xvs x vd) s = .next (s.emitX t 3 x.val (BitVec.ofNat 64 (lane 32 (t.arch.rv vd.val) 0 + 2 ^ 32 * lane 32 (t.arch.rv vd.val) 1))) ∧
    exec (.xpv m q) s = .next (s.emit t 3
      { dest := .m m.val, val := if t.arch.pred q.val then (BitVec.allOnes 512).setWidth 4096 else 0 }) ∧
    ∃ b : Bool, (b = true ↔ ∃ i, i < 512 ∧ (t.arch.rm m.val).getLsbD i = true) ∧
      exec (.xvp q m) s = .next (s.emitP t 3 q.val b)

/-- R90, R91, R93, R95, R102, R121: a result that lands on a running task outside a block, with no other write to its
destination in the cycle, changes its destination and nothing else: a scalar register (x0 discards it), p4 to p7 (p0 to p3
keep), a stage bit, a mask register under its enables (m0 discards it), a vector register byte by byte under the mask, a
gradient register, a control register, AFMT. No other register, no memory, no other core changes. -/
def Sys2Proof.Claims.Landings : Prop :=
  ∀ (s : State) (l : Loc) (t : Task) (r : Landing),
    s.task l = some t → t.phase = .running → t.arch.blk = none → r.evs = [] → laterLandings { s with at_ := l } l r = [] →
    t.wait ≠ .remote r.id → r.mode = .replace →
    let lands (u : Task) : Prop := exec (.resultLanding l r) s = .next ({ s with at_ := l }.setTask l u)
    (∀ n, r.dest = .x n → ∃ u, lands u ∧ u = { t with arch := { t.arch with x := u.arch.x } } ∧ u.arch.rx 0 = 0 ∧
      (n ≠ 0 → u.arch.rx n = r.val.setWidth 64) ∧ ∀ k, k ≠ n → u.arch.rx k = t.arch.rx k) ∧
    (∀ n, r.dest = .p n → ∃ u, lands u ∧ u = { t with arch := { t.arch with p := u.arch.p } } ∧
      (4 ≤ n → n < 16 → u.arch.pred n = r.val.getLsbD 0) ∧ ∀ k, k ≠ n ∨ k < 4 → u.arch.pred k = t.arch.pred k) ∧
    (∀ b, r.dest = .stage b → ∃ u, lands u ∧ u = { t with arch := { t.arch with p := u.arch.p } } ∧
      (b < 8 → u.arch.pred (8 + b) = r.val.getLsbD 0) ∧ ∀ k, k ≠ 8 + b → u.arch.pred k = t.arch.pred k) ∧
    (∀ n, r.dest = .m n → ∃ u, lands u ∧ u = { t with arch := { t.arch with m := u.arch.m } } ∧
      (n ≠ 0 → ∀ i, i < 512 → (u.arch.rm n).getLsbD i = if r.en.getLsbD i then r.val.getLsbD i else (t.arch.rm n).getLsbD i) ∧
      ∀ k, k ≠ n ∨ k = 0 → u.arch.rm k = t.arch.rm k) ∧
    (∀ n, r.dest = .v n → ∃ u, lands u ∧ u = { t with arch := { t.arch with v := u.arch.v } } ∧
      (∀ i, i < 4096 → (rd u.arch.v n).getLsbD i = if r.en.getLsbD (i / 8) then r.val.getLsbD i else (rd t.arch.v n).getLsbD i) ∧
      ∀ k, k ≠ n → rd u.arch.v k = rd t.arch.v k) ∧
    (∀ n, r.dest = .g n → ∃ u, lands u ∧ u = { t with arch := { t.arch with g := u.arch.g } } ∧
      (∀ i, i < 4096 → (rd u.arch.g n).getLsbD i = if r.en.getLsbD (i / 8) then r.val.getLsbD i else (rd t.arch.g n).getLsbD i) ∧
      ∀ k, k ≠ n → rd u.arch.g k = rd t.arch.g k) ∧
    (∀ n, r.dest = .creg n → lands (writeCreg (t.settleStq s.now) n (r.val.toNat % 2 ^ 64))) ∧
    (∀ f, r.dest = .afmt → Fmt.ofCode r.val.toNat = some f → lands { t with arch := { t.arch with afmt := f } })

/-- R160, R161, R164, R166, R183: a landing on an accumulator row replaces it under its enables, clears it, or adds to it; in
free code the row as it stood is saved first, once; every other row, every register and all memory stay. MGCLR's landing
clears the whole gradient plane. -/
def Sys2Proof.Claims.AccumulatorLandings : Prop :=
  ∀ (s : State) (l : Loc) (t : Task) (r : Landing) (row : Nat),
    s.task l = some t → t.phase = .running → t.arch.blk = none → r.evs = [] → laterLandings { s with at_ := l } l r = [] →
    t.wait ≠ .remote r.id → (∀ e ∈ t.mat.prev, e.2.1 ≠ s.now) →
    (r.dest = .acc row → ∃ u, exec (.resultLanding l r) s = .next ({ s with at_ := l }.setTask l u) ∧
      u.arch.x = t.arch.x ∧ u.arch.p = t.arch.p ∧ u.arch.v = t.arch.v ∧ u.arch.g = t.arch.g ∧ u.arch.m = t.arch.m ∧
      (∀ k, k ≠ row → rd u.mat.acc k = rd t.mat.acc k) ∧ u.mat.plane = t.mat.plane ∧ u.mat.w = t.mat.w ∧
      (r.mode = .beatSet → rd u.mat.acc row = r.val) ∧
      (r.mode = .zero → rd u.mat.acc row = 0 ∧ (row < 1024 → u.arch.satf.getLsbD row = false)) ∧
      (r.mode = .f32acc → ∀ i, i < 128 → lane 32 (rd u.mat.acc row) i = (accF32 (lane 32 (rd t.mat.acc row) i) (lane 32 r.val i)).1 % 2 ^ 32) ∧
      (t.timed = false → (∀ e ∈ t.undo, e.row ≠ row) →
        ∃ e, u.undo = t.undo ++ [e] ∧ e.row = row ∧ e.val = rd t.mat.acc row ∧ e.flag = t.arch.satf.getLsbD row) ∧
      (t.timed = true → u.undo = t.undo)) ∧
    (r.dest = .plane → r.mode = .zero → ∃ u, exec (.resultLanding l r) s = .next ({ s with at_ := l }.setTask l u) ∧
      (∀ k, rd u.mat.plane k = 0) ∧ u.mat.acc = t.mat.acc ∧ u.arch = t.arch)

/-- Results land on the registers and on the accumulators (R90, R91, R121, R160, R161). -/
def Obligations.ResultLandings : Prop := Sys2Proof.Claims.Landings ∧ Sys2Proof.Claims.AccumulatorLandings

/-- R220, R222, R195: a plain scratchpad write of one element (the enabled bytes of w from address x) leaves exactly those
bytes with its data; every other byte of every memory of every die reads as before, and no register changes. -/
def Sys2Proof.Claims.StorePerforms : Prop :=
  ∀ (s : State) (a : Access) (d : Die) (x w en : Nat),
    s.memOk = true → mget s.dies a.die = some d → cmdLives s a = true → a.mem = .scratch → a.op = .write → a.cls = .store →
    d.flips = [] → laterWrites s a.die a.port = [] → shadowsOf s a.die a.asid = [] →
    a.shape.w = w → resolved s a = [(0, x, en)] →
    ∃ s', exec (.accessPerform a) s = .next s' ∧
      (∀ j, j < w → en.testBit j = true → Mem.rd (s'.die a.die).scratch (x + j) = BitVec.ofNat 8 (a.data.toNat >>> (8 * j))) ∧
      (∀ b, (∀ j, j < w → en.testBit j = true → b ≠ x + j) →
        Mem.rd (s'.die a.die).scratch b = Mem.rd d.scratch b) ∧
      (∀ b, Mem.rd (s'.die a.die).dram b = Mem.rd d.dram b) ∧
      (∀ e, e ≠ a.die → s'.die e = s.die e) ∧ (∀ l, s'.task l = s.task l) ∧ s'.calendar = s.calendar

/-- R181, R222: a read of one scratchpad element delivers, on the landing it carries, the bytes as they stood before the
writes of this cycle, and in free code on top of them those of its task's own stores that were withheld at its issue and are
still to perform; nothing else changes. -/
def Sys2Proof.Claims.LoadPerforms : Prop :=
  ∀ (s : State) (a : Access) (d : Die) (l : Loc) (t : Task) (r : Landing) (x en : Nat),
    s.memOk = true → mget s.dies a.die = some d → a.mem = .scratch → a.op = .read → a.src = some l → a.land = some r →
    s.task l = some t → t.phase ≠ .held → (∀ c ∈ t.shadow.carry, c.id ≠ r.id) → d.flips = [] → a.fwdEn = 0 → a.shape.w ≤ 512 →
    a.cls = .load → resolved s a = [(0, x, en)] →
    let before := match d.was with
      | some (c, m) => if c = s.now then m else d.scratch
      | none => d.scratch
    exec (.accessPerform a) s = .next (s.postLanding l (Nat.max s.now r.lands)
      { r with val := BitVec.ofNat 4096 (Mem.num (scratchSeen s a) x a.shape.w), evs := [] }) ∧
    (a.timed = true ∨ heldStores s a = [] → scratchSeen s a = before) ∧
    (∀ (y : Access) (z e : Nat), a.timed = false → heldStores s a = [y] → y.op = .write → resolved s y = [(0, z, e)] →
      ∀ b, Mem.rd (scratchSeen s a) b = if z ≤ b ∧ b < z + y.shape.w ∧ e.testBit (b - z) = true
        then BitVec.ofNat 8 (y.data.toNat >>> (8 * (b - z))) else Mem.rd before b)

/-- A scratchpad store and a scratchpad load perform (R220, R222). -/
def Obligations.AccessPerforms : Prop := Sys2Proof.Claims.StorePerforms ∧ Sys2Proof.Claims.LoadPerforms

/-- R222, R223: whatever an access writes, in any memory and by any operation, no byte outside the elements it resolves to
changes, in any memory of any die. -/
def Obligations.AccessMemoryFrame : Prop :=
  ∀ (s s' : State) (a : Access),
    s.memOk = true → a.op ∈ [AccOp.write, .addF32, .addI32] ∨ (∃ o, a.op = .atom o) → a.cls ≠ .engine →
    exec (.accessPerform a) s = .next s' →
    ∀ (die b : Nat),
      ((die ≠ a.die ∨ a.mem ≠ .scratch ∨ ∀ e ∈ resolved s a, b < e.2.1 ∨ e.2.1 + Nat.max 4 a.shape.w ≤ b) →
        Mem.rd (s'.die die).scratch b = Mem.rd (s.die die).scratch b) ∧
      ((die ≠ a.die ∨ a.mem = .scratch ∨ ∀ e ∈ resolved s a, b < e.2.1 ∨ e.2.1 + Nat.max 4 a.shape.w ≤ b) →
        Mem.rd (s'.die die).dram b = Mem.rd (s.die die).dram b)

/-- R127, R77 to R79, R88, R123, R142, R146: the two-source floating operations, for every form of source and destination. With
the lanes that the sources yield, the result is written after the operation's latency under the mask with the events of
its enabled lanes, after the residual items that the operation pushes inside a block. -/
def Obligations.VectorFloatTwoSources : Prop :=
  ∀ (s s1 s2 s3 s4 : State) (t t1 t2 t3 : Task) (h : VHdr) (ty : FTy) (d : VDst) (a b : VSrc) (x y : Vec),
    s.task s.at_ = some t → t.arch.pred h.pr.val = true →
    let f := ftyFmt ty
    let w := fwidth f
    Reads s t w a x s1 t1 → Reads s1 t1 w b y s2 t2 →
    let xs := vLanes w x
    let ys := vLanes w y
    let m := t2.arch.rm h.msk.val
    let done (i : Instr) (lat : Nat) (g : Nat → Nat → Nat × Evs) (items : List Vec) : Prop :=
      Pushes s2 t2 items s3 t3 →
      writeV s3 t3 lat d m (ofLanes w (List.zipWith (fun p q => (g p q).1) xs ys))
        (laneEvents (enabled (w / 8) (4096 / w) m) (List.zipWith (fun p q => (g p q).2) xs ys)) = .ok s4 →
      exec i s = .next s4
    let sel (c : Nat → Nat → Bool) : List Vec := [selVec (List.zipWith c xs ys)]
    done (.vadd h ty d a b) 2 (fadd f) [] ∧ done (.vsub h ty d a b) 2 (fsub f) [] ∧
    done (.vmul h ty d a b) 4 (fmul f) [x, y] ∧
    done (.vmin h ty d a b) 2 (fun p q => (fmin f p q, 0)) (sel fun p q => !(fval f q).lt (fval f p) || isNaN f p || isNaN f q) ∧
    done (.vmax h ty d a b) 2 (fun p q => (fmax f p q, 0)) (sel fun p q => !(fval f p).lt (fval f q) || isNaN f p || isNaN f q) ∧
    done (.vcps h ty d a b) 2 (fun p q => (signOp f p p (signOf f q), 0)) (sel fun p q => signOf f p != signOf f q)

/-- R127, R78, R134, R139, R146: the one-source floating operations, for every form of source and destination: each lane's
correctly rounded result after the operation's latency, after the residual items. -/
def Obligations.VectorFloatOneSource : Prop :=
  ∀ (s s1 s2 s3 : State) (t t1 t2 : Task) (h : VHdr) (ty : FTy) (d : VDst) (a : VSrc) (x : Vec) (k : BitVec 8)
    (key : Fin 4) (theta : Fin 64),
    s.task s.at_ = some t → t.arch.pred h.pr.val = true →
    let f := ftyFmt ty
    let w := fwidth f
    Reads s t w a x s1 t1 →
    let xs := vLanes w x
    let m := t1.arch.rm h.msk.val
    let done (i : Instr) (lat : Nat) (r : List (Nat × Evs)) (items : List Vec) : Prop :=
      Pushes s1 t1 items s2 t2 →
      writeV s2 t2 lat d m (ofLanes w (r.map (·.1))) (laneEvents (enabled (w / 8) (4096 / w) m) (r.map (·.2))) = .ok s3 →
      exec i s = .next s3
    let lanesOf (g : Nat → Nat × Evs) : List (Nat × Evs) := xs.map g
    let result (g : Nat → Nat × Evs) : Vec := ofLanes w ((lanesOf g).map (·.1))
    let each (i : Instr) (g : Nat → Nat × Evs) : Prop := done i 8 (lanesOf g) [result g]
    done (.vabs h ty d a) 2 (lanesOf fun p => (signOp f p p false, 0)) [selVec (xs.map (signOf f))] ∧
    done (.vneg h ty d a) 2 (lanesOf fun p => (signOp f p p (!signOf f p), 0)) [] ∧
    each (.vrcp h ty d a) (fun p => rounded f (rcpV (fval f p))) ∧
    each (.vrsq h ty d a) (fun p => rounded f (rsqV (fval f p))) ∧
    each (.vsqrt h ty d a) (fun p => rounded f (sqrtV (fval f p))) ∧
    each (.vexp2 h ty d a) (fun p => rounded f (exp2V (fval f p))) ∧
    each (.vtanh h ty d a) (fun p => rounded f (tanhV (fval f p))) ∧
    done (.vlog2 h ty d a) 8 (lanesOf fun p => rounded f (log2V (fval f p))) [x] ∧
    done (.vscl h ty d a k) 3 (lanesOf fun p => rne f (scaleFV (fval f p) k.toInt)) [] ∧
    done (.vdrop h ty d a key theta) 6
      (xs.mapIdx fun i c => if dropKeep (t1.arch.rv key.val) theta.val i then dropScale f theta.val c else (0, 0)) []

/-- R127, R77, R146: the fused operations round once, take their third source from a vector register, and push both
multiplicands as residual items; latency 4. VIMAD is the integer form (R128) and pushes none. -/
def Obligations.VectorFused : Prop :=
  ∀ (s s1 s2 s3 s4 : State) (t t1 t2 t3 : Task) (h : VHdr) (ty : FTy) (iw : IW) (d : VDst) (a b : VSrc) (c : Fin 64) (x y : Vec),
    s.task s.at_ = some t → t.arch.pred h.pr.val = true →
    let f := ftyFmt ty
    (let w := fwidth f;
      Reads s t w a x s1 t1 → Reads s1 t1 w b y s2 t2 → Pushes s2 t2 [x, y] s3 t3 →
      let m := t2.arch.rm h.msk.val
      let done (i : Instr) (np nc : Bool) : Prop :=
        let r := List.zipWith (fun (p : Nat × Nat) z => ffma f np nc p.1 p.2 z) (List.zip (vLanes w x) (vLanes w y))
          (vLanes w (t2.arch.rv c.val))
        writeV s3 t3 4 d m (ofLanes w (r.map (·.1))) (laneEvents (enabled (w / 8) (4096 / w) m) (r.map (·.2))) = .ok s4 →
        exec i s = .next s4
      done (.vfma h ty d a b c) false false ∧ done (.vfms h ty d a b c) false true ∧ done (.vfnma h ty d a b c) true false) ∧
    (let w := iwBits iw;
      Reads s t w a x s1 t1 → Reads s1 t1 w b y s2 t2 →
      let m := t2.arch.rm h.msk.val
      writeV s2 t2 4 d m (ofLanes w (List.zipWith (fun (p : Nat × Nat) z => p.1 * p.2 + z)
        (List.zip (vLanes w x) (vLanes w y)) (vLanes w (t2.arch.rv c.val)))) [] = .ok s3 →
      exec (.vimad h iw d a b c) s = .next s3)

/-- R128: the integer operations work lane by lane modulo 2^w, signed or unsigned where they say so, and record no event; the
bitwise operations work on all 4,096 bits. -/
def Obligations.VectorInteger : Prop :=
  ∀ (s s1 s2 s3 : State) (t t1 t2 : Task) (h : VHdr) (iw : IW) (u : Bool) (d : VDst) (a b : VSrc) (x y : Vec),
    s.task s.at_ = some t → t.arch.pred h.pr.val = true →
    (let w := iwBits iw;
      Reads s t w a x s1 t1 → Reads s1 t1 w b y s2 t2 →
      let m := t2.arch.rm h.msk.val
      let int (n : Nat) : Int := if u then (n : Int) else sextNat w n
      let done (i : Instr) (lat : Nat) (g : Nat → Nat → Int) : Prop :=
        writeV s2 t2 lat d m (ofLanes w (List.zipWith (fun p q => (g p q % (2 ^ w : Nat)).toNat) (vLanes w x) (vLanes w y))) [] = .ok s3 →
        exec i s = .next s3
      done (.viadd h iw d a b) 2 (fun p q => (p : Int) + q) ∧ done (.visub h iw d a b) 2 (fun p q => (p : Int) - q) ∧
      done (.vimul h iw d a b) 4 (fun p q => (p : Int) * q) ∧
      done (.vimin h iw u d a b) 2 (fun p q => Min.min (int p) (int q)) ∧
      done (.vimax h iw u d a b) 2 (fun p q => Max.max (int p) (int q)) ∧
      done (.vshl h iw d a b) 2 (fun p q => (p : Int) * 2 ^ (q % w)) ∧
      done (.vshr h iw d a b) 2 (fun p q => (p : Int) / 2 ^ (q % w)) ∧
      done (.vsar h iw d a b) 2 (fun p q => sextNat w p / 2 ^ (q % w))) ∧
    (Reads s t 32 a x s1 t1 → Reads s1 t1 32 b y s2 t2 →
      let m := t2.arch.rm h.msk.val
      (writeV s2 t2 2 d m (x &&& y) [] = .ok s3 → exec (.vand h d a b) s = .next s3) ∧
      (writeV s2 t2 2 d m (x ||| y) [] = .ok s3 → exec (.vor h d a b) s = .next s3) ∧
      (writeV s2 t2 2 d m (x ^^^ y) [] = .ok s3 → exec (.vxor h d a b) s = .next s3))

/-- R130 to R133, R146: moves, splats, immediates, lane numbers, permutes, rotations, packs, unpacks and conversions, for
every form of source and destination. VSEL takes the byte of a where the mask mc has a one. -/
def Obligations.VectorMoves : Prop :=
  ∀ (s s1 s2 s3 s4 : State) (t t1 t2 t3 : Task) (h : VHdr) (iw : IW) (u : Bool) (d : VDst) (a b : VSrc) (mc : Fin 8)
    (ln n : Fin 256) (kd : VliKind) (imm : BitVec 16) (src dst : Fmt) (rm : Rm) (x y : Vec),
    s.task s.at_ = some t → t.arch.pred h.pr.val = true →
    let w := iwBits iw
    let put (lat : Nat) (v : Vec) (e : List (Nat × Nat)) (s' : State) : Prop :=
      writeV s1 t1 lat d (t1.arch.rm h.msk.val) v e = .ok s'
    let put0 (lat : Nat) (v : Vec) (s' : State) : Prop := writeV s t lat d (t.arch.rm h.msk.val) v [] = .ok s'
    (Reads s t 64 a x s1 t1 → put 2 x [] s2 → exec (.vmov h d a) s = .next s2) ∧
    (Reads s t w a x s1 t1 → put 3 (splatLanes w (4096 / w) (lane w x ln.val)) [] s2 → exec (.vsplat h iw d a ln) s = .next s2) ∧
    (put0 2 (match kd with
      | .i32 => splatLanes 32 128 (imm.signExtend 32).toNat
      | .i16 => splatLanes 16 256 imm.toNat
      | .hi => splatLanes 32 128 (imm.toNat * 2 ^ 16)) s2 → exec (.vli h kd d imm) s = .next s2) ∧
    (put0 2 (ofLanes w (List.range (4096 / w))) s2 → exec (.viota h iw d) s = .next s2) ∧
    (Reads s t w a x s1 t1 →
      put 3 (ofLanes w ((List.range (4096 / w)).map fun i => lane w x ((i + 4096 / w - n.val % (4096 / w)) % (4096 / w)))) [] s2 →
      n.val < 4096 / w → exec (.vrot h iw d a n) s = .next s2) ∧
    (Reads s t 64 a x s1 t1 →
      let r := (lanes (fwidth src) 128 x).map (cvtFmt src dst rm)
      put 3 (ofLanes (fwidth dst) (r.map (·.1))) (laneEvents (fmtEnabled dst (t1.arch.rm h.msk.val)) (r.map (·.2))) s2 →
      exec (.vcvt h d a src dst rm) s = .next s2) ∧
    (Reads s t (w / 2) a x s1 t1 →
      put 3 (ofLanes w ((lanes (w / 2) (4096 / w) x).map fun k => if u then k else unsignedOf w (sextNat (w / 2) k))) [] s2 →
      exec (.vunpk h iw u d a) s = .next s2) ∧
    (Reads s t 32 a x s1 t1 → Reads s1 t1 32 b y s2 t2 →
      let c := t2.arch.rm mc.val
      ∀ v : Vec, (∀ i, i < 4096 → v.getLsbD i = if c.getLsbD (i / 8) then x.getLsbD i else y.getLsbD i) →
        Pushes s2 t2 [selVec (maskLanes c)] s3 t3 → writeV s3 t3 2 d (t3.arch.rm h.msk.val) v [] = .ok s4 →
        exec (.vsel h d a b mc) s = .next s4) ∧
    (Reads s t w a x s1 t1 → Reads s1 t1 w b y s2 t2 → Pushes s2 t2 (if iw = .w32 then [y] else []) s3 t3 →
      writeV s3 t3 3 d (t2.arch.rm h.msk.val) (ofLanes w ((vLanes w y).map fun k => if k < 4096 / w then lane w x k else 0)) [] = .ok s4 →
      exec (.vperm h iw d a b) s = .next s4) ∧
    (Reads s t (2 * w) a x s1 t1 → Reads s1 t1 (2 * w) b y s2 t2 →
      let m := t2.arch.rm h.msk.val
      let r := (vLanes (2 * w) x ++ vLanes (2 * w) y).map (narrow u w)
      writeV s2 t2 3 d m (ofLanes w (r.map (·.1))) (laneEvents (enabled (w / 8) (4096 / w) m) (r.map (·.2))) = .ok s3 →
      exec (.vpack h iw u d a b) s = .next s3)

/-- R135 to R138, R84, R146: reductions, scans, partition and random numbers, for every form of source and destination. -/
def Obligations.VectorReductions : Prop :=
  ∀ (s s1 s2 s3 : State) (t t1 t2 : Task) (h : VHdr) (ty : FTy) (op : RedOp) (d : VDst) (vd : Fin 64) (a b : VSrc) (n : Fin 4)
    (x y : Vec),
    s.task s.at_ = some t → t.arch.pred h.pr.val = true →
    (let f := ftyFmt ty;
      let w := fwidth f
      Reads s t w a x s1 t1 →
      let m := t1.arch.rm h.msk.val
      let en := enabled (w / 8) (4096 / w) m
      let xs := vLanes w x
      (let r := redOut f op (((tree (redOp f op) (laneLog f) (redInputs f op en x)).head?).getD (0, 0));
        Pushes s1 t1 (if op = .sum then [] else [ofLanes 32 [winner f en xs (4096 / w) r.1]]) s2 t2 →
        writeV s2 t2 6 d m (ofLanes w [r.1]) (kindCounts [(nth false en 0, r.2)]) = .ok s3 →
        exec (.vred h ty op d a) s = .next s3) ∧
      (let r := (scan (redOp f op) (laneLog f) 1 (redInputs f op en x)).map (redOut f op);
        Pushes s1 t1 (if op = .sum then [] else [ofLanes 32 (r.mapIdx fun i c => winner f en xs (i + 1) c.1)]) s2 t2 →
        writeV s2 t2 6 d m (ofLanes w (r.map (·.1))) (laneEvents en (r.map (·.2))) = .ok s3 →
        exec (.vscan h ty op d a) s = .next s3)) ∧
    (Reads s t 32 a x s1 t1 →
      let en := enabled 4 128 (t1.arch.rm h.msk.val)
      let ls := (List.range (n.val + 1)).map fun o => (List.range 128).filter fun i => nth false en i && nth 0 (vLanes 32 x) i = o
      Pushes s1 t1 [partItem en (vLanes 32 x) (n.val + 1)] s2 t2 →
      exec (.part h vd a n) s = .next
        (((List.range (n.val + 1)).foldl (fun (st : State) o =>
            st.emitV t2 8 (vd.val + o)
              (ofLanes 32 (nth [] ls o ++ List.replicate (128 - (nth [] ls o).length) 0xFFFFFFFF)) (BitVec.allOnes 512) []) s2).emitV
          t2 8 (vd.val + 4) (ofLanes 32 (ls.map (·.length))) (BitVec.allOnes 512) [])) ∧
    (Reads s t 32 a x s1 t1 → Reads s1 t1 32 b y s2 t2 →
      writeV s2 t2 6 d (t2.arch.rm h.msk.val) (ofLanes 32 ((vLanes 32 x).map fun e =>
        philox e (lane 32 y 2) (lane 32 y 0, lane 32 y 1) n.val)) [] = .ok s3 →
      exec (.vrng h d a b n) s = .next s3)

/-- R129, R140, R123: compares write a mask bit for every byte of a lane, mask operations combine 512 bits, all under the
write mask after latency 2; MCNT counts the ones into lane 0 after latency 3. -/
def Obligations.MaskOperations : Prop :=
  ∀ (s s1 s2 : State) (t t1 t2 : Task) (h : VHdr) (ty : CmpTy) (cc : VCC) (md ma mb : Fin 8) (vd : Fin 64) (a b : VSrc) (x y : Vec),
    s.task s.at_ = some t → t.arch.pred h.pr.val = true →
    let put (v : Nat) (s' : State) (t' : Task) : State :=
      s'.emit t' 2 { dest := .m md.val, val := BitVec.ofNat 4096 v, en := t'.arch.rm h.msk.val }
    (Reads s t (cmpWidth ty) a x s1 t1 → Reads s1 t1 (cmpWidth ty) b y s2 t2 →
      exec (.vcmp h ty cc md a b) s = .next (put (vcmpBits ty cc x y) s2 t2)) ∧
    exec (.mand h md ma mb) s = .next (put (t.arch.rm ma.val &&& t.arch.rm mb.val).toNat s t) ∧
    exec (.mor h md ma mb) s = .next (put (t.arch.rm ma.val ||| t.arch.rm mb.val).toNat s t) ∧
    exec (.mnot h md ma) s = .next (put (~~~(t.arch.rm ma.val)).toNat s t) ∧
    exec (.mcnt h vd ma) s = .next (s.emitV t 3 vd.val
      (BitVec.ofNat 4096 ((List.range 512).countP (t.arch.rm ma.val).getLsbD)) (t.arch.rm h.msk.val) [])

/-- R49, R123 to R125, R240 to R244: what the operand forms yield. A register yields its physical register, the broadcast
operand the scalar in every lane, neither changing anything; a read stream whose next vector is ready yields it and
moves on by one, and one whose next vector is not ready stalls free code and is the underrun fault 0x0F in a region. A result
for a register is posted on the physical register its name selects at issue; one for a scratchpad write stream takes the
next place of its pattern in the store buffer, and its data lands later with the disabled bytes zero; outside a block no item
is pushed. -/
def Obligations.OperandForms : Prop :=
  ∀ (s : State) (t : Task) (w lat : Nat) (n : Fin 64) (z : Fin 8) (m : Mask) (val : Vec) (evs : List (Nat × Nat)) (items : List Vec)
    (e : Ahead),
    s.task s.at_ = some t →
    Reads s t w (.v n) (rd t.arch.v (physReg t.arch.rrb n.val)) s t ∧
    Reads s t w .bcast (splatLanes w (4096 / w) ((t.arch.rx s.bs).toNat % 2 ^ w)) s t ∧
    (strmCheck s t z.val false = none →
      (nth {} t.units z.val).ahead.find? (fun a => a.idx = (t.arch.strm z.val).k && decide (a.ready ≤ s.now)) = some e →
      ∃ s1 t1, Reads s t w (.z z) e.val s1 t1 ∧ s1.task s1.at_ = some t1 ∧
        (z.val < t.arch.strms.length → (t1.arch.strm z.val).k = (t.arch.strm z.val).k + 1) ∧
        (∀ k, k ≠ z.val → t1.arch.strm k = t.arch.strm k) ∧ t1.arch.v = t.arch.v ∧ t1.arch.x = t.arch.x ∧ t1.arch.p = t.arch.p) ∧
    (∀ c, strmWaits s t z.val = false → strmCheck s t z.val false = some c →
      ∀ k, readV s t w (.z z) k = .fault { code := c, slot := s.slot.code }) ∧
    (strmCheck s t z.val false = none → (t.arch.strm z.val).mainMem = false →
      (nth {} t.units z.val).ahead.find? (fun a => a.idx = (t.arch.strm z.val).k && decide (a.ready ≤ s.now)) = none →
      ∀ k, readV s t w (.z z) k = if t.timed then .fault { code := 0x0F, slot := s.slot.code } else .stall .stall) ∧
    (let st := t.arch.strm z.val;
      strmCheck s t z.val true = none → st.mainMem = false → t.timed = false → t.sbuf.length + t.fsts.length < 256 →
      z.val < t.arch.strms.length →
      ∃ (s1 : State) (t1 : Task) (a : Access), writeV s t lat (.z z) m val evs = .ok (s1.emit t1 lat
          { dest := .push z.val st.k, val := val &&& spread m, en := m, evs }) ∧
        s1.task s1.at_ = some t1 ∧ s1.calendar = s.calendar ∧ (t1.arch.strm z.val).k = st.k + 1 ∧ t1.sbuf = t.sbuf ++ [a] ∧
        t1.arch.v = t.arch.v ∧ t1.arch.x = t.arch.x ∧ a.op = .write ∧ a.ready = false ∧ a.shape = { base := st.addr st.k } ∧
        a.en = BitVec.allOnes 512) ∧
    writeV s t lat (.v n) m val evs = .ok (s.emit t lat { dest := .v (physReg t.arch.rrb n.val), val, en := m, evs }) ∧
    (t.arch.blk = none → Pushes s t items s t)

/-- R152 to R166, R153: the M-slot operations. While the array is held every one of them raises the array-busy fault 0x11. A
tile load lands its line after 3 cycles, MAFMT the activation format after 1, a beat its row after 12 under the mode its
set bit and path give, a drain reserves a queue entry that its row fills after 1, MCLR and MGCLR clear after 1. Each holds
the array for its time (a beat 4, 2 or 1 cycles by the width of its activation format, every other 1). -/
def Obligations.MatrixOperations : Prop :=
  ∀ (s s1 s2 : State) (t t1 t2 : Task) (p : Fin 16) (k row : Fin 128) (a : Fin 1024) (n : Fin 8) (q : Fin 4)
    (f : Fmt) (rm : Rm) (set : Bool) (src src2 : MSrc) (x y : Vec),
    s.task s.at_ = some t → t.arch.pred p.val = true →
    let held (h : Nat) (u : State) : State := u.modTask s.at_ fun z => { z with mat := { z.mat with heldTo := s.now + h - 1 } }
    let free : Prop := t.mat.heldTo < s.now ∨ t.mat.heldTo = 0
    let counted (rows : List Nat) : State := s.modTask s.at_ fun z => { z with rows := rows }
    let reserve : State × Nat := (s.setTask s.at_ (t.modQueue q.val fun z =>
      { z with ents := z.ents ++ [{ id := z.nextId, ready := s.now + 4, val := 0 }], nextId := z.nextId + 1 }), (t.queue q.val).nextId)
    let drain (d : Dest) (u : State) (v : Task) : State := u.post (u.now + 1) rkDrain (u.now * 16 + 5) (some u.at_)
      (.resultLanding u.at_ (u.landing v { dest := d }))
    (¬free → ∀ i ∈ [Instr.mwldN p k src, .mwldW p k src, .mafmt p f, .mbeat p a set false src, .mbeatt p a set false src,
        .mbeat2 p a set false src, .mdrn p a q f rm, .mclr p a n, .mgbeat p src src2, .mgdrn p row q, .mgclr p],
      exec i s = .next (takeFault s s.at_ { code := 0x11, slot := s.slot.code })) ∧
    (free →
      exec (.mafmt p f) s = .next (held 1 (s.emit t 1 { dest := .afmt, val := BitVec.ofNat 4096 f.code })) ∧
      exec (.mgclr p) s = .next (held 1 (s.emit t 1 { dest := .plane, mode := .zero })) ∧
      (∀ dirW : Bool, srcInt32 t src = false → k.val = 0 ∨ (srcFmt t src = t.mat.ldFmt ∧ dirW = t.mat.ldDirW) →
        ReadsM s t src x s1 t1 → s1.at_ = s.at_ →
        exec (if dirW then .mwldW p k src else .mwldN p k src) s = .next (held 1
          ((s1.modTask s.at_ fun z => { z with mat := { z.mat with ldFmt := srcFmt t src, ldDirW := dirW } }).emit t1 3
            { dest := if dirW then .tileW k.val (srcFmt t src) else .tileN k.val (srcFmt t src), val := x }))) ∧
      (∀ rows, addRows t [a.val] = some { t with rows := rows } → srcInt32 t src = false →
        ReadsM (counted rows) { t with rows := rows } src x s1 t1 → Pushes s1 t1 (beatItem t1 (srcFmt t src) x) s2 t2 →
        ∀ trans : Bool, exec (if trans then .mbeatt p a set false src else .mbeat p a set false src) s = .next (held
          (if fwidth (srcFmt t src) = 32 then 4 else if fwidth (srcFmt t src) = 16 then 2 else 1)
          (s2.emit t2 12 { dest := .acc a.val
                           mode := if set then .beatSet else if intPath t2 (srcFmt t src) then .intBeatAcc else .beatAcc
                           val := ofLanes 32 ((beatDots t2 trans (srcFmt t src) (elems128 (srcFmt t src) x)).map (·.1))
                           val2 := ofLanes 32 ((beatDots t2 trans (srcFmt t src) (elems128 (srcFmt t src) x)).map (·.2)) }))) ∧
      (∀ rows, addRows t [a.val, a.val + 1] = some { t with rows := rows } → srcInt32 t src = false → fwidth (srcFmt t src) = 4 →
        ReadsM (counted rows) { t with rows := rows } src x s1 t1 →
        exec (.mbeat2 p a set false src) s = .next (held 1
          ((s1.emit t1 12 (beatLand t1 a.val set (srcFmt t src) (beatDots t1 false (srcFmt t src) ((lanes 4 256 x).take 128)))).emit t1 12
            (beatLand t1 (a.val + 1) set (srcFmt t src) (beatDots t1 false (srcFmt t src) ((lanes 4 256 x).drop 128)))))) ∧
      ((t.queue q.val).ents.length < 16 →
        exec (.mdrn p a q f rm) s = .next (held 1 (drain (.drain q.val reserve.2 a.val f rm) reserve.1
          (t.modQueue q.val fun z => { z with ents := z.ents ++ [{ id := z.nextId, ready := s.now + 4, val := 0 }], nextId := z.nextId + 1 }))) ∧
        exec (.mgdrn p row q) s = .next (held 1 (drain (.drainPlane q.val reserve.2 row.val) reserve.1
          (t.modQueue q.val fun z => { z with ents := z.ents ++ [{ id := z.nextId, ready := s.now + 4, val := 0 }], nextId := z.nextId + 1 })))) ∧
      (16 ≤ (t.queue q.val).ents.length →
        exec (.mdrn p a q f rm) s = .next (takeFault s s.at_ { code := 0x10, slot := s.slot.code }) ∧
        exec (.mgdrn p row q) s = .next (takeFault s s.at_ { code := 0x10, slot := s.slot.code })) ∧
      (∀ rows, addRows t ((List.range (n.val + 1)).map (a.val + ·)) = some { t with rows := rows } →
        exec (.mclr p a n) s = .next (held 1 (((List.range (n.val + 1)).map (a.val + ·)).foldl
          (fun (st : State) r => st.emit { t with rows := rows } 1 { dest := .acc r, mode := .zero }) (counted rows)))) ∧
      (srcFmt t src = .f32 → srcFmt t src2 = .f32 → ReadsM s t src x s1 t1 → ReadsM s1 t1 src2 y s2 t2 → s2.at_ = s.at_ →
        exec (.mgbeat p src src2) s = .next (held 1 (s2.emit t2 12 { dest := .plane, mode := .mgbeat, val := x, val2 := y })))) ∧
    (∀ v : Vec, t.phase = .running →
      (t.mat.arows.length + t.lateRows.length < 4 → exec (.aRowArrival s.at_ v f) s =
        .next (s.setTask s.at_ { t with mat := { t.mat with arows := t.mat.arows ++ [{ val := v, fmt := f }] } })) ∧
      (4 ≤ t.mat.arows.length + t.lateRows.length → exec (.aRowArrival s.at_ v f) s =
        .next (takeFault s s.at_ { code := 0x14, slot := 5 })))

/-- R185 to R188, R178, R181: the load and store forms, for every operand. Where some byte is accessed, a misaligned address raises the alignment fault, an
illegal byte the bounds fault; otherwise a load reads, and a store is stored from its source, after the form's latency,
and the address is left in the base register where the form says so. -/
def Obligations.LoadsAndStores : Prop :=
  ∀ (s s1 s2 : State) (t t1 : Task) (h : VHdr) (iw : IW) (d : VDst) (src : MSrc) (g vd vi : Fin 64) (xa xs : Fin 32) (off : BitVec 16)
    (off11 : BitVec 11) (pi : Bool) (q : Fin 4) (x : Vec),
    s.task s.at_ = some t → t.arch.pred h.pr.val = true →
    let m := t.arch.rm h.msk.val
    let a64 := (t.arch.rx xa.val + off.signExtend 64 * 64).toNat
    let a4 := (t.arch.rx xa.val + off.signExtend 64 * 4).toNat
    let az := (t.arch.rx xa.val + off11.signExtend 64 * 64).toNat
    let w := iwBytes iw
    let line : Shape := { base := a64 }
    let word : Shape := { base := a4, stride := 0 }
    let str (u : Task) : Shape := { base := az, stride := (u.arch.rx xs.val).toInt, w, n := 512 / w }
    let strOk : Bool := az % w = 0 && (t.arch.rx xs.val).toNat % w = 0
    let legal (sh : Shape) : Prop := accessLegal (s.die s.at_.die) t.launch t.ctl.asid sh m = true
    let bad (i : Instr) (sh : Shape) (aligned : Bool) : Prop :=
      (accessesNone sh m = false → aligned = false → exec i s = .next (takeFault s s.at_ { code := 0x0A, slot := s.slot.code })) ∧
      (aligned = true → ¬legal sh → exec i s = .next (takeFault s s.at_ { code := 0x0B, slot := s.slot.code }))
    let load (i : Instr) (lat : Nat) (sh : Shape) (aligned : Bool) (a : Nat) : Prop :=
      bad i sh aligned ∧ (aligned = true ∨ accessesNone sh m = true → legal sh → loadTo s t lat d sh m = .ok s1 →
        exec i s = .next (if pi then s1.emitX t 1 xa.val (BitVec.ofNat 64 a) else s1))
    let store (i : Instr) (lat : Nat) (sh : Task → Shape) (aligned : Bool) (a : Nat) : Prop :=
      bad i (sh t) aligned ∧ (aligned = true ∨ accessesNone (sh t) m = true → legal (sh t) → ReadsM s t src x s1 t1 → storeFrom s1 t1 lat .write (sh t1) x m = .ok s2 →
        exec i s = .next (if pi then s2.emitX t1 1 xa.val (BitVec.ofNat 64 a) else s2))
    load (.ldv h d xa off pi) 6 line (a64 % 64 = 0) a64 ∧ load (.ldb h d xa off pi) 6 word (a4 % 4 = 0) a4 ∧
    load (.ldvs h iw d xa xs off11 pi) 8 (str t) strOk az ∧
    store (.stv h src xa off pi) 2 (fun _ => line) (a64 % 64 = 0) a64 ∧ store (.stvs h iw src xa xs off11 pi) 4 str strOk az ∧
    bad (.ldg h g xa off pi) line (a64 % 64 = 0) ∧ bad (.stg h g xa off pi) line (a64 % 64 = 0) ∧
    bad (.qst h q xa off pi) line (a64 % 64 = 0) ∧
    (a64 % 64 = 0 → legal line →
      (let u := issueLoad s t 6 line m { dest := .g (physReg t.arch.rrb g.val), en := m } .read;
        exec (.ldg h g xa off pi) s = .next (if pi then u.emitX t 1 xa.val (BitVec.ofNat 64 a64) else u)) ∧
      (storeFrom s t 2 .write line (rd t.arch.g (physReg t.arch.rrb g.val)) m = .ok s1 →
        exec (.stg h g xa off pi) s = .next (if pi then s1.emitX t 1 xa.val (BitVec.ofNat 64 a64) else s1))) ∧
    (let sh : Shape := { base := (t.arch.rx xa.val).toNat, stride := 0, w, n := 128, idx := some (t.arch.rv vi.val) };
      bad (.gath h iw vd xa vi) sh ((t.arch.rx xa.val).toNat % w = 0) ∧
      bad (.scat h iw vd xa vi) sh ((t.arch.rx xa.val).toNat % w = 0) ∧
      ((t.arch.rx xa.val).toNat % w = 0 → legal sh → Pushes s t [t.arch.rv vi.val] s1 t1 →
        exec (.gath h iw vd xa vi) s =
          .next (issueLoad s1 t1 8 sh m { dest := .v (physReg t1.arch.rrb vd.val), en := m } .read) ∧
        (storeFrom s1 t1 4 .write sh (t1.arch.rv vd.val) m = .ok s2 → exec (.scat h iw vd xa vi) s = .next s2) ∧
        (iw = .w32 → storeFrom s1 t1 4 .addF32 sh (t1.arch.rv vd.val) m = .ok s2 → exec (.scata h vd xa vi) s = .next s2)))

/-- R181, R182: a store is withheld in free code until its checkpoint, a 257th entry being the checkpoint-distance fault 0x0C;
in a timed region it performs after its latency; in a replay it has no effect. -/
def Sys2Proof.Claims.StoreIssues : Prop :=
  ∀ (s : State) (t : Task) (sh : Shape) (v : Vec) (m : Mask) (lat : Nat) (aop : AccOp),
    s.task s.at_ = some t →
    (t.arch.walk.mode = .replay → storeFrom s t lat aop sh v m = .ok s) ∧
    (t.arch.walk.mode ≠ .replay → t.timed = false → 256 ≤ t.sbuf.length + t.fsts.length →
      storeFrom s t lat aop sh v m = .fault { code := 0x0C, slot := s.slot.code }) ∧
    (t.arch.walk.mode ≠ .replay → t.timed = false → t.sbuf.length + t.fsts.length < 256 →
      ∃ a : Access, storeFrom s t lat aop sh v m = .ok (s.setTask s.at_ { t with sbuf := t.sbuf ++ [a] }) ∧
        a.op = aop ∧ a.shape = sh ∧ a.data = v ∧ a.en = m ∧ a.lat = lat ∧ a.die = s.at_.die ∧ a.mem = .scratch ∧ a.src = some s.at_) ∧
    (t.arch.walk.mode ≠ .replay → t.timed = true →
      ∃ a : Access, storeFrom s t lat aop sh v m = .ok (s.postAccess (storeDue s s.at_ t a s.now) none a) ∧ a.start = s.now ∧
        a.op = aop ∧ a.shape = sh ∧ a.data = v ∧ a.en = m ∧ a.lat = lat ∧ a.die = s.at_.die ∧ a.mem = .scratch ∧ a.src = some s.at_)

/-- R189, R181, R223: ATOMV at an aligned, legal address posts one access after its latency, in both regimes; at any other the
alignment or the bounds fault. In its perform cycle the access of one element reads its word, leaves the operation's result
there and nothing else, and lands the old word on vr. -/
def Sys2Proof.Claims.AtomicUpdates : Prop :=
  ∀ (s : State) (t : Task) (h : VHdr) (op : Aop) (r vi : Fin 64) (xa : Fin 32),
    s.task s.at_ = some t →
    (t.arch.pred h.pr.val = true →
      let sh : Shape := { base := (t.arch.rx xa.val).toNat, stride := 0, n := 128, idx := some (t.arch.rv vi.val) }
      let mk := t.arch.rm h.msk.val
      let aligned : Bool := (t.arch.rx xa.val).toNat % 4 = 0
      let legal := accessLegal (s.die s.at_.die) t.launch t.ctl.asid sh mk
      (accessesNone sh mk = true ∨ aligned = true ∧ legal = true →
        ∃ a : Access, exec (.atomv h op r xa vi) s =
            .next (s.postAccess (s.now + 8 + placeLat s.at_.core sh.base (s.gcc s.at_ t)) (some s.at_) a) ∧
          a.op = .atom op ∧ a.shape = sh ∧ a.data = t.arch.rv r.val ∧ a.en = mk ∧ a.mem = .scratch ∧ a.cls = .store ∧ a.rev = false ∧
          a.src = some s.at_ ∧ a.die = s.at_.die ∧
          a.land = some (s.landing t { dest := .v (physReg t.arch.rrb r.val), en := mk })) ∧
      (accessesNone sh mk = false → aligned = false →
        exec (.atomv h op r xa vi) s = .next (takeFault s s.at_ { code := 0x0A, slot := s.slot.code })) ∧
      (accessesNone sh mk = false → aligned = true → legal = false →
        exec (.atomv h op r xa vi) s = .next (takeFault s s.at_ { code := 0x0B, slot := s.slot.code }))) ∧
    (∀ (a : Access) (d : Die) (z : Landing) (i x en : Nat),
      a.op = .atom op → a.mem = .scratch → a.cls = .store → a.rev = false → a.src = some s.at_ → a.land = some z → s.memOk = true →
      mget s.dies a.die = some d → d.flips = [] → shadowsOf s a.die a.asid = [] → t.phase ≠ .held →
      (∀ c ∈ t.shadow.carry, c.id ≠ z.id) → resolved s a = [(i, x, en)] →
      let old := Mem.num d.scratch x 4
      let new := atomWord op old (a.data.toNat / 2 ^ (32 * i) % 2 ^ 32)
      ∃ s1 : State, exec (.accessPerform a) s = .next (s1.postLanding s.at_ (Nat.max s.now z.lands)
          { z with val := BitVec.ofNat 4096 (old * 2 ^ (32 * i)), evs := elemEvents [new.2] }) ∧
        s1.calendar = s.calendar ∧ s1.now = s.now ∧ (∀ l, s1.task l = s.task l) ∧
        (∀ b, Mem.rd (s1.die a.die).scratch b = if x ≤ b ∧ b < x + 4 then BitVec.ofNat 8 (new.1 / 2 ^ (8 * (b - x)))
          else Mem.rd d.scratch b) ∧
        (s1.die a.die).dram = d.dram ∧ ∀ e, e ≠ a.die → s1.die e = s.die e)

/-- R165, R190: QPOP and QST take the oldest entry of their queue that is ready: in free code it is counted as popped until the
checkpoint, in a region it leaves at once. QPOP lands it on vd under the mask 3 cycles after issue; QST stores it at its
address and leaves the address in the base register where the form says so. Without a ready entry both raise the queue
fault 0x10, and QST without room in the store buffer the checkpoint-distance fault 0x0C. -/
def Sys2Proof.Claims.QueuePops : Prop :=
  ∀ (s : State) (t : Task) (h : VHdr) (vd : Fin 64) (xa : Fin 32) (off : BitVec 16) (pi : Bool) (q : Fin 4) (e : QEnt),
    s.task s.at_ = some t → t.arch.pred h.pr.val = true →
    let mk := t.arch.rm h.msk.val
    let a64 := (t.arch.rx xa.val + off.signExtend 64 * 64).toNat
    let line : Shape := { base := a64 }
    let legal : Prop := accessesNone line mk = true ∨ a64 % 64 = 0 ∧ accessLegal (s.die s.at_.die) t.launch t.ctl.asid line mk = true
    let head := ((t.queue q.val).ents.drop (t.queue q.val).popped).head?
    let u := t.modQueue q.val fun y => if t.timed then { y with ents := y.ents.drop 1 } else { y with popped := y.popped + 1 }
    let room : Prop := t.arch.walk.mode = .replay ∨ t.timed = true ∨ t.sbuf.length + t.fsts.length < 256
    (head = some e → e.ready ≤ s.now →
      exec (.qpop h vd q) s = .next ((s.setTask s.at_ u).emitV u 3 vd.val e.val mk []) ∧
      (legal → room → ∃ s1 : State, storeFrom (s.setTask s.at_ u) u 2 .write line e.val mk = .ok s1 ∧
        exec (.qst h q xa off pi) s = .next (if pi then s1.emitX u 1 xa.val (BitVec.ofNat 64 a64) else s1)) ∧
      (legal → ¬room → exec (.qst h q xa off pi) s = .next (takeFault s s.at_ { code := 0x0C, slot := s.slot.code }))) ∧
    ((∀ y, head = some y → s.now < y.ready) →
      exec (.qpop h vd q) s = .next (takeFault s s.at_ { code := 0x10, slot := s.slot.code }) ∧
      (legal → exec (.qst h q xa off pi) s = .next (takeFault s s.at_ { code := 0x10, slot := s.slot.code })))

/-- R192, R243: SBIND and SUNB unbind their stream at issue: its binding is clear, no fetch of it is to come, and every store
stays. SBIND then reads the 64 B descriptor as a load of 6 cycles, at an address that is not legal the alignment or the
bounds fault. The landing of a well-formed descriptor binds the stream at its first vector, and a read stream starts to
fetch; any other raises the stream-binding fault 0x0D of the SBIND's bundle. -/
def Sys2Proof.Claims.StreamBindings : Prop :=
  ∀ (s : State) (t : Task) (h : VHdr) (xa : Fin 32) (off : BitVec 16) (z : Fin 8),
    s.task s.at_ = some t →
    (t.arch.pred h.pr.val = true →
      let a := (t.arch.rx xa.val + off.signExtend 64 * 64).toNat
      let sh : Shape := { base := a, n := 16 }
      let m : Mask := BitVec.ofNat 512 (2 ^ 64 - 1)
      let legal := accessLegal (s.die s.at_.die) t.launch t.ctl.asid sh m
      ∃ (s1 : State) (u : Task), exec (.sunb h z) s = .next s1 ∧ s1 = { s with dies := s1.dies, calendar := s1.calendar } ∧
        s1.task s.at_ = some u ∧ u = { t with arch := { t.arch with strms := u.arch.strms }, units := u.units } ∧
        (z.val < t.arch.strms.length → u.arch.strm z.val = {}) ∧ (∀ k, k ≠ z.val → u.arch.strm k = t.arch.strm k) ∧
        (∀ e ∈ s1.calendar, e ∈ s.calendar ∧ e.what ≠ .streamFetch s.at_ z) ∧
        (∀ e ∈ s.calendar, ∀ b, e.what = .accessPerform b → b.op = .write → b.land = none → e ∈ s1.calendar) ∧
        (a % 64 = 0 → legal = true → exec (.sbind h z xa off) s = .next (issueLoad s1 t 6 sh m { dest := .bind z.val } .read)) ∧
        (a % 64 ≠ 0 → exec (.sbind h z xa off) s = .next (takeFault s s.at_ { code := 0x0A, slot := s.slot.code })) ∧
        (a % 64 = 0 → legal = false → exec (.sbind h z xa off) s = .next (takeFault s s.at_ { code := 0x0B, slot := s.slot.code }))) ∧
    (∀ r : Landing, r.dest = .bind z.val → r.evs = [] → t.phase = .running → t.wait ≠ .remote r.id →
      let d : Strm := { valid := true, desc := r.val.setWidth 512 }
      (strmLegal t.timed d = true → ∃ (s1 : State) (u : Task), exec (.resultLanding s.at_ r) s = .next s1 ∧ s1.task s.at_ = some u ∧
        u.arch = { t.arch with strms := u.arch.strms } ∧ (z.val < t.arch.strms.length → u.arch.strm z.val = d) ∧
        (∀ k, k ≠ z.val → u.arch.strm k = t.arch.strm k) ∧
        (d.write = false → ∃ e ∈ s1.calendar, e.due = s.now ∧ e.what = .streamFetch s.at_ z) ∧
        (d.write = true → s1.calendar = s.calendar)) ∧
      (strmLegal t.timed d = false →
        exec (.resultLanding s.at_ r) s = .next (takeFault s s.at_ { code := 0x0D, slot := r.slot, bundle := some r.bundle })))

/-- Stores, atomics, result queues and stream bindings (R165, R181, R182, R189, R190, R192, R223, R243). -/
def Obligations.StoresAtomicsAndQueues : Prop := Sys2Proof.Claims.StoreIssues ∧ Sys2Proof.Claims.AtomicUpdates ∧ Sys2Proof.Claims.QueuePops ∧ Sys2Proof.Claims.StreamBindings

/-- R337 to R339, R334, R335: FSEND, FSENDA, FSENDQ and FRECV in free code raise the illegal-regime fault, in a region at an
address that is not a multiple of 4 the alignment fault, outside the task's own scratch window the bounds fault. With an
UP route, a stamp 1 to 32,767 cycles ahead, fewer than 4 sends waiting and no span in the way a send is scheduled: its
first word departs in the stamped cycle, and the task holds it as pending until its last. FRECV arms a window unless it
overlaps an armed one of the die or would be a 17th. -/
def Obligations.TimedSends : Prop :=
  ∀ (s : State) (t : Task) (p : Fin 16) (dk : Dk) (xa xr : Fin 32) (cnt : Fin 4096) (q : Fin 4) (qn : Fin 16)
    (stamp : BitVec 16) (acc : Bool),
    s.task s.at_ = some t → t.arch.pred p.val = true →
    let l := s.at_
    let a := (t.arch.rx xa.val).toNat
    let r := (t.arch.rx xr.val).toNat
    let words := cnt.val + 1
    let send : Instr := if acc then .fsenda p dk xa xr cnt stamp else .fsend p dk xa xr cnt stamp
    let fails (i : Instr) (c : Nat) : Prop := exec i s = .next (takeFault s l { code := c, slot := s.slot.code })
    (t.timed = false → fails send 0x06 ∧ fails (.fsendq p dk q xr qn stamp) 0x06 ∧ fails (.frecv p xa cnt) 0x06) ∧
    (t.timed = true →
      (a % 4 ≠ 0 ∨ r % 4 ≠ 0 → fails send 0x0A) ∧ (r % 4 ≠ 0 → fails (.fsendq p dk q xr qn stamp) 0x0A) ∧
      (a % 4 ≠ 0 → fails (.frecv p xa cnt) 0x0A) ∧
      (a % 4 = 0 → r % 4 = 0 → ownWindow s l t a (4 * words) = false → fails send 0x0B) ∧
      (a % 4 = 0 → ownWindow s l t a (4 * words) = false → fails (.frecv p xa cnt) 0x0B)) ∧
    (∀ (dst dly : Nat) (h : Nat × Nat) (w : List (Nat × Nat)) (s0 : State) (t0 : Task) (vs : List Vec),
      t.timed = true → r % 4 = 0 → s0.at_ = l → s0.now = s.now → s0.task l = some t0 →
      stampDelay (s0.gcc l t0) stamp.toNat = some dly → dkTarget s0 l t0 dk = some dst → dkRoute s0 l dk dst = some (h :: w) →
      (t0.sends.filter fun x => x.last > s0.now).length < 4 →
      let sends (i : Instr) (n : Nat) (op : AccOp) (src : Option Nat) (ws : List (BitVec 32)) : Prop :=
        let last := s0.now + dly + (n - 1) / wordRate s0 (h :: w);
        (spanClash s0 h.1 h.2 (s0.now + dly) last = none →
          ∃ (s1 : State) (e : Ev) (x : Transfer), exec i s = .next s1 ∧
            s1.task l = some { t0 with sends := (t0.sends.filter fun x => x.last > s0.now) ++ [{ id := x.id, depart := s0.now + dly, last }] } ∧
            e ∈ s1.calendar ∧ e.due = s0.now + dly ∧ e.what = .fabricDeparture x ∧ x.n = n ∧ x.op = op ∧ x.from_ = src ∧ x.words = ws ∧
            x.addr = r ∧ x.dst = dst ∧ x.src = l.die ∧ x.rate = wordRate s0 (h :: w) ∧ x.k = 0) ∧
        (∀ y, spanClash s0 h.1 h.2 (s0.now + dly) last = some y → fails i 0x27);
      (s0 = s → t0 = t → a % 4 = 0 → ownWindow s l t a (4 * words) = true →
        sends send words (if acc then .addF32 else .write) (some a) []) ∧
      (Pops s t q.val (qn.val + 1) vs s0 t0 → spanClash s0 h.1 h.2 (s0.now + dly) (s0.now + dly + (128 * (qn.val + 1) - 1) / wordRate s0 (h :: w)) = none →
        sends (.fsendq p dk q xr qn stamp) (128 * (qn.val + 1)) .write none (vs.flatMap fun v => (lanes 32 128 v).map (BitVec.ofNat 32)))) ∧
    (t.timed = true → a % 4 = 0 → ownWindow s l t a (4 * words) = true →
      let clash : Prop := ∃ w ∈ dieWindows (s.die l.die), w.base < a + 4 * words ∧ a < w.base + 4 * w.words
      (¬clash → t.windows.length < 16 →
        exec (.frecv p xa cnt) s = .next (s.setTask l { t with windows := t.windows ++ [{ base := a, words }] })) ∧
      (clash ∨ 16 ≤ t.windows.length → fails (.frecv p xa cnt) 0x29))

/-- R279, R280: a channel that has no entry, or another user on the die, raises the channel fault 0x1C. PSEND with fewer than 8
vectors outstanding is withheld in free code until the checkpoint, and departs at its stamp in a region; with 8 it stalls
free code and faults a region. PRECV takes the oldest vector of its channel and lands it after 3 cycles; with none, free
code stalls and a region raises fault 0x1D. A vector that arrives in the channel's order enters its buffer. -/
def Obligations.PairedChannels : Prop :=
  ∀ (s : State) (t : Task) (p : Fin 16) (ch : Fin 256) (vr : Fin 64) (g : Bool) (stamp : BitVec 16) (e : BitVec 128) (x : PairVec) (z : Launch),
    s.task s.at_ = some t → t.arch.pred p.val = true →
    let l := s.at_
    let c := s.chan l.die t.launch ch.val
    let fails (i : Instr) (k : Nat) : Prop := exec i s = .next (takeFault s l { code := k, slot := s.slot.code })
    let value := if g then t.arch.rg vr.val else t.arch.rv vr.val
    let waiting := (t.psends.filter fun m => match m.body with | .pair v => v.chan = ch.val | _ => false).length
    let s1 := s.modChan l.die t.launch ch.val fun k => { k with user := some t.ident }
    (chanInBlock s t ch.val = false → fails (.psend p ch vr g stamp) 0x16 ∧ fails (.precv p ch vr g) 0x16) ∧
    (chanInBlock s t ch.val = true → t.arch.walk.mode ≠ .replay →
      (pairEntry s t.launch l.die ch.val = none ∨ (∃ u, c.user = some u ∧ u ≠ t.ident) →
        fails (.psend p ch vr g stamp) 0x1C ∧ fails (.precv p ch vr g) 0x1C) ∧
      (pairEntry s t.launch l.die ch.val = some e → c.user = none ∨ c.user = some t.ident →
        (8 ≤ c.sent + waiting →
          (t.timed = true → fails (.psend p ch vr g stamp) 0x1C) ∧
          (t.timed = false → exec (.psend p ch vr g stamp) s = .next (stallCore s l .stall))) ∧
        (c.sent + waiting < 8 → t.timed = false →
          ∃ m : Counted, exec (.psend p ch vr g stamp) s = .next (s1.modTask l fun u => { u with psends := u.psends ++ [m] }) ∧
            m.body = .pair { dst := pairPeer e, launch := t.launch, chan := ch.val, val := value, src := l.die } ∧
            m.at_ = l.die ∧ m.dst = pairPeer e) ∧
        (∀ dly h w, c.sent + waiting < 8 → t.timed = true → stampDelay (s.gcc l t) stamp.toNat = some dly →
          route s1 timedOk l.die (pairPeer e) = some (h :: w) →
          spanClash s1 h.1 h.2 (s.now + dly) (s.now + dly + 127 / wordRate s1 (h :: w)) = none →
          ∃ (s2 : State) (ev : Ev) (y : Transfer), exec (.psend p ch vr g stamp) s = .next s2 ∧ ev ∈ s2.calendar ∧
            ev.due = s.now + dly ∧ ev.what = .fabricDeparture y ∧ y.pair = some (ch.val, c.nextSend) ∧ y.n = 128 ∧
            y.words = (lanes 32 128 value).map (BitVec.ofNat 32) ∧ y.dst = pairPeer e ∧ s2.task l = some t) ∧
        (c.buf = [] →
          (t.timed = true → fails (.precv p ch vr g) 0x1D) ∧
          (t.timed = false → exec (.precv p ch vr g) s = .next (stallCore s l .stall))) ∧
        (∀ v rest, c.buf = v :: rest → boundaryFrame s t = false →
          ∃ s2 : State, exec (.precv p ch vr g) s = .next (recvLand s2 t vr g v) ∧ s2.task l = some t ∧ s2.now = s.now ∧
            s2.calendar = s.calendar ∧ (s2.chan l.die t.launch ch.val).buf = rest ∧
            (s2.chan l.die t.launch ch.val).user = some t.ident))) ∧
    (s.launch x.launch = some z → z.phase = .running → (mget s.dies x.dst).isSome →
      let b := s.chan x.dst x.launch x.chan
      (b.nextRecv = x.seq → ∃ s2 : State, exec (.pairedVectorArrival x) s = .next s2 ∧
        s2.chan x.dst x.launch x.chan = { b with buf := b.buf ++ [x.val], nextRecv := b.nextRecv + 1 } ∧ s2.calendar = s.calendar) ∧
      (b.nextRecv < x.seq → exec (.pairedVectorArrival x) s = .next (s.postUnit (s.now + 1) rkArrive (.pairedVectorArrival x))))

/-- R321, R322, R231, R314, R318, R320: FLD, FST and FATOM in a region raise the illegal-regime fault, at a misaligned address the
alignment fault, without a translation the translation fault with its cause and address; FATOM through an aperture leaf
without RA the permit fault; on a page that a migrate command holds they stall. A local FLD or FATOM makes its core wait for
the access that performs it, a remote one for the answer to its request, and the FSTs that the task withholds leave before
it; FST is withheld in the store buffer until the checkpoint, its remote form with the task. -/
def Obligations.VirtualAccesses : Prop :=
  ∀ (s : State) (t : Task) (p : Fin 16) (op : Aop) (vd : Fin 64) (xa : Fin 32),
    s.task s.at_ = some t → t.arch.pred p.val = true →
    let l := s.at_
    let va := (t.arch.rx xa.val).toNat
    let value := t.arch.rv vd.val
    let dest : Dest := .v (physReg t.arch.rrb vd.val)
    let fails (i : Instr) (k : Nat) : Prop := exec i s = .next (takeFault s l { code := k, slot := s.slot.code })
    let cannot (i : Instr) (k : Nat) : Prop := exec i s = .next (takeFault s l { code := 0x20, slot := s.slot.code, va := some va, cause := k })
    let x (r w : Bool) : Xlate := xlate s l.die t.ctl.asid va r w
    let left (s1 : State) (id : Nat) (own : List (Nat × Nat)) : Prop :=
      (∃ u : Task, s1.task l = some u ∧ u = { t with wait := .remote id, sbuf := t.sbuf.filter (fun y => y.cls != .remote), fsts := []
                                                     rems := t.rems ++ t.fsts.map (fun y => (y.dst, y.id)) ++ own, wpend := u.wpend } ∧
        ((∀ y ∈ t.sbuf, y.cls = .remote → y.ready = true) → u.wpend = t.wpend)) ∧
      (∀ y ∈ t.fsts, ∃ e ∈ s1.calendar, ∃ m, e.what = .countedFlitArrival m true ∧ m.body = .request y ∧ m.dst = y.dst) ∧
      (∀ y ∈ t.sbuf, y.cls = .remote → y.ready = true → ∃ e ∈ s1.calendar, e.what = .accessPerform { y with start := s.now })
    let here (i : Instr) (aop : AccOp) (n : Nat) (data : Vec) (en : Mask) : Prop :=
      ∃ (s1 : State) (e : Ev) (a : Access) (r : Landing), exec i s = .next s1 ∧ left s1 r.id [] ∧ e ∈ s1.calendar ∧ s.now < e.due ∧
        e.what = .accessPerform a ∧ a.op = aop ∧ a.mem = .virt ∧ a.die = l.die ∧ a.asid = t.ctl.asid ∧ a.shape.base = va ∧ a.shape.n = n ∧
        a.data = data ∧ a.land = some r ∧ r.dest = dest ∧ r.en = en
    let asks (i : Instr) (k : Option (Option Aop)) (data : Vec) (b : BitVec 128) : Prop :=
      ∃ (s1 : State) (e : Ev) (m : Counted) (q : ApReq) (r : Landing), exec i s = .next s1 ∧
        left s1 q.id [(apDie b, q.id)] ∧ e ∈ s1.calendar ∧ e.what = .countedFlitArrival m true ∧ m.body = .request q ∧ m.at_ = l.die ∧ m.dst = apDie b ∧ q.dst = apDie b ∧ q.tasid = apAsid b ∧
        q.va = (va + apOffset b) % 2 ^ 52 ∧ q.sva = va ∧ q.kind = k ∧ q.data = data ∧ q.land = some r ∧ r.dest = dest ∧ r.id = q.id
    (t.timed = true → fails (.fld p vd xa) 0x06 ∧ fails (.fst p vd xa) 0x06 ∧ fails (.fatom p op vd xa) 0x06) ∧
    (t.timed = false →
      (va % 512 ≠ 0 → fails (.fld p vd xa) 0x0A ∧ fails (.fst p vd xa) 0x0A) ∧ (va % 4 ≠ 0 → fails (.fatom p op vd xa) 0x0A) ∧
      (va % 512 = 0 → held s l.die t.ctl.asid va 512 = true →
        exec (.fld p vd xa) s = .next (stallCore s l .stall) ∧ exec (.fst p vd xa) s = .next (stallCore s l .stall)) ∧
      (va % 4 = 0 → held s l.die t.ctl.asid va 4 = true → exec (.fatom p op vd xa) s = .next (stallCore s l .stall)) ∧
      (va % 512 = 0 → held s l.die t.ctl.asid va 512 = false →
        (∀ k, x true false = .bad k → cannot (.fld p vd xa) k) ∧ (∀ k, x false true = .bad k → cannot (.fst p vd xa) k) ∧
        (∀ d, x true false = .dpa d → here (.fld p vd xa) .read 128 0 (BitVec.allOnes 512)) ∧
        (∀ b ra, x true false = .away b ra → asks (.fld p vd xa) none 0 b) ∧
        (∀ d, x false true = .dpa d → t.sbuf.length + t.fsts.length < 256 →
          ∃ (s1 : State) (a : Access), exec (.fst p vd xa) s = .next s1 ∧ s1.task l = some { t with sbuf := t.sbuf ++ [a] } ∧
            s1.calendar = s.calendar ∧ a.op = .write ∧ a.mem = .virt ∧ a.shape = { base := va } ∧ a.data = value ∧ a.die = l.die) ∧
        (∀ b ra, x false true = .away b ra → t.sbuf.length + t.fsts.length < 256 →
          ∃ (s1 : State) (q : ApReq), exec (.fst p vd xa) s = .next s1 ∧ s1.task l = some { t with fsts := t.fsts ++ [q] } ∧
            s1.calendar = s.calendar ∧ q.dst = apDie b ∧ q.va = (va + apOffset b) % 2 ^ 52 ∧ q.sva = va ∧ q.kind = some none ∧ q.data = value) ∧
        ((∀ k, x false true ≠ .bad k) → 256 ≤ t.sbuf.length + t.fsts.length → fails (.fst p vd xa) 0x0C)) ∧
      (va % 4 = 0 → held s l.die t.ctl.asid va 4 = false →
        (∀ k, x true true = .bad k → cannot (.fatom p op vd xa) k) ∧
        (∀ d, x true true = .dpa d → here (.fatom p op vd xa) (.atom op) 1 value (BitVec.ofNat 512 15)) ∧
        (∀ b, x true true = .away b true → asks (.fatom p op vd xa) (some (some op)) value b) ∧
        (∀ b, x true true = .away b false →
          exec (.fatom p op vd xa) s = .next (takeFault s l { code := 0x21, slot := s.slot.code, va := some va }))))

/-- R207, R208, R211 to R213, R353, R402: the engine commands at issue. MCPY, FARS and FARR in a region raise the
illegal-regime fault; a counter that the context has not, the counter fault 0x22 (UPD checks its norm counter and its
completion counter, the next one). A count of 0 only increments the counter, 2 cycles after issue. In free code MCPY, NORM,
UPD, FARS and FARR stand in the die's table and their core waits for the acceptance; in a region NORM and UPD enter the Ox
queue, a 17th raising the region-rule fault. MBULK is checked and starts at issue: in free code not before its tag is free
and past the refresh window it would meet, in a region those raise the bulk-timing fault 0x23; it stalls on a page that a
migrate command holds. -/
def Obligations.EngineCommandsIssue : Prop :=
  ∀ (s : State) (t : Task) (h : FeHdr) (tag : Fin 64) (xv : Fin 32) (port : Fin 2),
    s.task s.at_ = some t → t.arch.pred h.pr.val = true →
    let l := s.at_
    let die := l.die
    let n := (t.arch.rx h.xc.val).toNat
    let id := (s.die die).nextCmd
    let ok (cc : Nat) : Bool := counterOk s die t.ctl.asid cc
    let fails (i : Instr) (c : Nat) : Prop := exec i s = .next (takeFault s l { code := c, slot := s.slot.code })
    let mcpy := newCmd s t .mcpy h h.cc.val
    let mbulk := { newCmd s t .mbulk h h.cc.val with aux := tag.val }
    let norm := newCmd s t .norm h h.cc.val
    let upd := { newCmd s t .upd h ((h.cc.val + 1) % 256) with aux := h.cc.val, xv := (t.arch.rx xv.val).toNat % 2 ^ 32 }
    let fars := { newCmd s t .fars h h.cc.val with aux := port.val }
    let farr := { newCmd s t .farr h h.cc.val with aux := port.val }
    let zero (i : Instr) (c : Cmd) : Prop := n = 0 → exec i s = .next ((s.modDie die fun d =>
      { d with cmds := mset d.cmds d.nextCmd { c with acc := true }, nextCmd := d.nextCmd + 1 }).postUnit (s.now + 2) rkCount (.zeroCountCompletion die id))
    let waits (i : Instr) (c : Cmd) : Prop := n ≠ 0 → t.timed = false →
      ∃ (s1 : State) (e : Ev), exec i s = .next s1 ∧ s1.task l = some { t with wait := .accept } ∧ s1.cmd die id = some c ∧
        e ∈ s1.calendar ∧ s.now < e.due ∧ e.place = l ∧ e.what = .commandAcceptance
    let queues (i : Instr) (c : Cmd) : Prop := n ≠ 0 → t.timed = true →
      ((s.die die).oxq.length < 16 → ∃ s1 : State, exec i s = .next (s1.postCore l (s.now + 1) rkRead .commandAcceptance) ∧
        s1.task l = some t ∧ s1.cmd die id = some { c with from_ := s.now + 8 } ∧ (s1.die die).oxq = (s.die die).oxq ++ [id]) ∧
      (16 ≤ (s.die die).oxq.length → fails i 0x09)
    (t.timed = true → fails (.mcpy h) 0x06 ∧ fails (.fars h port) 0x06 ∧ fails (.farr h port) 0x06) ∧
    (ok h.cc.val = false → fails (.mbulk h tag) 0x22 ∧ fails (.norm h) 0x22 ∧ fails (.upd h xv) 0x22 ∧
      (t.timed = false → fails (.mcpy h) 0x22 ∧ fails (.fars h port) 0x22 ∧ fails (.farr h port) 0x22)) ∧
    (ok ((h.cc.val + 1) % 256) = false → fails (.upd h xv) 0x22) ∧
    (ok h.cc.val = true →
      (t.timed = false → zero (.mcpy h) mcpy ∧ waits (.mcpy h) mcpy ∧ zero (.fars h port) fars ∧ waits (.fars h port) fars ∧
        zero (.farr h port) farr ∧ waits (.farr h port) farr) ∧
      zero (.mbulk h tag) mbulk ∧ zero (.norm h) norm ∧ waits (.norm h) norm ∧ queues (.norm h) norm ∧
      (ok ((h.cc.val + 1) % 256) = true → zero (.upd h xv) upd ∧ waits (.upd h xv) upd ∧ queues (.upd h xv) upd) ∧
      (∀ k, n ≠ 0 → cmdDesc s mbulk = .error k → fails (.mbulk h tag) k) ∧
      (∀ d q, n ≠ 0 → cmdDesc s mbulk = .ok d → mbulkCheck s mbulk d = .error q → exec (.mbulk h tag) s = .next (takeFault s l q)) ∧
      (∀ d c1 dpa s1, n ≠ 0 → cmdDesc s mbulk = .ok d → mbulkCheck s mbulk d = .ok (c1, dpa) →
        let u := (s1.addCmd die c1).2
        (bulkReserve s die t.launch tag.val dpa = none → fails (.mbulk h tag) 0x22) ∧
        (bulkReserve s die t.launch tag.val dpa = some s1 →
          (cmdHeld s c1 = true → exec (.mbulk h tag) s = .next (stallCore s l .stall)) ∧
          (cmdHeld s c1 = false → t.timed = true →
            (meetsRefresh (s.gcc l t) (640 + 6 * (n - 1)) = true ∨ s.now < bulkFree (s.die die) (dpaStack dpa) tag.val →
              fails (.mbulk h tag) 0x23) ∧
            (meetsRefresh (s.gcc l t) (640 + 6 * (n - 1)) = false → bulkFree (s.die die) (dpaStack dpa) tag.val ≤ s.now →
              exec (.mbulk h tag) s = .next (startMbulk u id c1 s.now dpa))) ∧
          (cmdHeld s c1 = false → t.timed = false →
            s.now ≤ bulkStart s1 c1 dpa ∧ bulkFree (s1.die c1.loc.die) (dpaStack dpa) c1.aux ≤ bulkStart s1 c1 dpa ∧
            exec (.mbulk h tag) s = .next (startMbulk (tlbFill u die t.ctl.asid (if c1.shdw.isSome then c1.src else c1.dst)) id c1
              (bulkStart s1 c1 dpa) dpa)))))

/-- R207 to R209, R213, R214, R216, R219: the acceptance of a command. A fault leaves none of it; a full queue makes the core wait
on; an accepted one of free code is followed by the checkpoint and the next bundle. A guard that does not match the
descriptor is the guard fault 0x1E. A finished command increments its counter once and leaves the table, after the
earlier commands of its task and counter. An MBULK block performs in its row, or moves from it to the scratchpad in the
same cycle. MCLOSE releases its tag's bank after the last block. -/
def Obligations.CommandsAcceptedAndComplete : Prop :=
  ∀ (s : State) (t : Task) (id k : Nat) (c : Cmd) (p : Fin 16) (st : Fin 4) (tag : Fin 64),
    s.task s.at_ = some t →
    let l := s.at_
    let die := l.die
    (pendingCmd (s.die die) l = some (id, c) → t.phase = .running → c.timed = true ∨ t.wait = .accept →
      (∀ q, acceptCmd s id c = .error q → exec .commandAcceptance s = .next (takeFault (s.dropCmd die id) l q)) ∧
      (acceptCmd s id c = .ok none →
        exec .commandAcceptance s = .next (s.postCore l (s.now + 1) rkIssue .commandAcceptance)) ∧
      (∀ s1, acceptCmd s id c = .ok (some s1) → exec .commandAcceptance s = .next (if c.timed then s1
        else ((checkpoint (delayCore s1 l) l).modTask l fun u => { u with wait := .none }).postIssue (s.now + 1) l))) ∧
    (engineRange (s.die c.loc.die) c.asid c.xa 64 = true →
      dfield (BitVec.ofNat 512 (readScratch s c.loc.die c.asid c.xa 64)) 56 8 ≠ c.guard.toNat →
      acceptCmd s id c = .error { code := 0x1E, slot := 7, bundle := some c.bundle }) ∧
    (∀ i, i = Instr.zeroCountCompletion die id ∨ i = .muleCommandComplete die id → (s.die die).ox = none →
      ((s.die die).cmds = [(id, c)] → ∃ s1 : State, exec i s = .next s1 ∧ (s1.die die).cmds = [] ∧
        (∀ k, k ≠ c.cc → counterVal s1 die k = counterVal s die k) ∧
        ((mget (s.die die).counters c.cc).isSome → counterVal s1 die c.cc = Nat.min (counterVal s die c.cc + 1) (2 ^ 32 - 1)) ∧
        s1.task l = some t) ∧
      (∀ (j : Nat) (b : Cmd), (s.die die).cmds = [(j, b), (id, c)] → j < id → b.done = false → b.loc = c.loc → b.launch = c.launch →
        b.team = c.team → b.cc = c.cc → ∃ s1 : State, exec i s = .next s1 ∧ s1.cmd die id = some { c with done := true } ∧
          counterVal s1 die c.cc = counterVal s die c.cc)) ∧
    (s.cmd die id = some c →
      (∀ v, c.shdw = none → mget c.buf k = some v → exec (.mbulkBlock die id k) s =
        .next (performWrite s (blockWrite c id .virt 16 (c.dst + 64 * k) v (BitVec.allOnes 512)))) ∧
      (let a := { blockAccess c id .virt (c.src + 64 * k) k with op := .read };
        let u := correctAccess s a
        c.shdw.isSome → readPoison u a = none → exec (.mbulkBlock die id k) s = .next (u.postAccess s.now none
          (blockWrite c id .scratch 26 (c.dst + 64 * k) ((readValue u a).setWidth 512) (BitVec.allOnes 512))))) ∧
    (t.arch.pred p.val = true →
      let held := (s.die die).reserves.find? fun r => r.stack = st.val && r.tag = tag.val
      (tagAllocated s t.launch st.val tag.val = false →
        exec (.mclose p st tag) s = .next (takeFault s l { code := 0x22, slot := s.slot.code })) ∧
      (tagAllocated s t.launch st.val tag.val = true →
        (held = none → exec (.mclose p st tag) s = .next s) ∧
        (∀ r, held = some r → exec (.mclose p st tag) s = .next (s.postAt l
          (if s.now ≤ r.lastBlock ∧ 0 < r.lastCount then r.lastBlock + 1 else s.now) rkCount s.seq none (.mcloseRelease die st.val tag.val))))) ∧
    (∃ s1 : State, exec (.mcloseRelease die st.val tag.val) s = .next s1 ∧ s1.task l = some t ∧ s1.calendar = s.calendar ∧
      ∀ r, r ∈ (s1.die die).reserves ↔ r ∈ (s.die die).reserves ∧ ¬(r.stack = st.val ∧ r.tag = tag.val))

/-- R395 to R398, R227, R228, R235, R237, R344: CINC adds its immediate to the counter, 4 cycles after issue in a region, in free
code not before the stores its checkpoint releases have performed; a counter stops at its highest value. CWAIT below the
value waits in free code and raises the region-rule fault in a region. PUBL swaps its entries 4 cycles after issue. FENCE
in free code waits until nothing of its class is to come, and in a region raises the fence fault 0x25 unless that holds at issue.
TTGO arms the chunks from RC on and starts the walker. -/
def Obligations.CountersFencesPublication : Prop :=
  ∀ (s : State) (t : Task) (p : Fin 16) (cc : Fin 256) (imm : BitVec 16) (xv : Fin 32) (kind : FKind) (sc : FScope) (stamp : BitVec 16)
    (die n : Nat) (y : Counter),
    s.task s.at_ = some t → t.arch.pred p.val = true → t.arch.walk.mode ≠ .replay →
    let l := s.at_
    let x := (t.arch.rx xv.val).toNat
    let fails (i : Instr) (c : Nat) : Prop := exec i s = .next (takeFault s l { code := c, slot := s.slot.code })
    (counterOk s l.die t.ctl.asid cc.val = false → fails (.cinc p cc imm) 0x22 ∧ fails (.cwait p cc xv) 0x22) ∧
    (counterOk s l.die t.ctl.asid cc.val = true →
      (∃ due, exec (.cinc p cc imm) s = .next (s.postAt l due rkCount s.seq none (.cincApply l.die cc.val imm.toNat)) ∧
        s.now + 4 ≤ due ∧ (t.timed = true → due = s.now + 4) ∧ (t.timed = false → releaseBound s l t ≤ due)) ∧
      (x % 2 ^ 32 ≤ counterVal s l.die cc.val → exec (.cwait p cc xv) s = .next s) ∧
      (counterVal s l.die cc.val < x % 2 ^ 32 →
        (t.timed = true → fails (.cwait p cc xv) 0x09) ∧
        (t.timed = false → exec (.cwait p cc xv) s = .next (stallCore s l .cwait)))) ∧
    (mget (s.die die).counters cc.val = some y → ∃ s1 : State, exec (.cincApply die cc.val n) s = .next s1 ∧
      mget (s1.die die).counters cc.val = some { y with val := Nat.min (y.val + n) (2 ^ 32 - 1) } ∧
      (∀ k, k ≠ cc.val → mget (s1.die die).counters k = mget (s.die die).counters k) ∧ s1.task l = some t) ∧
    (t.wait = .cwait → t.phase = .running → exec .cwaitSatisfied s = .next (retry s l)) ∧
    (t.timed = true → exec (.fence p kind sc) s =
      .next (if fenceAhead s l t kind sc then takeFault s l { code := 0x25, slot := s.slot.code } else s)) ∧
    (t.timed = false → exec (.fence p kind sc) s =
      .next ((s.modTask l fun u => { u with wait := .fence kind sc }).postCore l s.now (rkSwap + 1) .fenceComplete)) ∧
    (let u := if t.lastAt < s.now then delayCore s l else s;
      t.wait = .fence kind sc → t.phase = .running → exec .fenceComplete s =
      .next (if fenceAhead s l t kind sc then u.postCore l (s.now + 1) (rkSwap + 1) .fenceComplete
        else (u.modTask l fun u => { u with wait := .none }).postIssue (s.now + 1) l)) ∧
    (let e := x % 4096; let m := x / 4096 + 1; let es := (List.range m).map (e + ·);
      (x ≥ 2 ^ 24 ∨ e + m > 4096 ∨ (∃ i ∈ es, shadowEntry s l.die t.ctl.asid i = none) → fails (.publ p xv) 0x24) ∧
      (x < 2 ^ 24 → e + m ≤ 4096 → (∀ i ∈ es, (shadowEntry s l.die t.ctl.asid i).isSome) →
        ((∃ i ∈ es, writePending s l.die t.ctl.asid i none = true) →
          (t.timed = true → fails (.publ p xv) 0x24) ∧ (t.timed = false → exec (.publ p xv) s = .next (stallCore s l .stall))) ∧
        ((∀ i ∈ es, writePending s l.die t.ctl.asid i none = false) → ∃ a : Access,
          exec (.publ p xv) s = .next (s.postAccess (s.now + 4) none a) ∧ a.op = .publish e m ∧ a.die = l.die ∧ a.asid = t.ctl.asid ∧
          ∀ (u : State) (y : Context), u.ctx l.die t.ctl.asid = some y → ∃ (u1 : State) (z : Context), exec (.accessPerform a) u = .next u1 ∧
            u1.ctx l.die t.ctl.asid = some z ∧
            z.shadows = y.shadows.map fun k => if e ≤ k.1 ∧ k.1 < e + m then (k.1, swapEntry k.2) else k))) ∧
    (t.timed = false → fails (.ttgo p xv stamp) 0x06) ∧
    (t.timed = true → mget (s.die l.die).tts (x % 4096) = none → fails (.ttgo p xv stamp) 0x2A) ∧
    (∀ tt dly ts, t.timed = true → mget (s.die l.die).tts (x % 4096) = some tt → stampDelay (s.gcc l t) stamp.toNat = some dly →
      let w : WalkerSt := { tt := x % 4096, s0 := s.now + dly, rc := x / 2 ^ 16 % 4096, next := 0, loc := l, launch := t.launch, id0 := s.seq }
      (tt.asid ≠ t.ctl.asid ∨ x / 2 ^ 12 % 16 ≠ 0 ∨ 2 ^ 28 ≤ x ∨ (s.die l.die).walker.isSome ∨ (s.gcc l t + dly) % 16384 ≠ tt.phase →
        fails (.ttgo p xv stamp) 0x2A) ∧
      (tt.asid = t.ctl.asid → x / 2 ^ 12 % 16 = 0 → x < 2 ^ 28 → (s.die l.die).walker = none → (s.gcc l t + dly) % 16384 = tt.phase →
        (∀ k, walkerTransfers s l.die w tt = .error k → fails (.ttgo p xv stamp) k) ∧
        (walkerTransfers s l.die w tt = .ok ts →
          (∀ z ∈ ts, ∀ f, firstSpan z.2 = some f → spanClash s l.die f.1 f.2.1 f.2.2 = none) →
          ∃ (s1 : State) (w1 : WalkerSt), exec (.ttgo p xv stamp) s = .next s1 ∧ (s1.die l.die).walker = some w1 ∧ w1 = { w with last := w1.last } ∧
            (s1.die l.die).ttRun = some (x % 4096) ∧ s1.task l = some t ∧
            (∀ i, w.rc ≤ i → i < tt.chunks.length → mget (s1.die l.die).chunks i = some { armed := true }) ∧
            (∀ i, i < w.rc ∨ tt.chunks.length ≤ i → mget (s1.die l.die).chunks i = mget (s.die l.die).chunks i))))

/-- A step runs the decoded instruction. A step takes the calendar's first event at its cycle and place; with none it halts. A
bundle word of a running task that decodes to one operation and NOPs, outside a block and a null level, within the
current limit: the operation is `exec` of that instruction in that slot, and what follows it is the end of the bundle;
the fetch then advances by R38. An operation that faults is taken as the bundle's fault, one that stalls holds it. -/
def Obligations.StepRunsDecoded : Prop :=
  ∀ (s : State) (t : Task) (w : Bundle) (b : Bundled) (sl : Slot) (i : Instr),
    (s.calendar = [] → step s = .fault .halted) ∧
    (∀ e r, s.calendar = e :: r → step s = exec e.what { s with calendar := r, now := Nat.max s.now e.due, at_ := e.place }) ∧
    (let l := s.at_;
      s.task l = some t → t.phase = .running → t.wait = .none → t.arch.blk = none → t.arch.fresh = [] → inNull t.arch = false →
      t.stop = .none ∨ t.atPoint = false → (taskImage s l t).text[t.fetch.pc]? = some w → decodeBundle w.toNat = .ok b →
      b.ops.filter (fun o => !o.2.isNop) = [(sl, i)] → b.hdr.le = false → liveOp t i = true →
      bundleWeight t b.ops + ((liveWeights s.now t.weights).map (·.2)).sum ≤ t.ctl.curlim → bundleFaults s l t b (issueOrder b.ops) (issueOrder b.ops) = none →
      let s0 : State := { s with slot := .rp, bs := if b.hdr.bc then b.hdr.bs else 0 }
      let si : State := { s0.setTask l t with slot := sl }
      (∀ s1, slotIssue i si t = .ok s1 → exec i si = .next s1 ∧ exec .bundleIssue s = .next (finishBundle s1 l t b false (issueOrder b.ops) none) ∧
        ∀ t1, s1.task l = some t1 → t1.wait = .none → t.stop = .none → t1.stop = .none → t.arch.walk.mode = .idle → t1.arch.walk.mode ≠ .replay →
          t1.arch.blk = none → ∃ (s2 : State) (u : Task), exec .bundleIssue s = .next (s2.postIssue (s1.now + 1) l) ∧ s2.now = s1.now ∧
            s2.task l = some u ∧ u.fetch = advanceFetch t1.fetch none ∧ u.arch = t1.arch) ∧
      (∀ q, slotIssue i si t = .fault q → exec i si = .next (takeFault si l q) ∧ exec .bundleIssue s = .next (takeFault s0 l q)) ∧
      (∀ v, slotIssue i si t = .stall v → exec i si = .next (stallCore si l v) ∧ exec .bundleIssue s = .next (holdBundle s0 l t v)))

/-- R36, R38, R170, R20, R243, R244: an index without a bundle raises fault 0x03, an illegal bundle fault 0x01, one above the
current limit fault 0x17 in a region and a frozen cycle in free code. A core held by a stall, a wait or its first cycle tries
its bundle; one that waits for an acceptance or a remote value stalls on. A read stream's fetch reads its next vector
after the scratchpad latency, one in main memory through its Mule, and the next follows a cycle later; a page that does not
translate or is held makes it look again. The Mule writes the oldest vector of a drain buffer through its port, once main
memory lets it. A stop asked for takes a core whose bundle was a pre-emption point behind its wait. -/
def Obligations.CoreEvents : Prop :=
  ∀ (s : State) (t : Task) (z : Fin 8),
    s.task s.at_ = some t → t.phase = .running →
    let l := s.at_
    let go (u : State) : Prop := u.at_ = l ∧ u.task l = some { t with wait := .none } ∧ u.calendar = s.calendar ∧ u.now = s.now
    (t.wait = .none → exec .bundleIssue s = .next (attempt s l)) ∧
    (t.wait = .start ∨ t.wait = .barHold → ∃ u, go u ∧ exec .bundleIssue s = .next (attempt u l)) ∧
    (t.wait = .stall ∨ (∃ b, t.wait = .bar b) → ∃ u, go u ∧ exec .stallEnd s = .next (attempt u l)) ∧
    ((∃ e, t.wait = .wfe e) → ∃ u, go u ∧ exec .wfeWake s = .next (attempt u l)) ∧
    (t.wait = .cwait → ∃ u, go u ∧ exec .cwaitSatisfied s = .next (attempt u l)) ∧
    (t.wait = .accept ∨ (∃ k, t.wait = .remote k) → exec .stallEnd s = .next ((delayCore s l).postRetry (s.now + 1) l)) ∧
    (t.arch.walk.mode = .replay → exec .replayPosition s = .next (attempt s l)) ∧
    (t.stop ≠ .none → t.atPoint = true → attempt s l = s.postCore l s.now rkCount .taskStop) ∧
    (t.stop = .none ∨ t.atPoint = false → (taskImage s l t).text[t.fetch.pc]? = none →
      attempt s l = takeFault s l { code := 0x03, slot := 9 }) ∧
    (∀ w, t.stop = .none ∨ t.atPoint = false → (taskImage s l t).text[t.fetch.pc]? = some w →
      (∀ k, decodeBundle w.toNat = .error k → attempt s l = takeFault s l { code := 0x01, slot := 9 }) ∧
      (∀ b, decodeBundle w.toNat = .ok b →
        let ops := if inNull t.arch then [] else b.ops
        t.ctl.curlim < bundleWeight t ops + ((liveWeights s.now t.weights).map (·.2)).sum →
        (t.timed = true → attempt s l = takeFault s l { code := 0x17, slot := 9 }) ∧
        (t.timed = false → ∃ u : State, attempt s l = holdBundle u l { t with stop := .none } .stall ∧
          u.task l = some { t with ctl := { t.ctl with frzcnt := (t.ctl.frzcnt + 1) % 2 ^ 64 } }))) ∧
    (let st := t.arch.strm z.val; let u := nth {} t.units z.val;
      t.units.length = 8 →
      (st.valid = true → st.write = false → st.mainMem = false → u.next < st.length → u.next < st.k + 4 →
        ∃ (s1 : State) (a : Access) (v : Task), exec (.streamFetch l z) s =
          .next ((s1.postAccess (s.now + (6 + placeLat l.core (st.addr u.next) (s.gcc l t))) none a).postUnit (s.now + 1) rkDrain (.streamFetch l z)) ∧
          a.op = .fetch z.val u.next ∧ a.shape = { base := st.addr u.next } ∧ a.mem = .scratch ∧ a.src = some l ∧
          s1.task l = some v ∧ (nth {} v.units z.val).next = u.next + 1 ∧ v.arch = t.arch ∧ s1.calendar = s.calendar) ∧
      (st.valid = false ∨ st.length ≤ u.next ∨ st.k + 4 ≤ u.next →
        exec (.streamFetch l z) s = .next (s.setTask l (t.modUnit z.val fun x => { x with busy := false }))) ∧
      (st.valid = true → st.write = false → st.mainMem = true → u.next < st.length → u.next < st.k + 4 → u.mule.isSome →
        let served : Prop := pagesCause s l.die t.ctl.asid (newPages u (st.addr u.next)) true false = none ∧
          held s l.die t.ctl.asid (st.addr u.next) 512 = false
        (served → ∃ (s1 : State) (a : Access) (v : Task) (due : Nat), exec (.streamFetch l z) s =
          .next ((s1.postAccess due none a).postUnit (s.now + 1) rkDrain (.streamFetch l z)) ∧ s.now < due ∧
          a.op = .fetch z.val u.next ∧ a.shape = { base := st.addr u.next } ∧ a.mem = .virt ∧ a.asid = t.ctl.asid ∧ a.src = some l ∧
          s1.task l = some v ∧ (nth {} v.units z.val).next = u.next + 1 ∧ v.arch = t.arch ∧ s1.calendar = s.calendar) ∧
        (¬served → ∃ (s1 : State) (due : Nat), exec (.streamFetch l z) s = .next (s1.postUnit due rkDrain (.streamFetch l z)) ∧ s.now < due ∧
          s1.task l = some t ∧ s1.calendar = s.calendar)) ∧
      (let s0 := (enterMule s l z.val).nextFree.2;
        ∀ (t0 : Task) (k addr m : Nat) (v : Vec), s0.task l = some t0 → (nth {} t0.units z.val).mule = some m →
        (nth {} t0.units z.val).drain = [(k, addr, some v)] →
        let a : Access := { die := l.die, mem := .virt, op := .write, shape := { base := addr }, data := v, port := m, asid := t0.ctl.asid
                            launch := t0.launch, src := some l, issued := s.now, cls := .store }
        (memWait s0 a = 0 → ∃ (s1 : State) (v1 : Task), exec (.muleStreamTransfer l z) s = .next (s1.postAccess s.now none a) ∧
          s1.task l = some v1 ∧ v1.arch = t0.arch ∧ (nth {} v1.units z.val).drain = [] ∧ s1.calendar = s.calendar) ∧
        (0 < memWait s0 a → exec (.muleStreamTransfer l z) s =
          .next (s0.postUnit (s.now + memWait s0 a) rkRead (.muleStreamTransfer l z)))))

/-- R263, R271 to R273, R276, R282: RPUSH takes 512 bytes at TOP for its register, outside a block as a loose item, in one as an item
of its frame, and writes them 2 cycles later; no room is a fault or a stall. RPOP lands the loose item on top after 6
cycles; a frame on top is fault 0x18, an open block 0x16. RDROP discards whole frames, their bytes in the CXL tier
included; a loose item among them is fault 0x18. -/
def Sys2Proof.Claims.LooseItems : Prop :=
  ∀ (s : State) (t : Task) (p : Fin 16) (vr : Fin 64) (g : Bool) (n16 : Fin 16) (r : Landing) (o : Nat),
    s.task s.at_ = some t → t.arch.pred p.val = true →
    let l := s.at_
    let m := (s.die l.die).scratch
    let fs := t.arch.frames
    let fails (i : Instr) (c : Nat) : Prop := exec i s = .next (takeFault s l { code := c, slot := s.slot.code })
    let taken (i : Instr) (x : Option Res) : Prop := (∀ q, x = some (.fault q) → exec i s = .next (takeFault s l q)) ∧
      (∀ v, x = some (.stall v) → exec i s = .next (stallCore s l v))
    let same (s1 : State) : Prop := s1.calendar = s.calendar ∧ s1.now = s.now ∧ (s1.die l.die).scratch = m ∧
      (s1.die l.die).dram = (s.die l.die).dram
    let loose := t.arch.blk = none
    let t1 := if t.arch.blk = none then { t with arch := { t.arch with frames := fs ++ [{ start := t.arch.top, block := 0, kind := 3 }] } } else t
    let s1 := if t.arch.blk = none then s.setTask l t1 else s
    let meets := if replayFull s1 t1 512 then some (s.fail 0x19) else pushCheck s1 t1 t.arch.top 512
    (¬loose → pushesItems s t = false → exec (.rpush p vr g) s = .next s) ∧
    (loose ∨ pushesItems s t = true → taken (.rpush p vr g) meets ∧
      (meets = none → ∃ (s2 : State) (u : Task), same s2 ∧ s2.task l = some u ∧
        exec (.rpush p vr g) s = .next (s2.emit u 2 { dest := .item t.arch.top, val := if g then t.arch.rg vr.val else t.arch.rv vr.val }) ∧
        u.arch = modLastFrame { t1.arch with top := t.arch.top + 512 } fun f => { f with items := f.items + 1 })) ∧
    (t.phase = .running → t.wait ≠ .remote r.id → r.dest = .item o → r.evs = [] →
      (∀ h ∈ segsOf o 512, ∃ x, segState t h = some x ∧ (x.st = .resident ∨ x.st = .outbound)) →
      ∃ (s2 : State) (u : Task), exec (.resultLanding l r) s = .next s2 ∧ s2.task l = some u ∧ u.arch = t.arch ∧
        (s2.die l.die).scratch = winWrite l t o r.val.toNat 8 m ∧ (s2.die l.die).dram = (s.die l.die).dram) ∧
    (¬loose → fails (.rpop p vr g) 0x16) ∧
    (loose → fs = [] → fails (.rpop p vr g) 0x18) ∧
    (∀ f, loose → fs.getLast? = some f →
      (f.kind ≠ 3 → fails (.rpop p vr g) 0x18) ∧
      (f.kind = 3 → t.arch.walk.hole = none →
        (t.arch.top < 512 → fails (.rpop p vr g) 0x18) ∧
        (512 ≤ t.arch.top → taken (.rpop p vr g) (readCheck s t (t.arch.top - 512) 512) ∧
          (readCheck s t (t.arch.top - 512) 512 = none →
            let v : Vec := BitVec.ofNat 4096 (winRead (windowMem s l t) l t (t.arch.top - 512) 8)
            let reg := physReg t.arch.rrb vr.val
            ∃ (s2 : State) (u : Task), same s2 ∧ s2.task l = some u ∧ u.arch = { t.arch with top := t.arch.top - 512, frames := fs.dropLast } ∧
              exec (.rpop p vr g) s = .next (s2.emit u 6 { dest := if g then .g reg else .v reg, val := v }))))) ∧
    (fs.length < n16.val ∨ (∃ f ∈ fs.drop (fs.length - n16.val), f.kind = 3) → fails (.rdrop p n16) 0x18) ∧
    (let gone := fs.drop (fs.length - n16.val);
      n16.val ≤ fs.length → (∀ f ∈ gone, f.kind ≠ 3) → ∃ (s2 : State) (u : Task), exec (.rdrop p n16) s = .next s2 ∧ same s2 ∧
        s2.task l = some u ∧ u.arch = { t.arch with frames := fs.take (fs.length - n16.val), top := (gone.head?.map (·.start)).getD t.arch.top } ∧
        ∀ f ∈ gone, mget (s2.die l.die).frames (coreOrd l * 2 ^ 40 + f.start) = none)

/-- R274, R275: RSPILL moves the oldest RESIDENT segments below TOP, RFILL the newest AWAY ones; too few are fault 0x18, no spill
area 0x19, and a replay moves nothing. In a region they start at issue: a refresh cycle or an earlier move is fault 0x23, a
held slot 0x18, an unpinned page 0x1B. In free code they wait, and stop at a missing page. -/
def Sys2Proof.Claims.ResidualMoves : Prop :=
  ∀ (s : State) (t : Task) (p : Fin 16) (n : Fin 4096) (out : Bool),
    s.task s.at_ = some t → t.arch.pred p.val = true →
    let l := s.at_
    let i : Instr := if out then .rspill p n else .rfill p n
    let k := (n.val + 3) / 4
    let gs := if out then (oldestResident t t.arch.top).take k else (newestAway t).take k
    let fails (c : Nat) : Prop := exec i s = .next (takeFault s l { code := c, slot := s.slot.code })
    let inTier (h : Nat) : Prop := ((segState t h).getD {}).cxl = true
    let late := meetsRefresh (s.gcc l t) (640 + 6 * (64 * k - 1)) = true ∨ s.now ≤ t.res.moveEnd
    let stuck := out = false ∧ ∃ h ∈ gs, slotHeld t h = true
    let good := gs.takeWhile fun h => (spillCause s l t out h).isNone
    let waits (h : Nat) : Bool := if out then reused l t h else slotHeld t h
    (t.arch.walk.mode = .replay → exec i s = .next s) ∧
    (t.arch.walk.mode ≠ .replay → out = true → t.res.spillSize = 0 → fails 0x19) ∧
    (t.arch.walk.mode ≠ .replay → (out = true → t.res.spillSize ≠ 0) →
      (gs.length < k ∨ (out = false ∧ ∃ h ∈ gs, inTier h) → fails 0x18) ∧
      (n.val = 0 → exec i s = .next s) ∧
      (0 < n.val → gs.length = k → (out = false → ∀ h ∈ gs, ¬inTier h) →
        (t.timed = true →
          (late → fails 0x23) ∧ (¬late → stuck → fails 0x18) ∧
          (∀ h c, ¬late → ¬stuck → (gs.drop good.length).head? = some h → spillCause s l t out h = some c →
            exec i s = .next (takeFault s l { code := 0x1B, slot := s.slot.code, va := some (spillAddr t h), cause := c })) ∧
          (¬late → ¬stuck → good = gs → exec i s = .next (startMove s l out s.now gs))) ∧
        (t.timed = false → ∃ (s1 s2 : State) (u v : Task) (start : Nat), s.now ≤ start ∧ t.res.moveEnd < start ∧
          s1.calendar = s.calendar ∧ s1.now = s.now ∧ s1.task l = some u ∧ u.arch = t.arch ∧
          (∀ h ∈ gs.drop good.length, (segState u h).map (·.bad) = some true) ∧
          (∀ h, h ∉ gs.drop good.length → segState u h = segState t h) ∧
          exec i s = .next s2 ∧ s2.calendar = (startMove s1 l out start (good.filter fun h => !waits h)).calendar ∧
          s2.task l = some v ∧ v.res.later = t.res.later ++ (if out then good.filter waits else []) ∧
          v.res.owed = t.res.owed ++ (if out then [] else good.filter waits))))

/-- R272, R275: a region's transfers start 384 cycles apart. Block k of a spill is read from the window 6k cycles after its
segment's start and written 640 cycles later; block k of a fill is read and written into the window at 640 + 6k. The
cycle after its last block an OUTBOUND segment is AWAY, an INBOUND one RESIDENT. -/
def Sys2Proof.Claims.SegmentTransfers : Prop :=
  ∀ (s : State) (l : Loc) (t : Task) (out : Bool) (start g k : Nat) (gs : List Nat) (x : Seg),
    s.task l = some t →
    let asid := t.ctl.asid
    let posted (s1 : State) (due : Nat) (i : Instr) : Prop := ∃ e ∈ s1.calendar, e.due = due ∧ e.what = i
    let memories (s1 : State) : Prop := (s1.die l.die).scratch = (s.die l.die).scratch ∧ (s1.die l.die).dram = (s.die l.die).dram
    (let xs := segTimes s l t start gs; let s1 := startMove s l out start gs;
      xs.map (·.1) = gs ∧
      (meetsRefresh (s.gcc l t) (640 + 6 * (64 * gs.length - 1)) = false → start = s.now → xs = gs.mapIdx fun i h => (h, s.now + 384 * i)) ∧
      (∀ y ∈ xs, posted s1 (y.2 + 640 + 6 * 63 + 1) (.segmentTransferComplete l y.1) ∧
        (out = true → posted s1 y.2 (.accessPerform (segOutAccess l asid t.launch y.1 0))) ∧
        (out = false → posted s1 (y.2 + 640) (.accessPerform (segInAccess l asid t.launch y.1 0)))) ∧
      memories s1 ∧ ∃ u, s1.task l = some u ∧ u.arch = t.arch ∧
        (∀ h ∈ gs, ∃ x, segState u h = some x ∧ x.st = (if out then .outbound else .inbound) ∧ x.bad = false) ∧
        ∀ y, xs.getLast? = some y → u.res.moveEnd = y.2 + 640 + 6 * 63) ∧
    ((s.die l.die).flips = [] → ∃ s1, exec (.accessPerform (segOutAccess l asid t.launch g k)) s = .next s1 ∧ s1.dies = s.dies ∧
      (k ≠ 63 → posted s1 (s.now + 6) (.accessPerform (segOutAccess l asid t.launch g (k + 1)))) ∧
      posted s1 (s.now + 640) (.accessPerform
        { segOutAccess l asid t.launch g k with mem := .virt, op := .write, shape := { base := spillAddr t g + 64 * k, n := 16 }
                                                en := allBlock, port := 18
                                                data := BitVec.ofNat 4096 (Mem.num (scratchNow s.now (s.die l.die)) (winAddr l t (4096 * g + 64 * k)) 64) })) ∧
    (let a := segInAccess l asid t.launch g k;
      let rd : Access := { a with op := .read, shape := { base := spillAddr t g + 64 * k, n := 16 }, en := allBlock };
      memWait s a = 0 → (s.die l.die).mflips = [] → readPoison s rd = none → segState t g = some x → x.st = .inbound →
      ∃ s1, exec (.accessPerform a) s = .next s1 ∧ memories s1 ∧
        (k ≠ 63 → posted s1 (s.now + 6) (.accessPerform (segInAccess l asid t.launch g (k + 1)))) ∧
        posted s1 s.now (.accessPerform { rd with mem := .scratch, op := .write, port := 26, data := readValue s rd
                                                  shape := { base := winAddr l t (4096 * g + 64 * k), n := 16 } })) ∧
    (segState t g = some x → t.res.owed = [] → t.res.later = [] → x.st = .outbound ∨ x.st = .inbound →
      ∃ (s1 : State) (u : Task), exec (.segmentTransferComplete l g) s = .next s1 ∧ s1.task l = some u ∧ u.arch = t.arch ∧ memories s1 ∧
        (segState u g).map (·.st) = some (if x.st = .outbound then .away else .resident))

/-- R274: in free code the controller spills the oldest RESIDENT segment below the last checkpoint's TOP when fewer than RW / 4
bytes are free, and fills the newest AWAY one when fewer lie above it and its slot is free; it asks for a frame in the CXL
tier. It starts one transfer at a time, stops at a missing page, and moves nothing in a region. -/
def Sys2Proof.Claims.ResidualController : Prop :=
  ∀ (s : State) (t : Task) (g : Nat) (out : Bool) (r : List Nat),
    s.task s.at_ = some t → 
    let l := s.at_
    let idle : Prop := t.res.later = [] ∧ t.timed = false ∧ t.res.spillSize ≠ 0 ∧ t.res.moving = false ∧ t.phase = .running
    let starts (i : Instr) : Prop := ∃ (s1 : State) (u : Task) (due : Nat), controllerWork s l = s1.postCore l due rkArrive i ∧ s.now < due ∧
      s1.calendar = s.calendar ∧ s1.task l = some u ∧ u.res = { t.res with moving := true } ∧ u.arch = t.arch
    (spillChoice l t = some g → (g + 1) * 4096 ≤ t.arch.top ∧ (t.timed = false → (g + 1) * 4096 ≤ t.shadow.top) ∧
      ∃ x, (g, x) ∈ t.res.segs ∧ x.st = .resident) ∧
    (idle → spillChoice l t = some g → 4 * freeWindow t < t.res.rw → starts .residualControllerSpill) ∧
    (idle → wantsSpill s l t = false → newestAway t = g :: r → 4 * residentAbove t < t.res.rw → slotHeld t g = false →
      starts .residualControllerFill) ∧
    (t.timed = true → t.res.later = [] → controllerWork s l = s) ∧
    (t.timed = true → ∀ i, i = .residualControllerSpill ∨ i = .residualControllerFill → ∃ (s1 : State) (u : Task), exec i s = .next s1 ∧
      s1.calendar = s.calendar ∧ s1.task l = some u ∧ (u.res = t.res ∨ u.res = { t.res with moving := false }) ∧ u.arch = t.arch) ∧
    (t.timed = false → spillChoice l t = some g → exec .residualControllerSpill s = .next (controllerMove s l t true g)) ∧
    (t.timed = false → newestAway t = g :: r → slotHeld t g = false →
      (((segState t g).getD {}).cxl = false → exec .residualControllerFill s = .next (controllerMove s l t false g)) ∧
      (∀ f, ((segState t g).getD {}).cxl = true → tierFrame s l t.launch g = some f →
        ∃ (s1 : State) (due : Nat), exec .residualControllerFill s = .next s1 ∧ s.now < due ∧
          ∃ e ∈ s1.calendar, e.due = due ∧ e.what = .cxlFrameMove l f.start false)) ∧
    (spillCause s l t out g = none → ∃ (s1 : State) (start : Nat),
      controllerMove s l t out g = startTransfers s1 l out false start [g] ∧ s.now ≤ start ∧ s1.task l = some t) ∧
    (∀ c, spillCause s l t out g = some c → ∃ u : Task, controllerMove s l t out g = s.setTask l u ∧
      ((segState u g).map (·.bad)) = some true ∧ u.arch = t.arch)

/-- R205, R218, R271: Ebile moves a frame whose segments are AWAY to the CXL tier within the context's quota, with a header that
holds a CRC-32C of its bytes; beyond the quota the move is refused and recorded. The way back copies it to the spill
area and frees its quota; bytes that do not match their CRC are an uncorrectable error. (The header's other fields are the
model's, log entry 90.) -/
def Sys2Proof.Claims.FramesMoveToCxl : Prop :=
  ∀ (s : State) (l : Loc) (t : Task) (c : Context) (frame : Nat) (fr : FrameRec) (f : CxlFrame) (as : List Nat),
    s.task l = some t → t.timed = false → s.ctx l.die t.ctl.asid = some c →
    let gs := frameSegs t frame
    let len := frameEnd t frame - frame
    let key := coreOrd l * 2 ^ 40 + frame
    let d := s.die l.die
    fr ∈ t.arch.frames → fr.start = frame → fr.kind ≠ 3 → 0 < len → len % 64 = 0 →
    (∀ g ∈ gs, ∃ x, segState t g = some x ∧ x.st = .away) →
    frameAddrs s l.die t.ctl.asid t.res.spillBase frame len = some as →
    (let b := as.flatMap fun a => Mem.bytes d.dram a 64;
      mget d.frames key = none →
      (c.quota < c.cxlUsed + storedBytes b → ∃ r, exec (.cxlFrameMove l frame true) s = .next (s.errPush l.die 7 r)) ∧
      (c.cxlUsed + storedBytes b ≤ c.quota → ∃ (s1 : State) (u : Task) (z : CxlFrame), exec (.cxlFrameMove l frame true) s = .next s1 ∧
        s1.task l = some u ∧ (∀ g ∈ gs, (segState u g).map (·.cxl) = some true) ∧ u.arch = t.arch ∧ (s1.die l.die).dram = d.dram ∧
        (s1.ctx l.die t.ctl.asid).map (·.cxlUsed) = some (c.cxlUsed + storedBytes b) ∧
        mget (s1.die l.die).frames key = some z ∧ z.bytes = b ∧ z.stored = storedBytes b ∧ bits z.header.toNat 223 192 = crc32c b)) ∧
    ((mget d.frames key).isSome → exec (.cxlFrameMove l frame true) s = .next s) ∧
    (mget d.frames key = some f → f.loc = l → f.asid = t.ctl.asid → f.start = frame → f.bytes.length = len →
      (bits f.header.toNat 223 192 = crc32c f.bytes → s.memOk = true → as.Pairwise (fun a b => a + 64 ≤ b ∨ b + 64 ≤ a) →
        ∃ (s1 : State) (u : Task), exec (.cxlFrameMove l frame false) s = .next s1 ∧ s1.task l = some u ∧ u.arch = t.arch ∧
          mget (s1.die l.die).frames key = none ∧ (s1.ctx l.die t.ctl.asid).map (·.cxlUsed) = some (c.cxlUsed - f.stored) ∧
          ∀ k, k < as.length → Mem.bytes (s1.die l.die).dram (nth 0 as k) 64 = (f.bytes.drop (64 * k)).take 64) ∧
      (bits f.header.toNat 223 192 ≠ crc32c f.bytes → ∃ (s1 : State) (e : Ev) (a w : Nat), exec (.cxlFrameMove l frame false) s = .next s1 ∧
        e ∈ s1.calendar ∧ e.due = s.now ∧ e.what = .uncorrectableMemoryError l.die a w ∧ (s1.die l.die).dram = d.dram))

/-- The residual stack and the moves of its frames to and from the CXL tier (R218, R271 to R277, R282). -/
def Obligations.StackAndTier : Prop := Sys2Proof.Claims.LooseItems ∧ Sys2Proof.Claims.ResidualMoves ∧ Sys2Proof.Claims.SegmentTransfers ∧ Sys2Proof.Claims.ResidualController ∧ Sys2Proof.Claims.FramesMoveToCxl

/-- R272, R273: a push of n bytes that nothing in the window hinders, in a frame with room, takes them at TOP and writes them
there; an item counts in its frame. A push that something hinders is that fault or that stall. -/
def Sys2Proof.Claims.StackPushes : Prop :=
  ∀ (s : State) (t : Task) (n v : Nat) (x : Vec),
    s.task s.at_ = some t →
    let l := s.at_
    let o := t.arch.top
    let m := (s.die l.die).scratch
    let meets (n : Nat) : Option Res := if replayFull s t n then some (s.fail 0x19) else pushCheck s t o n
    let put (s1 : State) (t1 : Task) (v k : Nat) (a : Arch) : Prop := s1.task l = some t1 ∧ t1.arch = a ∧
      (s1.die l.die).scratch = winWrite l t o v k m ∧ s1.calendar = s.calendar ∧ s1.now = s.now ∧ s1.at_ = l
    (meets n = none → ∃ (s1 : State) (t1 : Task), (∀ g, pushBytes s t n v g = g s1 t1) ∧ put s1 t1 v (n / 64) { t.arch with top := o + n }) ∧
    (meets 512 = none → ∃ (s1 : State) (t1 : Task), (∀ g, pushItem s t x g = g s1 t1) ∧
      put s1 t1 x.toNat 8 (modLastFrame { t.arch with top := o + 512 } fun f => { f with items := f.items + 1 })) ∧
    (∀ r, meets n = some r → ∀ g, pushBytes s t n v g = r)

/-- R258, R260, R262, R268, R269: BLK.BEGIN opens its block and pushes the header of its frame, of a recompute block the boundary
items too; BLK.END pushes the packed words that are left, then the trailer, and closes the block. Where the block table, an
open block, a landing still to come or, of a recompute block, a result queue that is not empty forbids it, it is the block
fault 0x16. -/
def Sys2Proof.Claims.BlockFrames : Prop :=
  ∀ (s : State) (t : Task) (p : Fin 16) (n : Fin 4096) (s1 s2 s3 : State) (t1 t2 t3 : Task) (b : OpenBlk),
    s.task s.at_ = some t → t.arch.pred p.val = true →
    let l := s.at_
    let e := blockEntry s l t n.val
    let fails (i : Instr) (c : Nat) : Prop := exec i s = .next (takeFault s l { code := c, slot := s.slot.code })
    let queued : Prop := ∃ q ∈ t.mat.queues, q.ents.drop q.popped ≠ []
    (blkValid e = false ∨ blkStart e ≠ t.fetch.pc ∨ t.arch.blk.isSome ∨ landingToCome s l t = true ∨ (blkRecompute e = true ∧ queued) →
      fails (.blkBegin p n) 0x16) ∧
    (blkValid e = true → blkStart e = t.fetch.pc → t.arch.blk = none → landingToCome s l t = false → (blkRecompute e = true → ¬queued) →
      let k := if t.arch.walk.mode = .replay then 2 else if blkRecompute e then 1 else 0
      let u := { t with arch := { t.arch with
        blk := some { block := n.val, start := t.arch.top, depth := t.arch.ldepth, opened := t.fetch.pc }
        pack := [], fresh := [], frames := t.arch.frames ++ [{ start := t.arch.top, block := n.val, kind := k }] } }
      (∀ g, pushBytes (s.setTask l u) u 64 (frameHeader n.val k t.arch.rrb) g = g s1 t1) →
        (k ≠ 1 → exec (.blkBegin p n) s = .next s1) ∧
        ((∀ g, pushAll s1 t1 (boundaryItems t.arch e) g = g s2 t2) → k = 1 → exec (.blkBegin p n) s = .next s2)) ∧
    (t.arch.blk = none → fails (.blkEnd p n) 0x16) ∧
    (t.arch.blk = some b →
      let d := blockEntry s l t b.block
      (b.block ≠ n.val ∨ blkEndIx d ≠ t.fetch.pc ∨ landingToCome s l t = true → fails (.blkEnd p n) 0x16) ∧
      (b.block = n.val → blkEndIx d = t.fetch.pc → landingToCome s l t = false →
        (∀ g, flushPack s t g = g s1 t1) →
        (∀ g, (if t1.arch.pack.isEmpty then g s1 t1 else pushItem s1 t1 (ofLanes 64 (t1.arch.pack.map (·.toNat))) g) = g s2 t2) →
        (∀ g, pushBytes s2 t2 64 (frameTrailer (b.n + 1) t2.arch.ec t2.arch.rrb t2.arch.ldepth ((topFrame t2).getD default).words
          ((topFrame t2).getD default).items) g = g s3 t3) →
        exec (.blkEnd p n) s = .next (s3.setTask s3.at_ { t3 with arch := { t3.arch with blk := none, pack := [] } })))

/-- R264, R268, R270: BLK.REV starts the walk over the stored frame on top from its trailer, and the final scalar item where the
words do not fill their items; of a recompute block it lands the boundary inputs after 6 cycles and starts the replay, when
the window has the free bytes for its frame above TOP: else it waits for a spill, and where none can come it is fault 0x19.
An open block is the block fault 0x16, another frame on top or none the residual-order fault 0x18. -/
def Sys2Proof.Claims.BlockReversal : Prop :=
  ∀ (s : State) (t : Task) (p : Fin 16) (n : Fin 4096) (f : FrameRec),
    s.task s.at_ = some t → t.arch.pred p.val = true →
    let l := s.at_
    let e := blockEntry s l t n.val
    let fails (c : Nat) : Prop := exec (.blkRev p n) s = .next (takeFault s l { code := c, slot := s.slot.code })
    (t.arch.blk.isSome → fails 0x16) ∧
    (t.arch.blk = none → topFrame t = none → fails 0x18) ∧
    (t.arch.blk = none → topFrame t = some f →
      (f.block ≠ n.val ∨ 2 ≤ f.kind → fails 0x18) ∧
      (f.block = n.val → f.kind = 0 → t.arch.walk.hole = none → 576 ≤ t.arch.top →
        readCheck s t (t.arch.top - 64) 64 = none → readCheck s t (t.arch.top - 576) 512 = none →
        let w := windowMem s l t
        let tr := winRead w l t (t.arch.top - 64) 1
        let len := tr % 2 ^ 32
        let words := tr / 2 ^ 64 % 2 ^ 32 % 64
        ∃ (s1 : State) (u : Task), exec (.blkRev p n) s = .next (s1.postCore l (s.now + 1) rkWalk .reversePosition) ∧
          s1.calendar = s.calendar ∧ s1.now = s.now ∧ s1.task l = some u ∧ u.wait = .walk ∧
          u.arch = { t.arch with
            top := t.arch.top - (if words = 0 then 64 else 576), ec := tr / 2 ^ 32 % 2 ^ 16, rrb := tr / 2 ^ 48 % 2 ^ 8
            walk := { mode := .reverse, block := f.block, pos := len, n := len, start := true, base := f.start
                      unpack := ((lanes 64 64 (BitVec.ofNat 4096 (winRead w l t (t.arch.top - 576) 8))).take words).map (BitVec.ofNat 64) } }) ∧
      (f.block = n.val → f.kind = 1 → readCheck s t f.start (t.arch.top - f.start) = none →
        (freeAbove t < blkFrame e * 64 →
          let never := t.timed = true ∨ t.res.spillSize = 0 ∨ (spillChoice l t = none ∧ ∀ x ∈ t.res.segs, x.2.st ≠ .outbound)
          (never → fails 0x19) ∧ (¬never → exec (.blkRev p n) s = .next (stallCore s l .stall))) ∧
        (blkFrame e * 64 ≤ freeAbove t → ∃ (s1 : State) (u : Task),
          exec (.blkRev p n) s = .next (s1.postCore l (s.now + 6) rkIssue .replayPosition) ∧ s1.task l = some u ∧
          let rrb := winRead (s.die l.die).scratch l t f.start 1 / 2 ^ 24 % 2 ^ 8
          let sc := frameItem s t f.start (namesOf (blkBiv e) 64).length
          let xs := namesOf (blkBix e) 32
          let lands (d : Dest) (v : Vec) : Prop := ∃ ev ∈ s1.calendar, ev.due = s.now + 6 ∧ ∃ r : Landing,
            ev.what = .resultLanding l r ∧ r.dest = d ∧ r.val = v
          u.wait = .walk ∧ u.arch = { t.arch with
            rrb, walk := { mode := .replay, block := n.val, recvs := boundaryRecvs s t f e, base := t.arch.top } } ∧
          (∀ j k, (namesOf (blkBiv e) 64)[j]? = some k → lands (.v (physReg rrb k)) (frameItem s t f.start j)) ∧
          (∀ j k, xs[j]? = some k → lands (.x k) ((BitVec.ofNat 64 (lane 64 sc j)).setWidth 4096)) ∧
          (∀ k ∈ namesOf (blkBip e) 16, lands (predDest k) (if lane 64 sc xs.length / 2 ^ k % 2 = 1 then 1 else 0)))))

/-- R169, R170, R264 to R267, R270: a walk clears the gradient registers of GCLR first, then takes two cycles for each position,
in each of which the position's forward weights count: a cycle above the limit is frozen, in a region fault 0x17. A fault in
it names the forward bundle; a stall delays the rest of it. It ends by dropping the frame, of a replayed block the boundary
frame with it, and the next bundle issues a cycle later. A stop asked for takes it behind a position whose bundle has EQ. -/
def Sys2Proof.Claims.ReverseWalk : Prop :=
  ∀ (s : State) (t : Task) (s1 : State) (f : FrameRec),
    s.task s.at_ = some t →
    let l := s.at_
    let w := t.arch.walk
    w.mode = .reverse → t.phase = .running → topFrame t = some f →
    let q := w.pos - 1
    let forward := nth { bundle := 0 } f.pos q
    let frozen := walkFrozen s t forward.weight
    let b := bundleAt s l t forward.bundle
    let noCk : Prop := t.timed = true ∨ ∀ x, b = some x → x.hdr.ck = false
    let next (s1 : State) (due : Nat) : Prop := exec .reversePosition s = .next (s1.postCore l due rkWalk .reversePosition)
    (w.start = true → ∃ u : Task, next (s.setTask l u) (if f.kind = 2 then s.now else s.now + 1) ∧
      u.arch.walk = { w with start := false } ∧ u.arch.x = t.arch.x ∧ u.arch.v = t.arch.v ∧
      ∀ r, r < 64 → (rd u.arch.g (t.arch.phys r) = if blkGclr (blockEntry s l t w.block) / 2 ^ r % 2 = 1 then 0 else rd t.arch.g (t.arch.phys r))) ∧
    (w.start = false → frozen = true →
      (t.timed = true → exec .reversePosition s = .next (takeFault s l { code := 0x17, slot := 9, rev := true, bundle := some forward.bundle })) ∧
      (t.timed = false → ∃ (s2 : State) (u : Task), next s2 (s.now + 1) ∧ s2.task l = some u ∧
        u.ctl.frzcnt = (t.ctl.frzcnt + 1) % 2 ^ 64 ∧ u.arch = t.arch ∧ u.weights = t.weights)) ∧
    (w.start = false → frozen = false → w.second = false →
      (reversePos f q (fun s _ => .ok s) s t = .ok s1 → next (s1.modTask l fun u =>
        { countWalk s.now u forward.weight with arch := { u.arch with walk := { u.arch.walk with second := true } } }) (s.now + 1)) ∧
      (∀ r, reversePos f q (fun s _ => .ok s) s t = .fault r →
        exec .reversePosition s = .next (takeFault s l { r with rev := true, bundle := some forward.bundle })) ∧
      (∀ r, reversePos f q (fun s _ => .ok s) s t = .stall r → next (delayCore (controllerWork s l) l) (s.now + 1))) ∧
    (w.start = false → frozen = false → w.second = true → noCk →
      let stops : Prop := t.stop ≠ .none ∧ ∃ x, b = some x ∧ x.hdr.eq = true
      (2 ≤ w.pos → ∃ (s2 : State) (u : Task), s2.task l = some u ∧ u.weights = (countWalk s.now t forward.weight).weights ∧
        u.arch = { t.arch with walk := { w with second := false, pos := q } } ∧
        (¬stops → next s2 (s.now + 1)) ∧ (stops → exec .reversePosition s = .next (s2.postCore l s.now rkCount .taskStop))) ∧
      (w.pos = 1 → ∃ (s2 : State) (u : Task), s2.task l = some u ∧ u.wait = .none ∧
        (let two := f.kind = 2;
          let frames := if two then t.arch.frames.dropLast.dropLast else t.arch.frames.dropLast
          u.arch = { t.arch with
            walk := {}, frames, top := if two then (t.arch.frames.dropLast.getLast?.map (·.start)).getD f.start else f.start }) ∧
        (¬stops → exec .reversePosition s = .next (s2.postIssue (s.now + 1) l)) ∧
        (stops → exec .reversePosition s = .next ((s2.postIssue (s.now + 1) l).postCore l s.now rkCount .taskStop))))
/-- R205, R230, R279, R334, R335, R339, R341, R343, R344: the words of a departure arrive within 32 cycles of their departure plus
the path latency, each at its own address; the next group departs after the transfer's gap; of a chunk's poisoned block
nothing leaves. The walker starts the entry that
is due. A header notes its span on the output, an overlap cuts the transfer and faults the task that sent it. A word that
an armed window or chunk accepts performs, the word that completes a chunk sets its ready bit and increments its counter
a cycle later, and one that nothing accepts is a remote error. -/
def Obligations.FabricTransfers : Prop :=
  ∀ (s : State) (t : Transfer) (w : FabWord) (d : Die) (die link : Nat),
    ((s.die t.src).cut.contains t.id = true → exec (.fabricDeparture t) s = .next s ∧ exec (.routerForward die link t) s = .next s) ∧
    ((s.die t.src).cut.contains t.id = false →
      (∀ k, tileFault s t = some k → exec (.fabricDeparture t) s =
        .next (chargeFault s t { code := 0x20, slot := 7, va := some k.2, cause := k.1 })) ∧
      (∀ b, tileFault s t = none → tileBlock s t = some b → (s.die t.src).mflips = [] → (s.die t.src).poison.contains b = true →
        exec (.fabricDeparture t) s =
          .next (s.postUnit s.now rkArrive (.uncorrectableMemoryError t.src (64 * b) (unitField 7 (dpaStack (64 * b)) (dpaPc (64 * b)))))) ∧
      (tileFault s t = none → (s.die t.src).mflips = [] → (∀ b, tileBlock s t = some b → (s.die t.src).poison.contains b = false) →
        let n := Nat.min t.rate (t.n - t.k)
        let c := if t.tile.isSome then s.now + 1 else s.now
        ∃ s1 : State, exec (.fabricDeparture t) s = .next s1 ∧ s1.dies = s.dies ∧
          (t.pair = none → ∀ j v, (departing s t n)[j]? = some v → ∃ (e : Ev) (x : FabWord), e ∈ s1.calendar ∧ e.what = .fabricWordArrival x ∧
            x.addr = t.addr + 4 * (t.k + j) ∧ x.word = v ∧ x.dst = t.dst ∧ x.op = t.op ∧ x.chunk = t.chunk ∧
            c ≤ e.due ∧ c + t.lat ≤ e.due + 32 ∧ e.due ≤ c + t.lat + 32) ∧
          (∀ ch sq, t.pair = some (ch, sq) → t.n ≤ t.k + n → ∃ (e : Ev) (v : PairVec), e ∈ s1.calendar ∧ e.what = .pairedVectorArrival v ∧
            v.chan = ch ∧ v.seq = sq ∧ v.dst = t.dst ∧ v.val = ofLanes 32 (t.words.map BitVec.toNat) ∧ e.due ≤ c + t.lat + 32) ∧
          (t.k + n < t.n → ∃ (e : Ev) (t' : Transfer), e ∈ s1.calendar ∧ e.due = s.now + t.gap ∧ e.what = .fabricDeparture t' ∧ t'.k = t.k + n ∧
            t'.n = t.n ∧ t'.addr = t.addr)) ∧
      (spanClash s die link s.now (s.now + spanLength t.n t.rate t.gap) = none →
        ((linkOf s die link).state = 2 → exec (.routerForward die link t) s = .next (addSpan s die
          { link, first := s.now, last := s.now + spanLength t.n t.rate t.gap, task := t.task, launch := t.launch, id := t.id })) ∧
        ((linkOf s die link).state ≠ 2 → exec (.routerForward die link t) s =
          .next (s.modDie t.src fun x => { x with cut := x.cut ++ [t.id] }))) ∧
      (∀ y l x, spanClash s die link s.now (s.now + spanLength t.n t.rate t.gap) = some y → (mget s.dies t.src).isSome → t.task = some l →
        s.task l = some x → x.launch = t.launch → x.phase ≠ .ended →
        ∃ s1 : State, exec (.routerForward die link t) s = .next s1 ∧ (s1.die t.src).cut.contains t.id = true ∧
          (s1.task l).map (·.phase) = some .ended ∧ (s1.task l).map (fun u => u.ctl.trapc.toNat / 2 ^ 32 % 2 ^ 16) = some 0x27)) ∧
    (mget s.dies w.dst = some d → (s.die w.src).cut.contains w.id = false →
      (w.chunk = none →
        (∀ ts, takeTaskWindow w.addr d.tasks = some ts →
          exec (.fabricWordArrival w) s = .next (performWord (s.modDie w.dst fun x => { x with tasks := ts }) w)) ∧
        (∀ r, takeTaskWindow w.addr d.tasks = none → takeLeft w.addr d.left = some r →
          exec (.fabricWordArrival w) s = .next (performWord (s.modDie w.dst fun x => { x with left := r }) w)) ∧
        (takeTaskWindow w.addr d.tasks = none → takeLeft w.addr d.left = none → exec (.fabricWordArrival w) s = .next (wordError s w))) ∧
      (∀ c st tn tt e, w.chunk = some c → mget d.chunks c = some st → d.ttRun = some tn → mget d.tts tn = some tt → tt.chunks[c]? = some e →
        (st.armed = false ∨ w.addr < e.base ∨ e.base + 4 * e.len ≤ w.addr ∨ e.expect ≤ st.count → exec (.fabricWordArrival w) s = .next (wordError s w)) ∧
        (st.armed = true → e.base ≤ w.addr → w.addr < e.base + 4 * e.len → st.count < e.expect →
          ∃ s1 : State, exec (.fabricWordArrival w) s = .next s1 ∧
            (st.count + 1 ≠ e.expect → mget (s1.die w.dst).chunks c = some { armed := true, count := st.count + 1 }) ∧
            (st.count + 1 = e.expect → mget (s1.die w.dst).chunks c = some { armed := true, count := st.count + 1, ready := some (s.now + 1) } ∧
              ∃ ev ∈ s1.calendar, ev.due = s.now + 1 ∧ ev.what = .cincApply w.dst e.cc 1)))) ∧
    (s.at_ = { die, core := 0 } →
      ((s.die die).walker = none → exec .walkerDeparture s = .next s) ∧
      (∀ k tt, (s.die die).walker = some k → mget (s.die die).tts k.tt = some tt →
        (nextEntry tt k.rc k.next = none → k.last ≤ s.now → exec .walkerDeparture s = .next (s.modDie die fun x => { x with walker := none })) ∧
        (∀ i e, nextEntry tt k.rc k.next = some (i, e) →
          (s.now + 1 < k.s0 + e.cycle → exec .walkerDeparture s = .next (s.postDie die (k.s0 + e.cycle - 1) (rkRead - 1) .walkerDeparture)) ∧
          (∀ y, k.s0 + e.cycle ≤ s.now + 1 → walkerTransfer (s.modDie die fun x => { x with walker := some { k with next := i + 1 } }) die k tt i e = .ok y →
            ∃ s1 : State, exec .walkerDeparture s = .next s1 ∧ (s1.die die).walker = some { k with next := i + 1 } ∧
              ∃ ev ∈ s1.calendar, ev.what = .fabricDeparture y))))

/-- The frames of blocks, their reversal and the reverse walk (R258 to R270). -/
def Obligations.Blocks : Prop := Sys2Proof.Claims.StackPushes ∧ Sys2Proof.Claims.BlockFrames ∧ Sys2Proof.Claims.BlockReversal ∧ Sys2Proof.Claims.ReverseWalk

/-- R205, R214, R222, R231, R318 to R320, R322, R336, R347, R449: a counted message that arrives intact is delivered at its die, goes on over the next link
of its route no sooner than the link's latency and 24 cycles, or waits where it is; one that fails its check is sent
again, and the sixteenth failure takes the link down. An aperture request enters its target's port a cycle later,
behind the earlier ones of its task, and waits for a refresh window, a reserved bank or a held page; one whose page has gone
is sent to where the page lies now. One that fails is recorded at the target and ends the context that sent it; one that
does not is performed and answered. -/
def Obligations.CountedTraffic : Prop :=
  ∀ (s : State) (c : Counted) (r : ApReq) (die asid launch : Nat),
    (c.at_ = c.dst → exec (.countedFlitArrival c true) s = .next (deliverCounted s c)) ∧
    (c.at_ ≠ c.dst →
      (∀ d k w, route s countedOk c.at_ c.dst = some ((d, k) :: w) → ∃ (s1 : State) (e : Ev), exec (.countedFlitArrival c true) s = .next s1 ∧
        s1.dies = s.dies ∧ e ∈ s1.calendar ∧ e.what = .countedFlitArrival { c with at_ := neighbour s d k, tries := 0 } true ∧
        s.now + (linkOf s d k).lat + 24 ≤ e.due) ∧
      (route s countedOk c.at_ c.dst = none → exec (.countedFlitArrival c true) s = .next (s.modDie c.at_ fun x => { x with stuck := x.stuck ++ [c] }))) ∧
    (c.tries < 15 → ∃ (s1 : State) (e : Ev), exec (.countedFlitArrival c false) s = .next s1 ∧ s1.dies = s.dies ∧ e ∈ s1.calendar ∧
      e.what = .countedFlitArrival { c with tries := c.tries + 1 } true ∧ s.now < e.due) ∧
    (∀ d k w, 15 ≤ c.tries → route s countedOk c.at_ c.dst = some ((d, k) :: w) → ∃ (s1 : State) (e : Ev),
      exec (.countedFlitArrival c false) s = .next s1 ∧ e ∈ s1.calendar ∧ e.what = .linkDown d k ∧ e.due = s.now) ∧
    (∀ l id t, c.body = .done l id → s.task l = some t → deliverCounted s c = s.modTask l fun u => { u with rems := u.rems.filter fun x => x.2 != id }) ∧
    (∀ v, c.body = .pair v → deliverCounted s c = s.postUnit s.now rkArrive (.pairedVectorArrival v)) ∧
    (∀ l z id t, c.body = .answer l z id → s.task l = some t → (∃ x ∈ t.rems, x.2 = id) → ∃ (s1 : State) (e : Ev), deliverCounted s c = s1 ∧
      e ∈ s1.calendar ∧ e.due = s.now + 1 ∧ e.what = .resultLanding l z) ∧
    (let word : Bool := match r.kind with | some (some _) => true | _ => false;
      let a : Access := { die := r.dst, mem := .virt, op := .request r, shape := { base := r.va, n := if word then 1 else 128 }, data := r.data
                          en := if word then 15 else BitVec.allOnes 512, port := 21, asid := r.tasid, cls := .remote, issued := s.now, launch };
      let again := { r with waited := false };
      (remBehind s r = true → ∃ b, exec (.apertureRequest r) s = .next (s.postUnit (s.now + 1) rkArrive (.apertureRequest { r with waited := b }))) ∧
      (remBehind s r = false → launch = ((s.task r.loc).map (·.launch)).getD 0 → exec (.apertureRequest r) s = .next (s.postAccess (s.now + 1) none a)) ∧
      (0 < memWait s a → exec (.accessPerform a) s = .next (s.postAccess (s.now + memWait s a) none a)) ∧
      (memWait s a = 0 →
        let u := walked s a
        let answers (v : State) : Prop := exec (.accessPerform a) s = .next v
        (held u r.dst r.tasid r.va (4 * a.shape.n) = true → answers (u.postAccess (s.now + 1) none { a with op := .request { r with waited := true } })) ∧
        (held u r.dst r.tasid r.va (4 * a.shape.n) = false →
          (r.waited = true → translated u r ≠ again → ∃ m : Counted, answers (u.sendCounted m) ∧ m.at_ = r.dst ∧ m.dst = (translated u r).dst ∧
            m.body = .request (translated u r)) ∧
          (r.waited = false ∨ translated u r = again →
            (requestFails u r = true → ∃ (z : BitVec 512) (m : Counted), answers ((u.errPush r.dst 5 z).sendCounted m) ∧
              m.body = .kill r.sasid launch ∧ m.at_ = r.dst ∧ m.dst = r.src) ∧
            (requestFails u r = false → (u.die r.dst).mflips = [] →
              (r.kind = none → readPoison u a = none → answers (answer u r launch (readValue u a) [])) ∧
              (r.kind = some none → answers (remDone (performWrite u { a with op := .write }) r.loc r.id)) ∧
              (∀ op, r.kind = some (some op) → readPoison u a = none →
                let x := rmwElems (atomWord op) r.data.toNat (resolved u a) (u.die r.dst).dram
                ∃ v : State, ((mget u.dies r.dst).isSome → (v.die r.dst).dram = x.1) ∧
                  answers (answer v r launch (BitVec.ofNat 4096 (x.2.1.foldl (fun n e => n + e.2) 0)) x.2.2))))))) ∧
    ((s.ctx die asid).isSome → exec (.killNotice die asid launch) s = .next (endContext s asid 0x2C (some launch))) ∧
    (s.ctx die asid = none → exec (.killNotice die asid launch) s = .next s)

/-- R333, R347, R348, R371: training brings both ends of a link UP at full width with the measured latency; a degraded link is
at half width and asks for replacement; a link that goes down is DOWN at both ends, and the launches whose timed spans used
it meet the link-loss fault. A gang is started again with the alternate that avoids the link, or ends. -/
def Obligations.Links : Prop :=
  ∀ (s : State) (die link lat id : Nat) (x : Launch),
    let p := neighbour s die link
    let clamp := Nat.max 16 (Nat.min lat 4095)
    (mget s.dies die).isSome → (mget s.dies p).isSome → link < 6 →
    (∃ s1 : State, exec (.linkTraining die link lat) s = .next s1 ∧ (linkOf s1 die link).state = 2 ∧ (linkOf s1 p (farLink link)).state = 2 ∧
      (linkOf s1 die link).lat = clamp ∧ (linkOf s1 p (farLink link)).lat = clamp ∧
      (linkOf s1 die link).width = (if isSiblingLink die link then 768 else 256) ∧
      (linkOf s1 p (farLink link)).width = (if isSiblingLink die link then 768 else 256) ∧
      ∀ k, k ≠ link → k ≠ farLink link → linkOf s1 die k = linkOf s die k) ∧
    (∃ s1 : State, exec (.linkDegrade die link lat) s = .next (releaseStuck ((linkUsers s die link).foldl linkLoss s1)) ∧
      (linkOf s1 die link).state = 3 ∧ (linkOf s1 p (farLink link)).state = 3 ∧ (linkOf s1 die link).width = 128 ∧
      (linkOf s1 die link).lat = clamp ∧ (s1.die die).health.getLsbD 0 = true ∧ (s1.die p).health.getLsbD 0 = true) ∧
    ((linkOf s die link).state = 0 → exec (.linkDown die link) s = .next s) ∧
    ((linkOf s die link).state ≠ 0 → ∃ s1 : State, exec (.linkDown die link) s = .next ((linkUsers s die link).foldl linkLoss s1) ∧
      (linkOf s1 die link).state = 0 ∧ (linkOf s1 p (farLink link)).state = 0) ∧
    (s.launch id = some x →
      (x.gang.relaunch = false ∨ x.phase.live = false → exec (.relaunch id) s = .next s) ∧
      (x.gang.relaunch = true → x.phase.live = true →
        let num := x.homes.findSome? fun m => if (s.die m).ttLaunch = id then (s.die m).ttRun else none
        (num = none → exec (.relaunch id) s = .next (endLaunch s id 0x102)) ∧
        (∀ n, num = some n → findAlternate s x n = none → exec (.relaunch id) s = .next (endLaunch s id 0x102)) ∧
        (∀ n g, num = some n → findAlternate s x n = some g → ∃ s1 : State, exec (.relaunch id) s = .next (propose s1 id 0 0 0 0))))

/-- R371 to R373, R375, R379 to R382, R389: the lowest live die becomes the group's reference; a die hears its links' hop counts,
follows the best, and corrects its GRP towards the parent's beacon, by one for an error up to 4 and by the whole error
beyond. Beacons leave every usable link every 4,096 cycles. The time master's map record reaches every die with a route.
An accepted PTP exchange sets the servo, three missed ones enter HOLDOVER. The 1PPS output is high for 100 microseconds;
an input edge is timestamped. -/
def Obligations.Rooster : Prop :=
  ∀ (s : State) (d : Die) (link x y z : Nat) (b : Beacon) (m : MapRec) (q : PtpSync),
    let die := s.at_.die
    let r := d.rooster
    mget s.dies die = some d →
    (let s0 : State := { s with ext := (x, y, z), formed := true };
      ∃ s1 : State, exec (.groupFormation x y z) s = .next s1 ∧ s1.ext = (x, y, z) ∧ s1.formed = true ∧
        s1.host.events = s.host.events ++ (if (liveDies s0).length < x * y * z then [2] else []) ∧
        ∀ a rest, liveDies s0 = a :: rest → ∀ k ∈ liveDies s0, (s1.die k).rooster.ref = a) ∧
    (∀ a rest, (liveDies s).filter (fun k => k != die) = a :: rest → ∃ s1 : State, exec .referenceLoss s = .next s1 ∧
      (s1.die a).rooster.sync = 1 ∧ (s1.die a).rooster.hops = 0 ∧ s1.grp a = s.grp a ∧
      ∀ k ∈ rest, (s1.die k).rooster.ref = a ∧ (k ≠ a → (s1.die k).rooster.sync = 2)) ∧
    (d.started = false → exec .beaconSend s = .next s) ∧
    (d.started = true → ∃ s1 : State, exec .beaconSend s = .next s1 ∧ s1.dies = s.dies ∧
      (∃ e ∈ s1.calendar, e.what = .beaconSend ∧ e.place = { die, core := 0 } ∧ e.due = s.now + 4096) ∧
      ∀ k ∈ d.links, countedOk k.2.state = true → ∃ e ∈ s1.calendar, e.due = s.now + k.2.lat ∧ e.what = .beaconArrival (neighbour s die k.1) (farLink k.1)
        { grp := s.grp die, hop := r.hops, sync := r.sync, ref := r.ref, epoch := r.epoch }) ∧
    (let d1 : Die := { d with rooster := { r with heard := mset r.heard link (b.hop, b.sync) } };
      (s.formed = false → ∃ s1 : State, exec (.beaconArrival die link b) s = .next s1 ∧ s1.die die = d1) ∧
      (∀ h, s.formed = true → r.ref ≠ die → bestLink d1 = some (link, h) → ∃ s1 : State, exec (.beaconArrival die link b) s = .next s1 ∧
        (s1.die die).rooster.parent = link ∧ (s1.die die).rooster.hops = h + 1 ∧ (s1.die die).rooster.sync = 1 ∧
        let err := stepTo (s.grp die) ((b.grp + (linkOf s die link).lat) % 2 ^ 64)
        (s1.die die).grp = d.grp + (if err = 0 then 0 else if err.natAbs ≤ 4 then (if err > 0 then 1 else -1) else err)) ∧
      (s.formed = true → r.ref ≠ die → bestLink d1 = none → link < 6 → ∃ s1 : State, exec (.beaconArrival die link b) s = .next s1 ∧
        (s1.die die).rooster.sync = (if r.sync = 0 then 0 else 2) ∧ (s1.die die).rooster.parent = 7 ∧ (s1.die die).grp = d.grp)) ∧
    (timeMaster s ≠ some die → exec .mapRecordIssue s = .next s) ∧
    (timeMaster s = some die → ∃ (s1 : State) (w : MapRec), exec .mapRecordIssue s = .next s1 ∧ s1.dies = s.dies ∧ w.mapg = s.grp die ∧
      w.mapt = ptpTime s die ∧ w.mapk = r.k ∧
      ∀ k ∈ liveDies s, ∀ v, route s countedOk die k = some v → ∃ e ∈ s1.calendar, e.what = .mapRecordReceive k w ∧ e.due = s.now + pathLatency s v) ∧
    (∃ s1 : State, exec (.mapRecordReceive die m) s = .next s1 ∧ (s1.die die).rooster.map = some (m.mapg, m.mapt, m.mapk) ∧
      (s1.die die).rooster.epoch = m.epoch ∧ (s1.die die).rooster.u = (if r.ptp = 1 then r.u else m.u)) ∧
    (isDieB die = false → exec (.ptpSyncReceive die q) s = .next s) ∧
    (isDieB die = true →
      (q.accepted = false → ∃ s1 : State, exec (.ptpSyncReceive die q) s = .next s1 ∧ (s1.die die).rooster = { r with syncs := 0 }) ∧
      (q.accepted = true → ∃ s1 : State, exec (.ptpSyncReceive die q) s = .next s1 ∧ (s1.die die).rooster.clock = some (s.now, q.ptp) ∧
        (s1.die die).rooster.k = q.k ∧ (s1.die die).rooster.lastSync = s.now ∧ (s1.die die).rooster.syncs = r.syncs + 1 ∧
        (r.ptp = 0 → (s1.die die).rooster.ptp = if q.locked then 1 else 0) ∧ (r.ptp = 1 → (s1.die die).rooster.ptp = 1) ∧
        (r.ptp = 2 → (s1.die die).rooster.ptp = if 8 ≤ r.syncs + 1 then 1 else 2))) ∧
    (∃ s1 : State, exec .ptpHoldover s = .next s1 ∧ (s1.die die).rooster = { r with syncs := 0, ptp := if r.ptp = 1 then 2 else r.ptp }) ∧
    (∃ (s1 : State) (e : Ev), exec .ppsOutEdge s = .next s1 ∧ (s1.die die).rooster = { r with ppsOut := !r.ppsOut } ∧ e ∈ s1.calendar ∧
      e.what = .ppsOutEdge ∧ (r.ppsOut = false → e.due = s.now + 360000)) ∧
    (isDieB die = true → ∃ s1 : State, exec .ppsInEdge s = .next s1 ∧ (s1.die die).rooster = { r with pps := some (s.grp die, ptpTime s die) }) ∧
    (isDieB die = false → exec .ppsInEdge s = .next s)

/-- R383 to R388, R390, R290: a gang's agreement. A member that takes the proposal sends its readiness at C - 131,072, decides at
C - 65,536 and starts at C; a message reaches every member over its flood path; a missing message or an abort means that
no one starts, the reservation is released and the lead die makes the next attempt, of which the fourth is refused. A lead
across groups starts only with the coordinator's commit. At a pre-emption's C each task of the member is asked to stop. -/
def Obligations.Gangs : Prop :=
  ∀ (s : State) (x : Launch) (d : Die) (die gid member bits c tv : Nat) (free commit : Bool) (t : Task),
    s.launch gid = some x → mget s.dies die = some d →
    let grp := s.grp die
    let at' (back : Nat) (k : GangSlot) : Int := stepTo grp ((k.c + 2 ^ 64 - back) % 2 ^ 64)
    let slot : GangSlot := { c, t := x.gang.t, members := x.homes, kind := x.gang.kind, attempt := x.gang.attempt
                             teams := if x.requeued.isEmpty then List.range (gridSize (x.descOn die))
                               else (x.requeued.filter fun r => r.1 / 1024 = die).map (·.1 % 1024) }
    (x.gang.pending = false ∨ x.gang.c ≠ c → exec (.gangProposalReceive die gid c) s = .next s) ∧
    (x.gang.pending = true → x.gang.c = c → ∃ u : State, exec (.gangProposalReceive die gid c) s =
        .next (((u.postGrp die (c + 2 ^ 64 - 131072) rkRead (.readinessSend die gid)).postGrp die (c + 2 ^ 64 - 65536) rkRead
          (.gangDecision die gid)).postGrp die c rkRead (.gangStart die gid)) ∧
      (x.gang.kind = 1 → mget (u.die die).slots gid = some slot ∧ u.calendar = s.calendar)) ∧
    (∃ u : State, exec (.readinessReceive die gid member bits free) s = .next u ∧
      mget (u.die die).slots gid = (mget d.slots gid).map fun k =>
        { k with ready := (k.ready.filter fun r => r.1 != member) ++ [(member, bits, free)] }) ∧
    (∃ u : State, exec (.abortReceive die gid) s = .next u ∧
      mget (u.die die).slots gid = (mget d.slots gid).map fun k => { k with aborted := true }) ∧
    (∀ k, mget d.slots gid = some k →
      (at' 131072 k > 0 → exec (.readinessSend die gid) s = .next (s.postGrp die ((k.c + 2 ^ 64 - 131072) % 2 ^ 64) rkRead (.readinessSend die gid))) ∧
      (at' 131072 k ≤ 0 → ∃ u : State, exec (.readinessSend die gid) s = .next u ∧
        mget (u.die die).slots gid = some { k with own := readyBits s x gid die } ∧
        ∀ m ∈ x.homes, ∀ n, floodLat s die m = some n → ∃ e ∈ u.calendar, e.due = s.now + n ∧
          e.what = .readinessReceive m gid die (readyBits s x gid die) (coresFree s x gid die)) ∧
      (at' 65536 k ≤ 0 → exec (.gangDecision die gid) s = .next (if k.missing.isEmpty then s else floodAbort s die gid)) ∧
      (at' 0 k ≤ 0 →
        (k.stragglers = [] → k.aborted = false → x.gang.cross = false ∨ x.gang.committed = true → ∃ u : State,
          exec (.gangStart die gid) s = .next (if k.kind = 1 then stopMember u die gid else startMember u die gid k) ∧
          mget (u.die die).slots gid = none ∧ u.calendar = s.calendar) ∧
        (k.stragglers ≠ [] ∨ k.aborted = true ∨ x.gang.cross = true ∧ x.gang.committed = false → ∃ u : State,
          exec (.gangStart die gid) s = .next (if die = leadDie x then u.postUnit (u.now + 1) rkCount (.gangRetry gid) else u) ∧
          mget (u.die die).slots gid = none ∧ (∀ l, u.task l = s.task l) ∧
          (k.kind ≠ 1 → (u.die die).gangCores = d.gangCores.filter (fun g => g.1 != gid) ∧ (u.die die).pins = d.pins.filter fun p => p.1 != gid)))) ∧
    (x.phase.live = false → exec (.gangRetry gid) s = .next s) ∧
    (x.phase.live = true →
      (x.gang.pending = true → 3 ≤ x.gang.attempt → ∃ u : State, exec (.gangRetry gid) s = .next u ∧ u.host.events = s.host.events ++ [3] ∧
        (u.launch gid).map (·.gang.pending) = some false) ∧
      (x.gang.pending = true → x.gang.attempt < 3 → exec (.gangRetry gid) s = .next (propose s gid x.gang.kind (x.gang.attempt + 1)
        (x.gang.t + (x.gang.attempt + 1) * 1000000) (x.gang.c + (x.gang.attempt + 1) * 3600000))) ∧
      (x.gang.pending = false → exec (.gangRetry gid) s =
        .next (if x.gang.started || x.gang.saved || x.gang.relaunch then s else propose s gid 0 0 0 0))) ∧
    (let kind := if x.gang.saved then 2 else if x.gang.started then 1 else 0;
      let u := s.modLaunch gid fun y => { y with gang := { y.gang with cross := true } };
      exec (.crossGroupPrepare gid tv) s = .next (if !x.desc.gang || !x.phase.live || proposalBusy x kind then u
        else (propose u gid kind 0 tv 0).modLaunch gid fun y => { y with gang := { y.gang with prepared := y.homes.length } })) ∧
    (let ok := x.gang.pending && x.homes.all fun m => readyBits s x gid m = 15;
      let u := s.modLaunch gid fun y => { y with gang := { y.gang with cross := true, committed := ok } };
      exec (.crossGroupDecision gid) s = .next (if ok then u else floodAbort u (leadDie x) gid)) ∧
    (let u := s.modLaunch gid fun y => { y with gang := { y.gang with committed := commit } };
      exec (.crossGroupCommitReceive gid commit) s = .next (if commit then u else floodAbort u (leadDie x) gid)) ∧
    (x.gang.pending = false ∨ x.gang.committed = true → exec (.commitDeadline gid) s = .next s) ∧
    (x.gang.pending = true → x.gang.committed = false →
      ((s.die (leadDie x)).rooster.map = none → exec (.commitDeadline gid) s = .next (floodAbort s (leadDie x) gid)) ∧
      (∀ m, (s.die (leadDie x)).rooster.map = some m → stepTo (s.grp (leadDie x)) (mapToGcc m (x.gang.t - 50000)) ≤ 0 →
        exec (.commitDeadline gid) s = .next (floodAbort s (leadDie x) gid))) ∧
    (x.gang.stopping = true → ∀ core u, mget d.tasks core = some u → u.launch = gid →
      ∃ e ∈ (stopMember s die gid).calendar, e.due = s.now ∧ e.what = .gangStop ∧ e.place = { die, core }) ∧
    (∀ tm, s.task s.at_ = some t → s.team s.at_.die t.team = some tm →
      exec .gangStop s = .next (s.setTask s.at_ { t with stop := tm.stopping }))

/-- R25, R104, R291, R297 to R305, R370: a cluster start makes each member's task and posts its first bundle 185 cycles later; the
first bundle finds GCC equal to GRP. A stop for a save takes the checkpoint, stops the task where it is and leads to its
record once nothing of it is in flight; a kill removes the task. The record holds the task's state, and a resume restores
it on the new core; a block of it that is poisoned ends the launch, or at the resume the context. A retiring task leaves its core. A pass on a hot die dispatches nothing. -/
def Obligations.TasksStartAndStop : Prop :=
  ∀ (s : State) (r : TeamRef) (tm : Team) (x : Launch) (t : Task) (d : Die) (v : SavedTeam) (b : Bid),
    let l := s.at_
    (s.team r.die r.team = some tm → s.launch tm.launch = some x →
      (0 < untilGrp s r.die tm.start → exec (.clusterStart r) s = .next (s.postUnit (s.now + untilGrp s r.die tm.start) rkRead (.clusterStart r))) ∧
      (untilGrp s r.die tm.start = 0 → tm.cores.Nodup → ∃ u : State, exec (.clusterStart r) s = .next u ∧
        ∀ (i core : Nat), tm.cores[i]? = some core →
          u.task { die := r.die, core } = some (newTask x tm.launch r.team { die := r.die, core } tm i) ∧
          ∃ e ∈ u.calendar, e.due = s.now + 185 ∧ e.what = .taskFirstBundle ∧ e.place = { die := r.die, core }) ∧
      (untilGrp s r.die tm.start = 0 → (x.saved.find? fun y => y.num = r.team && y.die = r.die) = some v →
        (let blocks := recordPoison s r.die x.asid (v.recs.flatMap (·.blocks));
          (∀ a, blocks = some a → ∃ z, exec (.teamResume r) s = .next (endContext (s.errPush r.die 4 z) x.asid 0x2E (some tm.launch))) ∧
          (blocks = none → (v.recs.map fun q => nth 0 tm.cores q.ix).Nodup → ∃ u : State, exec (.teamResume r) s = .next u ∧
            ∀ q ∈ v.recs, ∃ (e : Ev) (w : Task), u.task { die := r.die, core := nth 0 tm.cores q.ix } = some w ∧ w.arch = q.task.arch ∧
              w.mat.acc = q.task.mat.acc ∧ w.phase = .stopped ∧ w.ctl.swbase = sliceBase (nth 0 tm.cores q.ix) ∧
              e ∈ u.calendar ∧ e.due = s.now + 185 ∧ e.what = .taskFirstBundle ∧ e.place = { die := r.die, core := nth 0 tm.cores q.ix }))) ∧
      (tm.draining = true → tm.deadline = some s.now → exec (.drainDeadline r) s = .next (killOrSave (s.modTeam r.die r.team fun y =>
        { y with draining := false, deadline := none }) r.die r.team (((s.launch tm.for_).map (tokensOf s)).getD 0))) ∧
      (tm.draining = false ∨ tm.deadline ≠ some s.now → exec (.drainDeadline r) s = .next s)) ∧
    (s.task l = some t →
      (let due := untilGrp s l.die ((((s.team l.die t.team).map (·.start)).getD 0 + 185) % 2 ^ 64);
        due = 0 → ∃ (u : State) (w : Task), exec .taskFirstBundle s = .next u ∧ u.task l = some w ∧ w.arch = t.arch ∧
          w.ctl.dlt = stepTo (s.lcc l.die) (s.grp l.die) ∧ u.gcc l w = s.grp l.die ∧
          (t.phase = .running → w.phase = .running ∧ w.wait = .none ∧ w.shadow.arch = t.arch ∧
            ∃ e ∈ u.calendar, e.due = s.now ∧ e.what = .bundleIssue ∧ e.place = l) ∧
          (t.phase = .stopped → w.phase = .running)) ∧
      (t.phase ≠ .running → exec .taskStop s = .next s ∧ exec .taskRetire s = .next s) ∧
      (t.phase = .running →
        (t.stop = .none ∨ (t.timed = false ∧ 48 < stopEntries s l) → exec .taskStop s = .next (noStop s l t)) ∧
        (t.timed = true ∨ stopEntries s l ≤ 48 →
          (t.stop = .save → ∃ (u : State) (w : Task) (e : Ev), exec .taskStop s = .next u ∧ u.task l = some w ∧ w.phase = .stopped ∧ w.arch = t.arch ∧
            w.stopBundle = (if t.wait.holds then t.fetch.pc else t.last) ∧
            w.stopAt = (if t.wait.holds ∨ t.atPoint = true then s.now - 1 else s.now) ∧ e ∈ u.calendar ∧ e.due = s.now + 1 ∧
            e.what = .saveStart ∧ e.place = l) ∧
          (t.stop = .kill → ∃ u : State, exec .taskStop s = .next u ∧ u.task l = none)) ∧
        (t.wait = .exit →
          (s.now < inFlightEnd s l t → exec .taskRetire s = .next (s.postCore l (inFlightEnd s l t) rkCount .taskRetire)) ∧
          (inFlightEnd s l t ≤ s.now → inFlightOpen t = true ∨ t.rems ≠ [] ∨ t.fsts ≠ [] →
            exec .taskRetire s = .next (s.postCore l (s.now + 1) rkCount .taskRetire)) ∧
          (inFlightEnd s l t ≤ s.now → inFlightOpen t = false → t.rems = [] → t.fsts = [] →
            ∃ u : State, exec .taskRetire s = .next u ∧ u.task l = none))) ∧
      (t.phase = .stopped → t.stop = .save →
        let gang := t.ctl.gang && ((s.die l.die).horizon.isSome || (s.die l.die).tasks.any fun k => k.2.launch = t.launch && k.2.phase = .running)
        (stillOpen s l t = true ∨ gang = true → exec .saveStart s = .next (s.postCore l (s.now + 1) rkSwap .saveStart)) ∧
        (stillOpen s l t = false → gang = false → ∃ (u : State) (w : Task) (e : Ev), exec .saveStart s = .next u ∧ u.task l = some w ∧
          w.phase = .saving ∧ w.arch = t.arch ∧ (u.die l.die).savingCores = (s.die l.die).savingCores ++ [l.core] ∧ e ∈ u.calendar ∧
          e.what = .saveRecordWritten l t.team ∧ s.now < e.due)) ∧
      (t.phase = .saving → s.team l.die t.team = some tm → s.launch t.launch = some x →
        let blocks := recordBlocks s l.die t.ctl.asid (memberBytes s l.die tm t.ctl.taskix)
        (recordPoison s l.die t.ctl.asid blocks = none →
          ∃ (u : State) (y : Launch) (w : SavedTeam) (q : SaveRec), exec (.saveRecordWritten l t.team) s = .next u ∧ u.task l = none ∧
            u.launch t.launch = some y ∧ w ∈ y.saved ∧ w.num = t.team ∧ q ∈ w.recs ∧ q.ix = t.ctl.taskix ∧ q.task = t ∧ q.blocks = blocks ∧
            q.scratch = Mem.bytes (s.die l.die).scratch t.ctl.swbase t.ctl.swsize) ∧
        (∀ a, recordPoison s l.die t.ctl.asid blocks = some a → ∃ u : State, exec (.saveRecordWritten l t.team) s = .next (endLaunch u t.launch 0x101)))) ∧
    (mget s.dies l.die = some d →
      let s0 := nextPass (settleHeads s l.die 64) l.die
      let s1 := settleHeads s0 l.die 64
      (d.hot = true → exec .placementPass s = .next s0) ∧
      (d.hot = false → bids s1 l.die = [] → queueHeads s1 l.die = [] → exec .placementPass s = .next s1) ∧
      (∀ c u, d.hot = false → bids s1 l.die = [b] → placeBid s1 l.die b = some (c, u) →
        let s2 := settleHeads (u.modDie l.die fun y => { y with rr := b.key }) l.die 64
        let s3 := s2.launchNote l.die b.id { type := 1, cycle := waveCycle s0 l.die, used := [c] }
        bids s2 l.die = [] → bids s3 l.die = [] → queueHeads s3 l.die = [] → exec .placementPass s = .next s3))

/-- R21, R28, R229, R293, R307, R308, R339, R361, R362, R391: a completed launch performs its fences and publishes one after another, then
its counters rise in the next cycle and it is complete. A launch whose task faulted ends with the code of its first fault:
no task of it is left on any core. The segments that produce a dropped input run again on the replay queue, and their
outputs are live once they are complete; or the consumer ends with the status that refuses it. At the drain horizon the windows and chunks that a gang left armed are disarmed. -/
def Obligations.LaunchesEnd : Prop :=
  ∀ (s : State) (id : Nat) (x : Launch) (c : Context) (die : Nat) (d : Die),
    s.launch id = some x →
    let todo := (actionHomes x).foldl (fun n h => Nat.max n (h.2.fences.length + h.2.publishes.length)) 0
    (x.phase ≠ .completing ∨ earlierOpen s id x = true → exec (.launchComplete id) s = .next s) ∧
    (x.phase = .completing → earlierOpen s id x = false →
      (∀ h, x.acts < todo → actionHomes x = [h] →
        (completionStep s h.1 id x h.2 x.acts = none → exec (.launchComplete id) s = .next (s.postUnit (s.now + 1) (rkSwap + 1) (.launchComplete id))) ∧
        (∀ u w, completionStep s h.1 id x h.2 x.acts = some (u, w) → exec (.launchComplete id) s =
          .next ((u.modLaunch id fun y => { y with acts := y.acts + 1 }).postUnit (s.now + Nat.max 0 w) (rkSwap + 1) (.launchComplete id)))) ∧
      (todo ≤ x.acts → ∃ u : State, exec (.launchComplete id) s = .next (kickQueue (settleRebuild u x.die x.asid) x) ∧ (u.launch id).map (·.phase) = some .complete ∧
        ∀ h ∈ actionHomes x, counterOk s h.1 x.asid h.2.cc = true →
          ∃ e ∈ u.calendar, e.due = s.now + 1 ∧ e.what = .cincApply h.1 h.2.cc 1)) ∧
    (x.phase.live = true → ∀ status, ((endLaunch s id status).launch id).map (·.phase) = some (.ended status) ∧
      ∀ l t, (endLaunch s id status).task l = some t → t.launch ≠ id) ∧
    (∀ f, x.fault = some f → exec (.faultPropagation id) s = .next (if x.gang.relaunch then s else endLaunch s id f.2.2.2)) ∧
    (x.fault = none → exec (.faultPropagation id) s = .next s) ∧
    (∀ h, s.ctx x.die x.asid = some c → (x.desc.inputs.filter fun h => ((mget c.handles h).map hDropped).getD false) = [h] →
      (∀ k, replayPlan s x.die x.asid 8 h = .error k → exec (.segmentReplay id) s = .next (endLaunch s id k)) ∧
      (∀ segs, replayPlan s x.die x.asid 8 h = .ok segs → ∃ (u : State) (y : Context), exec (.segmentReplay id) s = .next (kickScheduler u x.die) ∧
        u.ctx x.die x.asid = some y ∧ ∀ p ∈ c.producers, p.2 ∈ segs → ∃ ids, mget y.rebuild p.1 = some ids ∧
          ∀ i ∈ ids, ∃ z, u.launch i = some z ∧ z.replay = true ∧ z.queue = 16 ∧ z.desc.level = x.desc.level)) ∧
    (s.ctx x.die x.asid = some c → ∀ r ∈ c.rebuild, (∀ i ∈ r.2, (s.launch i).map (·.phase) = some .complete) →
      ∃ y, (settleRebuild s x.die x.asid).ctx x.die x.asid = some y ∧ mget y.handles r.1 = (mget c.handles r.1).map undrop) ∧
    (mget s.dies die = some d → x.gang.relaunch = false → (∀ k, x.phase ≠ .ended k) →
      ((∀ h, d.horizon = some h → h ≤ s.now) → ∃ u : State, exec (.drainHorizon die id) s = .next u ∧ (u.die die).horizon = none ∧
        (u.die die).left = d.left.filter (fun w => w.1 != id) ∧ (u.die die).scratch = d.scratch ∧
        (d.horizon = some s.now → d.ttLaunch = id → ∀ k st, mget (u.die die).chunks k = some st → st.armed = false ∧ st.count = 0)) ∧
      (∀ h, d.horizon = some h → s.now < h → ∃ u : State, exec (.drainHorizon die id) s = .next u ∧ (u.die die).horizon = some h ∧
        (u.die die).left = d.left ∧ (u.die die).chunks = d.chunks))

/-- R87, R402, R403, R405, R407, R408, R411, R412: the Ox engine. It starts the head of its queue in the first cycle its earliest
start allows, one command at a time. NORM stores the sum of squares, unit after unit, at its destination and increments
its counter one cycle later, with a record of each event kind. UPD waits for its norm counter, reads the norm in G0 and forms the clip factor, or skips
every tile; a tile waits for its gradient gate, publishes 320 or 256 cycles later when nothing of it lies in main memory,
and the next starts in the following cycle; the last publication writes the status word, and one cycle later the
completion counter rises. A pending write of another source to an entry ends the command with the fault 0x24. -/
def Obligations.OptimizerEvents : Prop :=
  ∀ (s : State) (id : Nat) (rest : List Nat) (c : Cmd) (o : OxRun) (d : Die) (u : Nat) (b : Map (BitVec 512)),
    let die := s.at_.die
    let swapped (k : Nat) (x : Nat × BitVec 256) : Nat × BitVec 256 := if x.1 = k then (x.1, swapEntry x.2) else x
    mget s.dies die = some d → mget d.cmds id = some c →
    (d.ox = none → d.oxq = id :: rest →
      (c.acc = false ∨ s.now < c.from_ → exec .oxCommandStart s = .next (kickOx s die)) ∧
      (c.acc = true → c.from_ ≤ s.now → ∃ s1 : State, (s1.die die).ox = some { cmd := id, start := s.now } ∧ (s1.die die).oxq = rest ∧
        s1.cmd die id = some c ∧ s1.calendar = s.calendar ∧ s1.now = s.now ∧ (∀ l, s1.task l = s.task l) ∧
        exec .oxCommandStart s = .next (if c.kind = .norm then startNorm s1 die id c else s1.postDie die (s.now + 1) rkRead .updNormGate))) ∧
    (d.ox.isSome ∨ d.oxq = [] → exec .oxCommandStart s = .next s) ∧
    (let xs := (List.range 16).flatMap fun i => blockWords (rd b (16 * u + i));
      let sq := treeSum 8 (xs.map fun x => fmul .f32 x x);
      let sum := fadd .f32 (normSum b u).1 sq.1;
      normSum b 0 = (0, []) ∧ normSum b (u + 1) = (sum.1, (normSum b u).2 ++ [sq.2 ||| sum.2])) ∧
    (d.ox = some o → o.cmd = id →
      (c.kind = .norm → ∃ a : Access, a.op = .write ∧ a.mem = .scratch ∧ a.asid = c.asid ∧ a.die = c.loc.die ∧ a.shape = { base := c.dst, n := 1 } ∧
        a.data.toNat % 2 ^ 32 = (normSum c.buf c.n).1 % 2 ^ 32 ∧ exec .normResultWrite s =
          .next ((cmdEvents (performWrite s a) c (normSum c.buf c.n).2).postDie die (s.now + 1) rkCount (.muleCommandComplete die id))) ∧
      (counterVal s die c.aux < c.xv → exec .updNormGate s = .next (s.postDie die (s.now + 1) rkRead .updNormGate)) ∧
      (c.xv ≤ counterVal s die c.aux →
        let sum := readScratch s die c.asid (dfield c.desc 40 8) 4
        let maxn := dfield (rd c.buf 4096) 36 4
        let norm := (fsqrt32 sum).1
        (isNaN .f32 norm = true ∨ norm % 2 ^ 31 = 0x7F800000 → ∃ (s1 : State) (p : OxRun), exec .updNormGate s =
            .next ((s1.postDie die s.now (rkWrite + 26) .updCompletion).postDie die (s.now + 1) rkCount (.muleCommandComplete die id)) ∧
          s1.calendar = s.calendar ∧ s1.now = s.now ∧ (s1.die die).ox = some p ∧ p.skip = true ∧ p.pubs = o.pubs ∧ p.g0 = some s.now) ∧
        (isNaN .f32 norm = false → norm % 2 ^ 31 ≠ 0x7F800000 → ∃ (s1 : State) (p : OxRun), exec .updNormGate s =
            .next (s1.postDie die (s.now + 1) (rkRead - 1) .updTileStart) ∧
          s1.calendar = s.calendar ∧ s1.now = s.now ∧ (s1.die die).ox = some p ∧ p.skip = o.skip ∧ p.g0 = some s.now ∧
          p.factor = (if flt .f32 maxn norm then (fdiv32 maxn norm).1 else 0x3F800000) ∧
          p.clip = (fsqrt32 sum).2 ||| (if flt .f32 maxn norm then (fdiv32 maxn norm).2 else 0))) ∧
      (let gated := updGate c.desc = true ∧ counterVal s die (dfield c.desc 20 1) < dfield c.desc 12 4 + o.tile + 1;
        (gated → exec .updTileStart s = .next (s.postDie die (s.now + 1) (rkRead - 1) .updTileStart)) ∧
        (¬gated → ∃ (s1 : State) (dur : Nat), exec .updTileStart s = .next (s1.postDie die (s.now + dur) rkSwap .updTilePublish) ∧ 3 ≤ dur ∧
          (c.timed = true ∨ updFar s c o.tile = false → dur = if updOpt c = 0 then 320 else 256) ∧
          (s1.die die).ox = some { o with pk := some (s.now + dur), out := [], evs := if o.clip = 0 then [] else [o.clip], clip := 0 } ∧ (∀ l, s1.task l = s.task l) ∧
          (∀ e ∈ s.calendar, e ∈ s1.calendar) ∧
          (∀ e ∈ s1.calendar, e ∈ s.calendar ∨ (s.now ≤ e.due ∧ e.due + 1 < s.now + dur)))) ∧
      (let e1 := updEs c o.tile; let e2 := updEn c o.tile;
        (writePending s die c.asid e1 (some id) = true ∨ writePending s die c.asid e2 (some id) = true → ∃ s1 : State,
          exec .updTilePublish s = .next (engineFault ((endOx s1 die id).dropCmd die id) c 0x24) ∧
          s1 = discardEntry (discardEntry (writeStatus s { o with bad := true } c) die c.asid e1) die c.asid e2) ∧
        (writePending s die c.asid e1 (some id) = false → writePending s die c.asid e2 (some id) = false → ∃ s1 : State,
          (s1.die die).ox = some { o with pubs := o.pubs + 1, tile := o.tile + 1, pk := none } ∧ s1.calendar = s.calendar ∧ s1.now = s.now ∧
          (∀ y, s.ctx die c.asid = some y → ∃ z, s1.ctx die c.asid = some z ∧ z.shadows = (y.shadows.map (swapped e1)).map (swapped e2)) ∧
          exec .updTilePublish s = .next (if o.tile + 1 < c.n then s1.postDie die (s.now + 1) (rkRead - 1) .updTileStart
            else (s1.postDie die s.now rkSwap .updCompletion).postDie die (s.now + 1) rkCount (.muleCommandComplete die id)))) ∧
      (exec .updCompletion s = .next (writeStatus s o c) ∧ ∃ a : Access, writeStatus s o c = performWrite s a ∧ a.op = .write ∧ a.mem = .scratch ∧
        a.shape = { base := dfield c.desc 32 8, n := 2 } ∧
        a.data = (BitVec.ofNat 512 (o.g0gcc % 2 ^ 32 + bit o.skip * 2 ^ 32 + bit o.bad * 2 ^ 33 + o.pubs * 2 ^ 48)).setWidth 4096))

/-- R194 to R196, R202, R204, R205, R252, R365 to R367: errors of the arrays. The scrubber corrects every flipped word of
its line of each array and moves on 64 cycles later. An uncorrectable SRAM error is recorded and ends the context that owns the word; a
slice line without an owner is zeroed; in a core's own arrays it retires the core. An uncorrectable main-memory error is
recorded and poisons its block, ending the context of its page; a block of no context is cleared. A pseudo-channel
retires once, is counted, its blocks are corrected as they move, and REPLACE is set (that its DPAs keep their bytes is
deduced, log entry 91). A retired core that holds no task is replaced by its cluster's spare, with every
owned line; without a spare it becomes absent and its owned lines are lost. The accesses to main memory that would perform
in a refresh window perform at its end. -/
def Obligations.ErrorEvents : Prop :=
  ∀ (s : State) (d : Die) (t : Task) (l : Loc) (unit addr dpa stack pc o : Nat),
    s.memOk = true → mget s.dies l.die = some d → l.core < 256 →
    let die := l.die
    let only (u : State) : Prop := u.calendar = s.calendar ∧ u.launches = s.launches ∧ (∀ k, u.task k = s.task k)
    let gone (f : Byte → Prop) (m m1 : Mem) (x n : Nat) : Prop := ∀ a, (x ≤ a ∧ a < x + n → f (Mem.rd m1 a)) ∧ (a < x ∨ x + n ≤ a → Mem.rd m1 a = Mem.rd m a)
    let zero (b : Byte) : Prop := b = 0
    (s.at_.die = die → ∃ u : State, exec .scrubStep s = .next (u.postDie die (s.now + 64) rkRead .scrubStep) ∧
      (u.die die).fscrub = (d.fscrub + 1) % 32768 ∧ (u.die die).scratch = d.scratch ∧ (∀ k, u.task k = s.task k) ∧
      (∀ a, a % 8 = 0 → mget (u.die die).flips a = if a % 2 ^ 21 / 64 = d.fscrub % 32768 then none else mget d.flips a) ∧
      ∀ a, a ∈ (u.die die).aflips ↔ a ∈ d.aflips ∧ arrayLine a ≠ d.fscrub % arrayLines a.unit) ∧
    (let i := Instr.uncorrectableSramError { unit := 0, loc := l, addr };
      let rec_ (f : Nat) : BitVec 512 := errRecord 2 (unitField 0 (addr / 2 ^ 26) (saCore addr)) f 0x2D addr (s.grp die) 0 [];
      (mget d.tags (addr / 64) = none → ∃ u : State, exec i s = .next u ∧ only u ∧ gone zero d.scratch (u.die die).scratch (addr / 64 * 64) 64 ∧
        (d.erecs.length < 256 → (u.die die).erecs = d.erecs ++ [rec_ 0])) ∧
      (mget d.tags (addr / 64) = some o → ∃ u : State, exec i s = .next (endContext u o 0x2D none) ∧ only u ∧
        (d.erecs.length < 256 → (u.die die).erecs = d.erecs ++ [rec_ (o + 2 ^ 15)]))) ∧
    (1 ≤ unit → unit ≤ 5 → s.task l = some t → l.core ∉ d.toRetire → l.core ∉ d.absent → ∃ v : State,
      exec (.uncorrectableSramError { unit, loc := l, addr }) s = .next v ∧ l.core ∈ (v.die die).toRetire ∧
      (∃ e ∈ v.calendar, e.due = s.now ∧ e.what = .coreRetirement ∧ e.place = l) ∧
      ∀ x, s.launch t.launch = some x → x.asid = t.ctl.asid → x.phase.live = true → ∃ y, v.launch t.launch = some y ∧ y.phase = .ended 0x2D) ∧
    (let i := Instr.uncorrectableMemoryError die dpa unit;
      let b := dpa / 64;
      (pageOwners d dpa = [] → ∃ u : State, exec i s = .next u ∧ only u ∧ gone zero d.dram (u.die die).dram (b * 64) 64 ∧ b ∉ (u.die die).poison ∧
        (d.erecs.length < 256 → (u.die die).erecs = d.erecs ++ [errRecord 4 unit 0 0x2E (b * 64) (s.grp die) 0 []])) ∧
      (pageOwners d dpa = [o] → ∃ u : State, exec i s = .next (endContext u o 0x2E none) ∧ only u ∧ b ∈ (u.die die).poison ∧ (u.die die).dram = d.dram ∧
        (d.erecs.length < 256 → (u.die die).erecs = d.erecs ++ [errRecord 4 unit (o + 2 ^ 15) 0x2E (b * 64) (s.grp die) 0 []]))) ∧
    (let key := stack * 64 + pc;
      (key ∈ d.retiredPc → exec (.pseudoChannelRetirement die stack pc) s = .next s) ∧
      (key ∉ d.retiredPc → ∃ u : State, exec (.pseudoChannelRetirement die stack pc) s = .next u ∧ only u ∧ (u.die die).retiredPc = d.retiredPc ++ [key] ∧
        (u.die die).dram = d.dram ∧ bits (u.die die).health.toNat 0 0 = 1 ∧
        (∀ b, b ∈ (u.die die).mflips ↔ b ∈ d.mflips ∧ ¬(dpaHbm (b * 64) = true ∧ dpaStack (b * 64) = stack ∧ dpaPc (b * 64) = pc)) ∧
        bits (u.die die).health.toNat 47 40 = Nat.min (bits d.health.toNat 47 40 + 1) 255)) ∧
    (s.at_ = l →
      let c := l.core / 32
      let owned (a : Nat) : Prop := saSlice a = l.core ∧ (mget d.tags (a / 64)).isSome
      (s.task l = some t ∨ l.core ∉ d.toRetire → exec .coreRetirement s = .next s) ∧
      (s.task l = none → l.core ∈ d.toRetire →
        (c ∉ d.spares → ∃ u : State, exec .coreRetirement s = .next u ∧ only u ∧ (u.die die).spares = d.spares ++ [c] ∧ (u.die die).tags = d.tags ∧
          l.core ∉ (u.die die).toRetire ∧ (u.die die).absent = d.absent ∧ bits (u.die die).health.toNat (18 + c) (18 + c) = 1 ∧
          ∀ a, (owned a ∨ saSlice a ≠ l.core → Mem.rd (u.die die).scratch a = Mem.rd d.scratch a)) ∧
        (c ∈ d.spares → ∃ u : State, exec .coreRetirement s = .next u ∧ only u ∧ (u.die die).absent = d.absent ++ [l.core] ∧
          l.core ∉ (u.die die).toRetire ∧ (u.die die).spares = d.spares ∧ bits (u.die die).health.toNat 0 0 = 1 ∧
          (∀ e, e ∈ (u.die die).tags ↔ e ∈ d.tags ∧ saSlice (e.1 * 64) ≠ l.core) ∧
          ∀ a, saSlice a ≠ l.core → Mem.rd (u.die die).scratch a = Mem.rd d.scratch a))) ∧
    (s.at_.die = die → ∃ (u : State) (next : Nat), exec .refreshWindow s = .next (u.postDie die next 0 .refreshWindow) ∧ u.dies = s.dies ∧
      s.now < next ∧ next ≤ s.now + 16384 ∧ (s.grp die + (next - s.now)) % 16384 = 16128 ∧
      ∀ e, (let held : Bool := match e.what with
          | .accessPerform a => a.die = die && a.mem != .scratch && decide (e.due < s.now + 256)
          | _ => false;
        e ∈ s.calendar → (held = false → e ∈ u.calendar) ∧ (held = true → { e with due := s.now + 256 } ∈ u.calendar)))

/-- R351, R352, R354, R357: the retry layer of a long-haul port. A frame that fails its integrity or its replay check is dropped
and counted; one received before changes nothing; a new one adds its units, and the cumulative number moves to the first
frame still missing; an acknowledgement is due 10 us after the first frame since the last, or at the 4,096th. It returns the
cumulative number and a bitmap of the 256 frames behind it. Acknowledged frames leave the window, the last one of a FARS
completes it, and frames below a received one are sent again as new MACsec frames, as is one without acknowledgement for
8 ms; the sixteenth resend, or 100 ms without progress, loses the endpoint, and every FARS and FARR of the port that has not
completed ends with the fault 0x2B. -/
def Obligations.LongHaul : Prop :=
  ∀ (s : State) (f : LhFrame) (d : Die) (e : Endpoint) (x : LhSent) (c : Cmd) (cum bitmap seq : Nat),
    let die := f.die; let port := f.port; let ep := f.ep
    let key := epKey port ep
    mget s.dies die = some d → mget d.endpoints key = some e →
    let ends (u : State) (e1 : Endpoint) : Prop := mget (u.die die).endpoints key = some e1
    let loss (n : Nat) : State := s.postDie die n rkArrive (.endpointLoss die port ep)
    let resent (u : State) (y : LhSent) : Prop := ∃ v : State, u = v.postDie die (s.now + 28800000) rkArrive (.longhaulResendTimeout die port ep y.frame.seq) ∧
      v.calendar = s.calendar ∧ v.now = s.now
    let again (y : LhSent) : LhSent := { y with resends := y.resends + 1, at_ := s.now, frame := { y.frame with pn := e.nextPn } }
    (f.intact = false ∨ e.valid = false ∨ f.pn ∈ e.pns ∨ f.pn + 2 ^ 20 ≤ e.pnMax → ∃ u : State, exec (.longhaulFrameReceive f) s = .next u ∧
      ends u { e with dropped := e.dropped + 1 } ∧ u.calendar = s.calendar ∧ (u.die die).dram = d.dram) ∧
    (f.intact = true → e.valid = true → f.pn ∉ e.pns → e.pnMax < f.pn + 2 ^ 20 →
      (f.seq < e.cum ∨ f.seq ∈ e.got → ∃ (u : State) (e1 : Endpoint), exec (.longhaulFrameReceive f) s = .next u ∧ ends u e1 ∧
        e1.cum = e.cum ∧ e1.got = e.got ∧ e1.data = e.data ∧ e1.dropped = e.dropped ∧ f.pn ∈ e1.pns ∧ u.calendar = s.calendar) ∧
      (e.cum ≤ f.seq → f.seq ∉ e.got → ∃ (u : State) (e1 : Endpoint), exec (.longhaulFrameReceive f) s = .next (farrAll u die port) ∧ ends u e1 ∧
        e1.data = e.data ++ frameUnits f ∧ e1.sinceAck = e.sinceAck + 1 ∧ e1.dropped = e.dropped ∧ f.pn ∈ e1.pns ∧ e1.unacked = e.unacked ∧
        e.cum ≤ e1.cum ∧ e1.cum ∉ f.seq :: e.got ∧ (∀ n, e.cum ≤ n → n < e1.cum → n ∈ f.seq :: e.got) ∧
        (e.sinceAck = 0 → ∃ v ∈ u.calendar, v.due = s.now + 36000 ∧ v.what = .longhaulAckSend die port ep) ∧
        (e.sinceAck = 4095 → ∃ v ∈ u.calendar, v.due = s.now ∧ v.what = .longhaulAckSend die port ep))) ∧
    (e.sinceAck = 0 → exec (.longhaulAckSend die port ep) s = .next s) ∧
    (e.sinceAck ≠ 0 → ∃ (u : State) (m : Nat), exec (.longhaulAckSend die port ep) s = .next u ∧
      ends u { e with acked := (e.cum, m), sinceAck := 0 } ∧ u.calendar = s.calendar ∧ ∀ i, i < 256 → (m / 2 ^ i % 2 = 1 ↔ e.cum + 1 + i ∈ e.got)) ∧
    (let i := Instr.longhaulAckReceive die port ep cum bitmap;
      e.held = [] →
      (bitmap = 0 → ∃ (u : State) (e1 : Endpoint), exec i s = .next u ∧ ends u e1 ∧ e1.unacked = e.unacked.filter (fun y => cum ≤ y.frame.seq) ∧
        e1.cum = e.cum ∧ e1.got = e.got ∧ (e1.unacked.length < e.unacked.length → e1.progress = s.now)) ∧
      (e.unacked = [x] → x.frame.seq < cum → mget d.cmds x.cmd = some c → c.left = 1 → ∃ u : State, exec i s = .next u ∧
        ∃ v ∈ u.calendar, v.due = s.now ∧ v.what = .muleCommandComplete die x.cmd) ∧
      (∀ k, e.unacked = [x] → x.frame.seq = cum → k < 256 → bitmap = 2 ^ k → x.resends < 15 →
        ∃ (u : State) (v : State) (e1 : Endpoint), exec i s = .next u ∧ resent v x ∧ u.calendar = v.calendar ∧ ends u e1 ∧ e1.unacked = [again x] ∧
          e1.nextPn = e.nextPn + 1)) ∧
    (let i := Instr.longhaulResendTimeout die port ep seq;
      (e.lost = true ∨ (e.unacked.find? fun y => y.frame.seq = seq) = none → exec i s = .next s) ∧
      (e.lost = false → (e.unacked.find? fun y => y.frame.seq = seq) = some x →
        (e.progress + 360000000 ≤ s.now → exec i s = .next (loss s.now)) ∧
        (s.now < e.progress + 360000000 →
          (s.now < x.at_ + 28800000 → exec i s = .next (s.postDie die (x.at_ + 28800000) rkArrive i)) ∧
          (x.at_ + 28800000 ≤ s.now →
            (16 ≤ x.resends → exec i s = .next (loss s.now)) ∧
            (x.resends < 16 → ∃ (u : State) (e1 : Endpoint), exec i s = .next u ∧ ends u e1 ∧ e1.nextPn = e.nextPn + 1 ∧
              e1.unacked = e.unacked.map (fun y => if y.frame.seq = seq then again y else y)
                ∧ (x.resends < 15 → resent u x) ∧
              (x.resends = 15 → ∃ v ∈ u.calendar, v.due = s.now ∧ v.what = .endpointLoss die port ep)))))) ∧
    (let hit := d.cmds.filter fun y => (y.2.kind = .fars || y.2.kind = .farr) && y.2.aux = port && y.2.acc && y.2.n > 0;
      let lost (u : State) : Prop := (∃ e1, ends u e1 ∧ e1.lost = true ∧ e1.got = e.got ∧ e1.data = e.data) ∧ (∀ l, u.task l = s.task l) ∧
        (d.erecs.length < 256 → (u.die die).erecs = d.erecs ++ [errRecord 12 (unitField 12 0 port) 0 0x2B 0 (s.grp die) 0 []]);
      (hit = [] → ∃ u : State, exec (.endpointLoss die port ep) s = .next u ∧ lost u ∧ u.calendar = s.calendar) ∧
      (∀ id, hit = [(id, c)] → ∃ u : State, exec (.endpointLoss die port ep) s = .next (engineFault (u.dropCmd die id) c 0x2B) ∧ lost u ∧
        (c.kind = .farr → u.calendar = s.calendar) ∧ (c.kind = .fars → u.calendar = s.calendar.map (keepEfb [id]))))

/-- R238, R255, R433 to R435, R438, R440, R442 to R444: the host interface. A command that ends posts its status word, with RESULT and the entry's
tag, behind every earlier write, and the next entry of the ring is taken. The first doorbell locks RBASE and RSIZE; one
that passes HEAD by more than the depth is ignored and signalled, and one before Ebile is ready is taken when it is; what the
host wrote before a doorbell is visible from then on. An undefined opcode answers UNKNOWN. A patch image is installed only when its digest and its signature check. A junction
reading is noted; WARM and HOT signal the host, HOT holds the dispatch until COOL, and TRIP removes the power. -/
def Obligations.HostInterface : Prop :=
  ∀ (s : State) (tail off : Nat) (val : Word) (die status result : Nat) (temp : Int) (digestOk sigOk : Bool) (digest : BitVec 256),
    let h := s.host
    let depth := 2 ^ h.rsize
    let entry : BitVec 512 := BitVec.ofNat 512 (Mem.num (s.die 0).dram (h.rbase + 64 * (h.head % depth)) 64)
    let word := status % 2 ^ 16 + result % 2 ^ 16 * 2 ^ 16 + entryField h.cmd 4 4 * 2 ^ 32
    (h.busy = true ∨ h.head = h.tail ∨ s.now < h.readyAt → popEntry s = s) ∧
    (h.busy = false → h.head ≠ h.tail → h.readyAt ≤ s.now → ∃ (u : State) (n : Nat), s.now < n ∧
      popEntry s = u.postUnit n rkCount (commandOf entry) ∧
      u = { s with host := { h with busy := true, cmd := entry, head := (h.head + 1) % 2 ^ 32 }, free := u.free }) ∧
    (reply s status result = popEntry { s with host := { h with busy := false, hold := none, posted := h.posted ++ [(entryField h.cmd 16 8, bytesOf word 8)] } }) ∧
    (exec .undefinedCommand s = .next (reply s 11 0)) ∧
    (s.now < h.readyAt → exec (.hostDoorbell tail) s =
      .next ({ s with host := { h with locked := true } }.postUnit h.readyAt rkCount (.hostDoorbell tail))) ∧
    (h.readyAt ≤ s.now →
      ∃ u : State, u.host = { h with locked := true, writes := [] } ∧ u.calendar = s.calendar ∧ (∀ l, u.task l = s.task l) ∧
        (∀ d a b, h.writes = [(d, a, b)] → (mget s.dies d).isSome → s.memOk = true → Mem.bytes (u.die d).dram a b.length = b ∧
          ∀ k, k < a ∨ a + b.length ≤ k → Mem.rd (u.die d).dram k = Mem.rd (s.die d).dram k) ∧
        (h.writes = [] → u.dies = s.dies) ∧
        (depth < (tail % 2 ^ 32 + 2 ^ 32 - h.head) % 2 ^ 32 → exec (.hostDoorbell tail) s = .next { u with host := { u.host with events := h.events ++ [4] } }) ∧
        ((tail % 2 ^ 32 + 2 ^ 32 - h.head) % 2 ^ 32 ≤ depth → exec (.hostDoorbell tail) s =
          .next (popEntry { u with host := { u.host with tail := tail % 2 ^ 32 } }))) ∧
    (h.locked = true ∨ (off ≠ 8 ∧ off ≠ 16) ∨ (off = 16 ∧ (val.toNat < 6 ∨ 16 < val.toNat)) → exec (.registerWrite off val) s = .next s) ∧
    (h.locked = false →
      exec (.registerWrite 8 val) s = .next { s with host := { h with rbase := val.toNat / 64 * 64 } } ∧
      (6 ≤ val.toNat → val.toNat ≤ 16 → exec (.registerWrite 16 val) s = .next { s with host := { h with rsize := val.toNat } })) ∧
    (exec (.patchImageLoad digestOk sigOk digest) s = .next { s with host :=
      if digestOk && sigOk then { h with patch := some digest, patchStatus := 0 } else { h with patchStatus := 8 } }) ∧
    ((s.die die).started = false → ∀ i ∈ [Instr.junctionWarm die temp, .junctionHot die temp, .junctionCool die temp, .junctionTrip die temp],
      exec i s = .next s) ∧
    ((s.die die).started = true →
      let h1 := { h with peak := Nat.max h.peak (Nat.min temp.toNat 255) }
      exec (.junctionWarm die temp) s = .next { s with host := { h1 with warm := true, events := h.events ++ [2] } } ∧
      (∃ u : State, exec (.junctionHot die temp) s = .next u ∧ u.host = { h1 with hot := true, events := h.events ++ [2] } ∧ (u.die die).hot = true ∧
        u.calendar = s.calendar ∧ ∀ l, u.task l = s.task l) ∧
      (∃ u : State, exec (.junctionCool die temp) s = .next (kickScheduler u die) ∧ u.host = h1 ∧ (u.die die).hot = false ∧ u.calendar = s.calendar ∧
        ∀ l, u.task l = s.task l) ∧
      (∃ u : State, exec (.junctionTrip die temp) s = .next u ∧ u.powered = false ∧ u.calendar = [] ∧ u.launches = [] ∧ u.host.trip = true ∧
        ∀ k v, mget u.dies k = some v → v.started = false ∧ v.tasks = [] ∧ v.ctxs = [] ∧ v.dram = [] ∧ v.scratch = []))

/-- R203, R284, R302, R307, R310 to R317, R320, R324 to R327, R437, R439, R450, R451: the commands on contexts and their tables. On a context
that is not live each answers NOT_FOUND. CONTEXT_CREATE makes an empty context with its parameters and save area, and answers
BUSY for a live ASID; CONTEXT_DESTROY waits for what is in flight, then frees and zeroes all of it. MAP writes a leaf, a page
that no context maps being zeroed first and poisoned blocks rewritten; UNMAP, PROTECT, PIN, UNPIN and MIGRATE change one, after the accesses under the
old leaf: NOT_FOUND without a leaf, PINNED when a placed gang lists it. A migrated page keeps its contents and is
held until its accesses are done. Apertures,
grants, shadow map entries and handles are written after their checks; DROP marks its handle. -/
def Obligations.ContextCommands : Prop :=
  ∀ (s : State) (c : Context) (d : Die) (e b va l : Nat) (p : SchedParams) (root : List Nat) (s1 s2 : State) (h : BitVec 512) (y : BitVec 256),
    let die := s.cDie
    let asid := s.cAsid
    let replies (i : Instr) (st : Nat) : Prop := exec i s = .next (reply s st 0)
    let ok (i : Instr) (P : State → Prop) : Prop := ∃ u : State, exec i s = .next (reply u 0 0) ∧ u.host = s.host ∧ u.now = s.now ∧ P u
    let has (c1 : Context) (u : State) : Prop := u.ctx die asid = some c1
    let waits (i : Instr) : Prop := exec i s = .next (s.postUnit (s.now + 1) rkCount (commandOf s.host.cmd))
    let all : List Instr := [.contextParameters, .map, .unmap, .protect, .pin, .unpin, .migrate, .apertureWrite, .apertureGrant, .shadowMapWrite,
      .shadowMapInvalidate, .handle, .drop]
    let page := 2 ^ levelShift l
    va = s.arg 0 8 → l = sizeLevel (s.arg 16 1) → s.memOk = true → mget s.dies die = some d →
    (s.ctx die asid = none → (∀ i ∈ all, replies i 13) ∧ replies .contextDestroy 13) ∧
    (s.ctx die asid = some c → c.killed = true → ∀ i ∈ all, replies i 13) ∧
    (d.started = false → replies .contextCreate 11) ∧
    (d.started = true →
      ((∃ x ∈ s.dies, ∃ k, mget x.2.ctxs asid = some k ∧ (x.1 = die ∨ k.killed = true)) → replies .contextCreate 6) ∧
      ((∀ x ∈ s.dies, mget x.2.ctxs asid = none) → argParams s = some p → takeRoot s die = some (root, s1) →
        (takePool s1 die (roundUp (s.arg 0 8) 4096) 4096 = none → replies .contextCreate 3) ∧
        (takePool s1 die (roundUp (s.arg 0 8) 4096) 4096 = some (b, s2) → ok .contextCreate (has
          { root, params := p, saveBase := b, saveSize := s.arg 0 8, saveFree := s.arg 0 8, quota := s.arg 8 8 })))) ∧
    (s.ctx die asid = some c → c.killed = false →
      (argParams s = none → replies .contextParameters 11) ∧
      (argParams s = some p → ok .contextParameters (has { c with params := p })) ∧
      (launchesOn s die asid = [] →
        (ctxBusy s die asid = true → waits .contextDestroy) ∧
        (ctxBusy s die asid = false → ok .contextDestroy fun u => u.ctx die asid = none ∧
          (∀ k n, mget (u.die die).counters k = some n → n.asid ≠ asid) ∧ (∀ x ∈ (u.die die).tags, x.2 ≠ asid) ∧
          ∀ a, mget d.tags (a / 64) = some asid → Mem.rd (u.die die).scratch a = 0)) ∧
      (let x := leafBits (s.arg 17 1) + s.arg 18 1 * 256 + s.arg 8 8;
        (3 < s.arg 16 1 ∨ 2 ^ 52 ≤ va ∨ va % page ≠ 0 ∨ 32 ≤ s.arg 17 1 ∨ s.arg 8 8 % 65536 ≠ 0 ∨ 2 ^ 52 ≤ s.arg 8 8 ∨ leafBad die c l x = true → replies .map 11) ∧
        (s.arg 16 1 ≤ 3 → va < 2 ^ 52 → va % page = 0 → s.arg 17 1 < 32 → s.arg 8 8 % 65536 = 0 → s.arg 8 8 < 2 ^ 52 → leafBad die c l x = false →
          buildTables s die asid va (l - 1) 1 = some s1 → mget c.ptes (pteKey l va) = none →
          ok .map fun u => (∃ c1, has c1 u ∧ mget c1.ptes (pteKey l va) = some (BitVec.ofNat 64 x)) ∧
            (let zeroed : Prop := s.arg 18 1 = 0 ∧ dpaHbm (ptePage x) = true ∧ mappedNow d (ptePage x) page = false;
              ∀ a, let inPage : Prop := ptePage x ≤ a ∧ a < ptePage x + page;
                (inPage → zeroed ∨ (s.arg 18 1 = 0 ∧ a / 64 ∈ d.poison) → Mem.rd (u.die die).dram a = 0 ∧ a / 64 ∉ (u.die die).poison) ∧
                (¬inPage ∨ (¬zeroed ∧ (a / 64 ∉ d.poison ∨ s.arg 18 1 ≠ 0)) → Mem.rd (u.die die).dram a = Mem.rd d.dram a)))) ∧
      (let changes : List Instr := [.unmap, .protect, .pin, .unpin, .migrate];
        (3 < s.arg 16 1 ∨ 2 ^ 52 ≤ va ∨ leafAt c l va = none → ∀ i ∈ changes, replies i 13) ∧
        (s.arg 16 1 ≤ 3 → va < 2 ^ 52 → leafAt c l va = some e →
          (pagePinned s die asid l va = true → replies .unmap 4 ∧ replies .protect 4 ∧ replies .unpin 4 ∧ (pteApr e = 0 → replies .migrate 4)) ∧
          (pageBusy s die asid l va = true → waits .pin ∧
            (pagePinned s die asid l va = false → waits .unmap ∧ waits .protect ∧ waits .unpin ∧ (pteApr e = 0 → exec .migrate s =
              .next ((holdPage s die asid l va).postUnit (s.now + 1) rkCount (commandOf s.host.cmd))))) ∧
          (pageBusy s die asid l va = false →
            let leaf (n : Nat) (u : State) : Prop := has { c with ptes := mset c.ptes (pteKey l va) (BitVec.ofNat 64 n) } u ∧ (u.die die).dram = d.dram ∧
              (asid, l, va / page) ∉ (u.die die).tlb
            (leafBad die c l (e ||| 64) = false → ok .pin (leaf (e ||| 64))) ∧
            (pagePinned s die asid l va = false →
              ok .unmap (leaf 0) ∧
              (∀ n, n = (if ptePin e then e - 64 else e) → pteV n = true → leafBad die c l n = false → ok .unpin (leaf n)) ∧
              (32 ≤ s.arg 17 1 → replies .protect 11) ∧
              (∀ n, n = e - e % 128 + leafBits (s.arg 17 1) → s.arg 17 1 < 32 → pteV n = true → leafBad die c l n = false → ok .protect (leaf n)) ∧
              (pteApr e = 0 → poisonIn d (ptePage e) page = none → newPage s die l (pteC e) = some (b, s1) →
                (s.arg 18 1 ≠ 0 ∨ (pteC e = true ∧ dpaCxl b = false) → replies .migrate 11) ∧
                (s.arg 18 1 = 0 → pteC e = false ∨ dpaCxl b = true → ptePage e + page ≤ b ∨ b + page ≤ ptePage e → ok .migrate fun u =>
                  (∃ c1, has c1 u ∧ mget c1.ptes (pteKey l va) = some (BitVec.ofNat 64 (e - ptePage e + b))) ∧
                  ∀ i, i < page → Mem.rd (u.die die).dram (b + i) = Mem.rd d.dram (ptePage e + i) ∧ Mem.rd (u.die die).dram (ptePage e + i) = 0))) ∧
            (pteApr e ≠ 0 → aperture c (pteApr e) = none → replies .migrate 5)) ∧
          (∀ ap tc te back, pteApr e ≠ 0 → aperture c (pteApr e) = some ap → apDie ap ≠ die →
            let td := apDie ap; let ta := apAsid ap; let tva := (va / page * page + apOffset ap) % 2 ^ 52
            s.ctx td ta = some tc → leafAt tc l tva = some te → aperture tc (s.arg 18 1) = some back →
            pteApr te = 0 → tva % page = 0 → apDie back = die → apAsid back = asid → (tva + apOffset back) % 2 ^ 52 = va / page * page →
            let pinned := pagePinned s td ta l tva = true ∨ pagePinned s die asid l va = true
            let busy := pageBusy s td ta l tva = true ∨ pageBusy s die asid l va = true
            (pinned → replies .migrate 4) ∧
            (¬pinned → busy → exec .migrate s = .next ((holdPage s td ta l tva).postUnit (s.now + 1) rkCount (commandOf s.host.cmd))) ∧
            (¬pinned → ¬busy → poisonIn (s.die td) (ptePage te) page = none → newPage s die l (pteC e) = some (b, s1) → ok .migrate fun u =>
              (∃ k, has k u ∧ mget k.ptes (pteKey l va) = some (BitVec.ofNat 64 (e % 256 - (if pteC e && !dpaCxl b then 32 else 0) + b))) ∧
              (∃ k, u.ctx td ta = some k ∧ mget k.ptes (pteKey l tva) =
                some (BitVec.ofNat 64 (te % 256 - (if pteC te then 32 else 0) + s.arg 18 1 * 256))) ∧
              ∀ i, i < page → Mem.rd (u.die die).dram (b + i) = Mem.rd (s.die td).dram (ptePage te + i) ∧
                Mem.rd (u.die td).dram (ptePage te + i) = 0)))) ∧
      (let n := s.arg 8 16; let a := BitVec.ofNat 128 n;
        let granted : Prop := ∃ t, s.ctx (apDie a) (apAsid a) = some t ∧ t.killed = false ∧ (die, asid) ∈ t.grants;
        (s.arg 0 1 = 0 → replies .apertureWrite 11) ∧
        (s.arg 0 1 ≠ 0 → apertureZero n = false ∨ apOffset a % 65536 ≠ 0 ∨ apDie a = die ∨ inGroup s (apDie a) = false ∨ ¬granted → replies .apertureWrite 5) ∧
        (s.arg 0 1 ≠ 0 → apertureZero n = true → apOffset a % 65536 = 0 → apDie a ≠ die → inGroup s (apDie a) = true → granted →
          ok .apertureWrite fun u => has { c with apertures := mset c.apertures (s.arg 0 1) a } u ∧ ∀ x ∈ (u.die die).tlb, x.1 ≠ asid)) ∧
      (let g := (s.arg 8 2, s.arg 10 2);
        (512 ≤ g.1 ∨ 512 ≤ g.2 → replies .apertureGrant 11) ∧
        (g.1 < 512 → g.2 < 512 → ok .apertureGrant fun u => ∃ k, has { c with grants := k } u ∧ ∀ x, x ∈ k ↔ x = g ∨ x ∈ c.grants)) ∧
      (let num := s.arg 0 2;
        let free := shadowHeld s die asid num = false ∧ writePending s die asid num none = false;
        (4096 ≤ num → replies .shadowMapWrite 11 ∧ replies .shadowMapInvalidate 11) ∧
        (num < 4096 →
          (shadowHeld s die asid num = true → replies .shadowMapInvalidate 6) ∧
          (shadowHeld s die asid num = false → writePending s die asid num none = true → waits .shadowMapInvalidate) ∧
          (free → ok .shadowMapInvalidate (has { c with shadows := mdel c.shadows num })) ∧
          (y = BitVec.ofNat 256 (s.arg 8 32) →
            (shadowZero y = false ∨ shSize y = 0 ∨ shadowClash c num y = true → replies .shadowMapWrite 12) ∧
            (shadowZero y = true → shSize y ≠ 0 → shadowClash c num y = false →
              (shadowPlaced die c y = false → replies .shadowMapWrite 11) ∧
              (shadowPlaced die c y = true → free → ok .shadowMapWrite fun u => ∃ z, has { c with shadows := mset c.shadows num z } u ∧
                (mget c.shadows num = none → shCount z = 0) ∧ (∀ w, mget c.shadows num = some w → shValid w = true → shCount z = shCount w) ∧
                shV z = shV y ∧ shS z = shS y ∧ shSize z = shSize y ∧ shValid z = shValid y ∧ shVirt z = shVirt y))))) ∧
      (let num := s.arg 0 2; let x := BitVec.ofNat 512 (Mem.num d.dram (s.arg 8 8) 64);
        (4096 ≤ num → replies .handle 11) ∧
        (num < 4096 → handleStatus die c x ≠ 0 → replies .handle (handleStatus die c x)) ∧
        (num < 4096 → handleStatus die c x = 0 → ok .handle (has { c with handles := mset c.handles num x })) ∧
        (mget c.handles num = none → replies .drop 11) ∧
        (mget c.handles num = some h →
          (hValid h = false → replies .drop 11) ∧
          (hValid h = true → ok .drop fun u => ∃ k, has { c with handles := mset c.handles num k } u ∧ hDropped k = true ∧ hValid k = true ∧ hBase k = hBase h))))

/-- R252, R253, R255, R256, R307, R314, R340, R345, R361, R383, R392, R395, R435 to R439, R449, R451: the commands that load, enqueue and resolve.
An image that parses is loaded under the next number, which RESULT gives. The timetable that completes its set is kept when the
set's checks hold; else the set is freed. Counters are allocated and freed. A valid descriptor becomes a launch at the end of its
queue, is recorded with its segment, and its id is written to the host; a full queue answers QUEUE_FULL. (How many records
the replay log holds is a free value, log entry 60.) A gang proposal answers BUSY while one is pending.
A held task goes on from its checkpoint or ends with its code. A launch still live is cancelled, with RESULT 1. -/
def Obligations.LoadAndLaunchCommands : Prop :=
  ∀ (s : State) (c : Context) (d : Die) (img : Loaded) (tt : Timetable) (x : Launch) (t : Task),
    let die := s.cDie
    let asid := s.cAsid
    let replies (i : Instr) (st : Nat) : Prop := exec i s = .next (reply s st 0)
    let answers (i : Instr) (result : Nat) (P : State → Prop) : Prop := ∃ u : State, exec i s = .next (reply u 0 result) ∧ u.now = s.now ∧ P u
    let ok (i : Instr) (P : State → Prop) : Prop := answers i 0 P
    let all : List Instr := [.imageLoad, .timetableLoad, .timetableFree, .counterAllocate, .counterFree, .enqueueLaunch, .segmentMark,
      .gangProposalLaunch, .gangProposalPreemption, .gangProposalResume, .faultResolveResume, .faultResolveEnd, .cancelLaunch]
    mget s.dies die = some d →
    (s.ctx die asid = none → ∀ i ∈ all, replies i 13) ∧
    (s.ctx die asid = some c → c.killed = true → ∀ i ∈ all, replies i 13) ∧
    (s.ctx die asid = some c → c.killed = false →
      (parseImage d.dram (s.arg 0 8) (s.arg 8 8) = none → replies .imageLoad 11) ∧
      (parseImage d.dram (s.arg 0 8) (s.arg 8 8) = some img →
        (∀ k, ((img.handles.map fun h => handleStatus die c h.2).find? fun v => v != 0) = some k → replies .imageLoad k) ∧
        ((∀ h ∈ img.handles, handleStatus die c h.2 = 0) →
          ((∃ v ∈ img.data, dataMapped s die asid v = false) → replies .imageLoad 12) ∧
          ((∀ v ∈ img.data, dataMapped s die asid v = true) → answers .imageLoad s.host.nextImage fun u =>
            u.host = { s.host with nextImage := s.host.nextImage + 1 } ∧ (img.data = [] → (u.die die).dram = d.dram) ∧
            ∃ c1, u.ctx die asid = some c1 ∧ c1.images = mset c.images s.host.nextImage img.image ∧ c1.ptes = c.ptes ∧
              ∀ k v, mget c1.handles k = some v → mget c.handles k = some v ∨ (k, v) ∈ img.handles))) ∧
      (let num := s.arg 16 1; let n := s.arg 17 2; let id := s.arg 24 8;
        (64 ≤ num ∨ n = 0 ∨ 512 < n → replies .timetableLoad 11) ∧
        (num < 64 → n ≠ 0 → n ≤ 512 →
          (parseTimetable d.dram (s.arg 0 8) (s.arg 8 8) asid n id = none → exec .timetableLoad s = .next (reply (freeSet s asid id) 7 0)) ∧
          (parseTimetable d.dram (s.arg 0 8) (s.arg 8 8) asid n id = some tt →
            let s1 := s.modDie die fun d => { d with tts := mset d.tts num tt }
            let held := s1.dies.foldl (fun k d => k + (d.2.tts.filter fun x => x.2.asid = asid && x.2.setId = id && !x.2.ok).length) 0
            (held < n → exec .timetableLoad s = .next (reply s1 0 0)) ∧
            (n ≤ held → setOk s1 asid id = false → exec .timetableLoad s = .next (reply (freeSet s1 asid id) 7 0)) ∧
            (n ≤ held → setOk s1 asid id = true → ok .timetableLoad fun u => u.host = s.host ∧ u.calendar = s.calendar ∧
              (tt.asid = asid → tt.setId = id → mget (u.die die).tts num = some (fillLexp s1 die tt))))) ∧
        ((∀ y, mget d.tts num = some y → y.asid ≠ asid) → replies .timetableFree 11) ∧
        (∀ y, mget d.tts num = some y → y.asid = asid → ok .timetableFree fun u => (u.die die).tts = mdel d.tts num ∧ u.host = s.host)) ∧
      (let want := s.arg 0 1;
        let unused (k : Nat) : Prop := mget d.counters k = none;
        let made (k : Nat) : Prop := answers .counterAllocate k fun u => (u.die die).counters = mset d.counters k { val := 0, asid } ∧ u.host = s.host;
        (want ≠ 255 → unused want → made want) ∧
        (want ≠ 255 → ¬unused want → replies .counterAllocate 6) ∧
        (want = 255 → (∃ k, k < 256 ∧ unused k) → ∃ k, k < 256 ∧ unused k ∧ made k) ∧
        (want = 255 → (∀ k, k < 256 → ¬unused k) → replies .counterAllocate 6) ∧
        (counterOk s die asid want = false → replies .counterFree 13) ∧
        (counterOk s die asid want = true → ok .counterFree fun u => (u.die die).counters = mdel d.counters want ∧ u.host = s.host)) ∧
      (let q := s.arg 8 1;
        let made := makeLaunch s die asid c q (s.arg 9 1) (BitVec.ofNat 2048 (Mem.num d.dram (s.arg 0 8) 256));
        let waiting := (mget c.queues q).getD [];
        let id := s.nextLaunch;
        (15 < q → replies .enqueueLaunch 11) ∧
        (q ≤ 15 → made = none → replies .enqueueLaunch 2) ∧
        (q ≤ 15 → made = some x → 1024 ≤ waiting.length → replies .enqueueLaunch 1) ∧
        (q ≤ 15 → made = some x → waiting.length < 1024 → ok .enqueueLaunch fun u => (∃ y, u.launch id = some y ∧ { y with head := x.head } = x ∧
            (waiting = [] → x.head = none → y.head = some (s.grp die))) ∧ x.segment = c.marks.length ∧ u.nextLaunch = id + 1 ∧
          u.host = { s.host with posted := s.host.posted ++ [(s.arg 16 8, bytesOf id 4)] } ∧ (∃ e ∈ u.calendar, e.due = s.now + 1 ∧ e.what = .placementPass) ∧
          ∃ c1, u.ctx die asid = some c1 ∧ c1.queues = mset c.queues q (waiting ++ [id]) ∧ c1.handles = c.handles ∧
            (x.segment = 0 → c1.log = c.log ∧ c1.producers = c.producers ∧ c1.lost = c.lost) ∧
            (x.segment ≠ 0 → c1.logOff = c.logOff + 1 ∧ (∃ e ∈ c1.log, e.seg = x.segment ∧ e.off = c.logOff ∧ e.desc = x.desc ∧ e.queue = q) ∧
              (∀ h ∈ x.desc.outputs, mget c1.producers h = some x.segment) ∧
              ∀ y ∈ c.log, if c.logOff < y.off + 1024 + Config.replayLog asid then y ∈ c1.log else y.seg ∈ c1.lost))) ∧
      (ok .segmentMark fun u => u.ctx die asid = some { c with marks := c.marks ++ [s.arg 0 8] } ∧ u.host = s.host) ∧
      (let id := s.arg 0 4;
        let kinds : List (Instr × Nat) := [(.gangProposalLaunch, 0), (.gangProposalPreemption, 1), (.gangProposalResume, 2)];
        let l : Loc := { die, core := s.arg 4 1 };
        (s.launch id = none → (∀ k ∈ kinds, replies k.1 11) ∧ replies .faultResolveResume 2 ∧ replies .faultResolveEnd 2 ∧ replies .cancelLaunch 2) ∧
        (s.launch id = some x →
          (x.asid ≠ asid → (∀ k ∈ kinds, replies k.1 11) ∧ replies .faultResolveResume 2 ∧ replies .faultResolveEnd 2 ∧ replies .cancelLaunch 2) ∧
          (x.desc.gang = false ∨ x.phase.live = false ∨ zeroCount x.desc = true → ∀ k ∈ kinds, replies k.1 11) ∧
          (x.asid = asid →
            (x.desc.gang = true → x.phase.live = true → zeroCount x.desc = false → ∀ k ∈ kinds,
              (proposalBusy x k.2 = true → replies k.1 6) ∧
              (proposalBusy x k.2 = false → exec k.1 s = .next (reply (propose s id k.2 0 (s.arg 8 8) (s.arg 16 8)) 0 0))) ∧
            (x.phase.live = false → replies .cancelLaunch 0) ∧
            (x.phase.live = true → answers .cancelLaunch 1 fun u => (u.launch id).map (·.phase) = some (.ended 0x107)) ∧
            ((∀ v, s.task l = some v → v.launch ≠ id ∨ v.phase ≠ .held) → replies .faultResolveResume 13 ∧ replies .faultResolveEnd 13) ∧
            (s.task l = some t → t.launch = id → t.phase = .held →
              exec .faultResolveResume s = .next (reply (resumeAt s l (s.now + 1)) 0 0) ∧
              ok .faultResolveEnd fun u => u.task l = some { t with phase := .ended } ∧ (∃ e ∈ u.calendar, e.due = s.now + 1 ∧ e.what = .faultPropagation id) ∧
                (x.fault = none → ∃ y, u.launch id = some y ∧ y.fault = some (s.gcc l t, l.die, l.core, bits t.ctl.trapc.toNat 47 32)))))))

/-- R217, R252 to R254, R333, R347, R351, R365, R382, R437, R438, R441, R443: the commands on records, health, keys, endpoints and links. Up to
32 records, oldest first, leave their queue for the host; an empty queue answers NO_RECORD. HEALTH posts its four words.
A key block is loaded and zeroed. CXL devices of more than 16 TiB are refused. LINK_TAKE_DOWN drops a link, LINK_RETRAIN trains it again. An attestation uses up a
leaf of the identity key before its report is posted, and the 1,025th answers KEYS_SPENT. -/
def Obligations.AdminCommands : Prop :=
  ∀ (s : State) (d : Die),
    let die := s.cDie
    let replies (i : Instr) (st : Nat) : Prop := exec i s = .next (reply s st 0)
    let answers (i : Instr) (result : Nat) (P : State → Prop) : Prop := ∃ u : State, exec i s = .next (reply u 0 result) ∧ u.now = s.now ∧ P u
    let posts (a : Nat) (l : List Byte) (u : State) : Prop := u.host = { s.host with posted := s.host.posted ++ [(a, l)] }
    let n := s.arg 9 1
    let far := dieBOf die
    let key := epKey (s.arg 0 1) (s.arg 1 1)
    mget s.dies die = some d →
    (d.started = false → ∀ i ∈ [Instr.recordRead, .health, .keyInstall, .endpointWrite, .endpointInvalidate, .linkRetrain, .linkTakeDown, .cxlConfiguration],
      replies i 11) ∧
    (d.started = true → s.memOk = true →
      (n = 0 ∨ 32 < n ∨ 1 < s.arg 8 1 → replies .recordRead 11) ∧
      (n ≠ 0 → n ≤ 32 →
        (s.arg 8 1 = 0 → d.lrecs = [] → replies .recordRead 10) ∧
        (s.arg 8 1 = 1 → d.erecs = [] → replies .recordRead 10) ∧
        (s.arg 8 1 = 0 → d.lrecs ≠ [] → answers .recordRead (Nat.min n d.lrecs.length) fun u => (u.die die).lrecs = d.lrecs.drop n ∧ (u.die die).erecs = d.erecs ∧
          posts (s.arg 0 8) ((d.lrecs.take n).flatMap fun r => bytesOf r.toNat 128) u) ∧
        (s.arg 8 1 = 1 → d.erecs ≠ [] → answers .recordRead (Nat.min n d.erecs.length) fun u =>
          posts (s.arg 0 8) ((d.erecs.take n).flatMap fun r => bytesOf r.toNat 64) u ∧ (u.die die).lrecs = d.lrecs ∧
          (u.die die).erecs ++ (u.die die).ewait = d.erecs.drop n ++ d.ewait ∧ (d.erecs.length ≤ 256 → (u.die die).erecs.length ≤ 256))) ∧
      (let p := d.rooster.pps.getD (0, 0);
        answers .health 0 fun u => u.dies = s.dies ∧ posts (s.arg 0 8) (bytesOf d.health.toNat 8 ++
          bytesOf (s.host.peak + bit s.host.warm * 2 ^ 8 + bit s.host.hot * 2 ^ 9 + bit s.host.trip * 2 ^ 10) 8 ++ bytesOf p.1 8 ++ bytesOf p.2 8) u) ∧
      (let k := Mem.num d.dram (s.arg 0 8) 64;
        let ep := bits k 15 8; let dir := bits k 23 16; let an := bits k 31 24;
        (1 < bits k 7 0 ∨ 7 < ep ∨ 1 < dir ∨ 3 < an ∨ bits k 255 160 ≠ 0 → replies .keyInstall 11) ∧
        (bits k 7 0 ≤ 1 → ep ≤ 7 → dir ≤ 1 → an ≤ 3 → bits k 255 160 = 0 → (mget s.dies far).isSome → answers .keyInstall 0 fun u =>
          u.host = s.host ∧ (mget ((u.endpoint far (epKey (bits k 7 0) ep)).keys) (dir * 4 + an)) = some (BitVec.ofNat 512 k) ∧
          ∀ a, (s.arg 0 8 ≤ a ∧ a < s.arg 0 8 + 64 → Mem.rd (u.die die).dram a = 0) ∧
            (a < s.arg 0 8 ∨ s.arg 0 8 + 64 ≤ a → Mem.rd (u.die die).dram a = Mem.rd d.dram a))) ∧
      (1 < s.arg 0 1 ∨ 7 < s.arg 1 1 → replies .endpointWrite 11 ∧ replies .endpointInvalidate 11) ∧
      (s.arg 0 1 ≤ 1 → s.arg 1 1 ≤ 7 → (mget s.dies far).isSome →
        (answers .endpointWrite 0 fun u => u.host = s.host ∧
          u.endpoint far key = { valid := true, mac := BitVec.ofNat 48 (s.arg 8 6), peer := BitVec.ofNat 64 (s.arg 16 8)
                                 own := BitVec.ofNat 64 (s.arg 24 8), keys := (s.endpoint far key).keys }) ∧
        (answers .endpointInvalidate 0 fun u => u.host = s.host ∧ u.endpoint far key = { s.endpoint far key with valid := false })) ∧
      (5 < s.arg 0 1 → replies .linkRetrain 11 ∧ replies .linkTakeDown 11) ∧
      (s.arg 0 1 ≤ 5 → exec .linkTakeDown s = .next (reply (s.postUnit s.now rkArrive (.linkDown die (s.arg 0 1))) 0 0) ∧
        ∃ (u : State) (due lat : Nat), exec .linkRetrain s = .next (reply (u.postUnit due rkArrive (.linkTraining die (s.arg 0 1) lat)) 0 0) ∧
          s.now < due ∧ 16 ≤ lat ∧ lat < 4096 ∧ (linkUsers s die (s.arg 0 1) = [] → u.calendar = s.calendar ∧ ∀ l, u.task l = s.task l)) ∧
      (let len := s.arg 8 8;
        let recs := (List.range (len / 32)).map fun i => cxlRecord (Mem.num d.dram (s.arg 0 8 + 32 * i) 32);
        let total := (recs.map fun x => ((x.bind id).map (·.2)).getD 0).sum
        (128 < len ∨ len % 32 ≠ 0 ∨ none ∈ recs ∨ 2 ^ 44 < total → replies .cxlConfiguration 11) ∧
        (len ≤ 128 → len % 32 = 0 → none ∉ recs → total ≤ 2 ^ 44 → ∃ u : State, exec .cxlConfiguration s = .next (reply u 0 (u.die die).cxlDevs.length) ∧ u.now = s.now ∧
          u.host = s.host ∧ ∀ x ∈ (u.die die).cxlDevs, some (some x) ∈ recs))) ∧
    (1024 ≤ s.host.fuseQ → replies .attest 9) ∧
    (s.host.fuseQ < 1024 → answers .attest 0 fun u => u.dies = s.dies ∧ ∃ body : List Byte,
      u.host = { s.host with fuseQ := s.host.fuseQ + 1, posted := s.host.posted ++
        [(s.arg 32 8, body ++ bytesOf (Config.attestSign s.host.fuseQ (Config.digest body)).toNat 1452)] })

/-- R442, R445: power-on starts both dies 2,048 cycles apart, with LCC 0 at a die's start, and posts each die's refresh windows,
scrubber, beacons and placement, the training of the links and the forming of the group; Ebile is ready after 26,624
cycles. A function-level reset clears the ring and the record queues and destroys every context, waiting while one is
in use; a conventional reset resets every unit and powers on again, and keeps main memory (the model's choice, log
entry 62), the fuses, TRIP and the health register. -/
def Obligations.PowerAndResets : Prop :=
  ∀ (s : State) (die : Nat) (d : Die),
    mget s.dies die = some d →
    let start := s.now + (if isDieB die then 2048 else 0)
    (∃ (u : State) (v : Die), exec .powerOn s = .next u ∧ u.powered = true ∧ u.now = s.now ∧ u.host = { s.host with readyAt := s.now + 26624 } ∧
      mget u.dies die = some v ∧ v = { d with started := true, lcc := v.lcc, grp := v.grp } ∧
      v.lcc + (start : Int) = 0 ∧ v.grp + (start : Int) = 0 ∧
      (∀ w ∈ [(start + 16128, Instr.refreshWindow), (start + 64, .scrubStep), (start + 4096, .beaconSend), (start + 65536, .placementPass)],
        ∃ e ∈ u.calendar, e.due = w.1 ∧ e.what = w.2 ∧ e.place.die = die) ∧
      (∃ e ∈ u.calendar, s.now < e.due ∧ e.what = .groupFormation s.ext.1 s.ext.2.1 s.ext.2.2) ∧
      (∃ e ∈ u.calendar, s.now + 26624 ≤ e.due ∧ ∃ lat, 16 ≤ lat ∧ lat < 4096 ∧ e.what = .linkTraining 0 0 lat)) ∧
    (∃ u : State, exec .functionLevelReset s = .next u ∧ u.host.rbase = 0 ∧ u.host.rsize = 6 ∧ u.host.head = 0 ∧ u.host.tail = 0 ∧ u.host.locked = false ∧
      u.host.busy = false ∧ u.host.fuseQ = s.host.fuseQ ∧ u.host.trip = s.host.trip ∧
      ((∃ e ∈ u.calendar, e.due = s.now + 1 ∧ e.what = .functionLevelReset) ∨
        (u.host.readyAt = s.now + 1 ∧ (∀ k a, u.ctx k a = none) ∧ ∀ v, mget u.dies die = some v → v.lrecs = [] ∧ v.erecs = [] ∧ v.ewait = []))) ∧
    (s.powered = false → exec .conventionalReset s = .next s) ∧
    (s.powered = true → ∃ (u : State) (v : Die), exec .conventionalReset s = .next (u.postUnit s.now 0 .powerOn) ∧ u.calendar = [] ∧ u.launches = [] ∧
      u.now = s.now ∧ u.host.fuseQ = s.host.fuseQ ∧ u.host.trip = s.host.trip ∧ u.host.locked = false ∧
      mget u.dies die = some v ∧ v.started = false ∧ v.tasks = [] ∧ v.ctxs = [] ∧ v.scratch = [] ∧ v.cmds = [] ∧ v.counters = [] ∧
      v.dram = d.dram ∧ v.health = d.health)

/-- R102, R434, R442: the machine right after reset. Both dies are there, not started, with no task, no context, no command and nothing
listed in memory; the ring is empty; the one pending event is the power-on, so the first step of the machine starts
both dies. (The content of memory, zero, is the model's choice, log entry 1.) -/
def Obligations.ResetState : Prop :=
  State.reset.now = 0 ∧ State.reset.launches = [] ∧ State.reset.memOk = true ∧
  State.reset.dies.map (·.1) = [0, 64] ∧ State.reset.host.head = State.reset.host.tail ∧ State.reset.host.locked = false ∧
  State.reset.host.readyAt = 26624 ∧ State.reset.calendar.map (fun e => (e.due, e.what)) = [(0, .powerOn)] ∧
  (State.reset.dies.all fun e => e.2.tasks.isEmpty && e.2.ctxs.isEmpty && e.2.cmds.isEmpty && e.2.scratch.isEmpty && e.2.dram.isEmpty &&
    e.2.counters.isEmpty && !e.2.started) = true ∧
  ∃ u, step State.reset = .next u ∧ (u.dies.all fun e => e.2.started) = true

/-- R43 to R56: decode and encode agree. Every well-formed operation of a slot, whatever its operands, has a word of the slot's width
that decodes to it; and every instruction with a predicate or mask header has such a word in some slot. -/
def Obligations.EncodeDecodeRoundTrip : Prop :=
  (∀ (sl : Slot) (i : Instr) (w : Nat), i.wf = true → encodeSlot sl i = some w → decodeSlot sl w = .ok i ∧ w < 2 ^ sl.field.2) ∧
  (∀ i : Instr, i.wf = true → i.guard.isSome → ∃ sl w, encodeSlot sl i = some w)

/-- R220, R222: every step keeps the canonical form of every memory of every die, whatever instruction or event it runs. -/
def Obligations.StepKeepsMemory : Prop :=
  ∀ s s' : State, s.memOk = true → step s = .next s' → s'.memOk = true

/-- R30, R45 to R56: words written out field by field from the encoding tables decode to the instructions they stand for. -/
def Obligations.SpecWordsDecode : Prop :=
  -- ADD x3, x1, x2: OP 1, PR 0, rd 3, ra 1, rb 2, LB 0, FN 0
  decodeSlot .s0 0b00000100000001100001000100000000 = .ok (.add 0 3 1 (.x 2)) ∧
  -- ADDI x5, x4, -1 under p6: OP 2, PR 6, rd 5, ra 4, LA 0, imm11 all ones
  decodeSlot .s1 0b00001001100010100100011111111111 = .ok (.addi 6 5 (.x 4) (-1)) ∧
  -- XSV v5, x6: OP 1, vd 5, xa 6
  decodeSlot .xb 0b0010001010011000 = .ok (.xsv 5 6) ∧
  -- VADD bf16 v1, v2, v3: OP 1, PR 0, MK 0, vd 1, va 2, vb 3, vc 0, SK 0, MOD 16
  decodeSlot .v0 0b000000010000000000001000010000011000000000010000 = .ok (.vadd ⟨0, 0⟩ .bf16 (.v 1) (.v 2) (.v 3)) ∧
  -- MBEAT a5, z2, set, CB: OP 4, PR 0, a 5, MD 1, CB 1, S 1, va 2
  decodeSlot .m 0b00100000000000001011110000100000 = .ok (.mbeat 0 5 true true (.z 2)) ∧
  -- LDV v7, [x2 - 1], post-increment: OP 1, PR 0, MK 0, vr 7, xa 2, off16 all ones, PI 1, ZS 0
  decodeSlot .ls 0b000001000000000011100010111111111111111110000000 = .ok (.ldv ⟨0, 0⟩ (.v 7) 2 (-1) true) ∧
  -- FSEND to the die in x3, from x1 to x2, 8 words, stamp 256: OP 1, PR 0, DK 6, xa 1, xr 2, xd 3, cnt 7
  decodeSlot .fb 0b0000010000110000010001000011000000000111000000010000000000000000 = .ok (.fsend 0 (.routed 3) 1 2 7 256) ∧
  -- RSPILL 5: OP 3, PR 0, n 5
  decodeSlot .rp 0b00110000000000000101000000000000 = .ok (.rspill 0 5)
end

