-- ==== Sys2Proof/Laws/Data.lean ====
section
/-! SUPPORT. Laws of the sparse maps and of memory: read after write, and that every memory operation keeps the
canonical form. -/

namespace Sys2Proof.Machine

/-! ### Sparse maps -/

variable {α : Type}

theorem mget_mdel_same (m : Map α) (n : Nat) : mget (mdel m n) n = none := by
  induction m with
  | nil => rfl
  | cons e r ih =>
    obtain ⟨k, v⟩ := e
    by_cases h : k = n
    · simp [mdel, h, ih]
    · simp [mdel, h, mget, ih]

theorem mget_mdel_other (m : Map α) {n k : Nat} (h : k ≠ n) : mget (mdel m n) k = mget m k := by
  induction m with
  | nil => rfl
  | cons e r ih =>
    obtain ⟨j, v⟩ := e
    by_cases hj : j = n
    · have hk : j ≠ k := fun e => h (e ▸ hj)
      simp [mdel, hj, mget, ih]
      intro e; exact absurd e.symm h
    · simp [mdel, hj, mget, ih]

theorem mget_mins_same (m : Map α) (n : Nat) (a : α) (h : mget m n = none) : mget (mins m n a) n = some a := by
  induction m with
  | nil => simp [mins, mget]
  | cons e r ih =>
    obtain ⟨j, v⟩ := e
    have hj : j ≠ n := by
      intro e; simp [mget, e] at h
    simp only [mget, hj, if_false] at h
    by_cases hl : n < j
    · simp [mins, hl, mget]
    · simp [mins, hl, mget, hj, ih h]

theorem mget_mins_other (m : Map α) {n k : Nat} (a : α) (h : k ≠ n) : mget (mins m n a) k = mget m k := by
  induction m with
  | nil => simp [mins, mget, Ne.symm h]
  | cons e r ih =>
    obtain ⟨j, v⟩ := e
    by_cases hl : n < j
    · simp [mins, hl, mget, Ne.symm h]
    · simp [mins, hl, mget, ih]

@[simp] theorem mget_mset_same (m : Map α) (n : Nat) (a : α) : mget (mset m n a) n = some a :=
  mget_mins_same _ _ _ (mget_mdel_same m n)

theorem mget_mset_other (m : Map α) {n k : Nat} (a : α) (h : k ≠ n) : mget (mset m n a) k = mget m k := by
  rw [mset, mget_mins_other _ _ h, mget_mdel_other _ h]

theorem rd_mset_same {w : Nat} (m : Map (BitVec w)) (n : Nat) (a : BitVec w) : rd (mset m n a) n = a := by
  simp [rd]

theorem rd_mset_other {w : Nat} (m : Map (BitVec w)) {n k : Nat} (a : BitVec w) (h : k ≠ n) :
    rd (mset m n a) k = rd m k := by
  simp [rd, mget_mset_other m a h]

theorem mem_mins {m : Map α} {n : Nat} {a : α} {e : Nat × α} (h : e ∈ mins m n a) : e = (n, a) ∨ e ∈ m := by
  induction m with
  | nil => simpa [mins] using h
  | cons x r ih =>
    obtain ⟨j, v⟩ := x
    by_cases hl : n < j
    · simpa [mins, hl] using h
    · simp only [mins, hl, if_false, List.mem_cons] at h
      rcases h with h | h
      · exact .inr (by simp [h])
      · rcases ih h with h | h
        · exact .inl h
        · exact .inr (by simp [h])

theorem mem_mdel {m : Map α} {n : Nat} {e : Nat × α} (h : e ∈ mdel m n) : e ∈ m := by
  induction m with
  | nil => simp [mdel] at h
  | cons x r ih =>
    obtain ⟨j, v⟩ := x
    by_cases hj : j = n
    · simp only [mdel, hj, if_true] at h; exact .tail _ (ih h)
    · simp only [mdel, hj, if_false, List.mem_cons] at h
      rcases h with h | h
      · simp [h]
      · exact .tail _ (ih h)

/-- Every entry of an updated map is the new one or an old one. -/
theorem mem_mset {m : Map α} {n : Nat} {a : α} {e : Nat × α} (h : e ∈ mset m n a) : e = (n, a) ∨ e ∈ m := by
  rcases mem_mins h with h | h
  · exact .inl h
  · exact .inr (mem_mdel h)

/-- What `mget` finds is an entry of the map. -/
theorem mem_of_mget {m : Map α} {n : Nat} {a : α} (h : mget m n = some a) : (n, a) ∈ m := by
  induction m with
  | nil => simp [mget] at h
  | cons x r ih =>
    obtain ⟨j, v⟩ := x
    by_cases hj : j = n
    · simp [mget, hj] at h; simp [hj, h]
    · simp [mget, hj] at h; exact .tail _ (ih h)

/-! ### Bytes -/

theorem Mem.rd_wfFrom_lt {m : Mem} {lo a : Nat} (h : Mem.wfFrom lo m = true) (ha : a < lo) :
    Mem.rd m a = Config.emptyByte := by
  cases m with
  | nil => rfl
  | cons e r =>
    obtain ⟨k, b⟩ := e
    simp only [Mem.wfFrom, Bool.and_eq_true, decide_eq_true_eq] at h
    have : ¬ k = a := by omega
    have : a < k := by omega
    simp [Mem.rd, *]

theorem Mem.wfFrom_mono {m : Mem} {lo lo' : Nat} (h : Mem.wfFrom lo m = true) (hl : lo' ≤ lo) :
    Mem.wfFrom lo' m = true := by
  cases m with
  | nil => rfl
  | cons e r =>
    obtain ⟨k, b⟩ := e
    simp only [Mem.wfFrom, Bool.and_eq_true, decide_eq_true_eq] at h ⊢
    exact ⟨⟨by omega, h.1.2⟩, h.2⟩

theorem Mem.wr_wfFrom {m : Mem} {lo a : Nat} (b : Byte) (h : Mem.wfFrom lo m = true) (ha : lo ≤ a) :
    Mem.wfFrom lo (Mem.wr m a b) = true := by
  induction m generalizing lo with
  | nil =>
    by_cases hb : b = Config.emptyByte <;> simp [Mem.wr, hb, Mem.wfFrom, ha]
  | cons e r ih =>
    obtain ⟨k, c⟩ := e
    have h0 := h
    simp only [Mem.wfFrom, Bool.and_eq_true, decide_eq_true_eq] at h
    obtain ⟨⟨hk, hc⟩, hr⟩ := h
    by_cases h1 : a < k
    · by_cases hb : b = Config.emptyByte
      · simp [Mem.wr, h1, hb, h0]
      · simp only [Mem.wr, h1, hb, if_true, if_false, Mem.wfFrom, Bool.and_eq_true, decide_eq_true_eq]
        exact ⟨⟨ha, by simpa using hb⟩, ⟨by omega, hc⟩, hr⟩
    · by_cases h2 : a = k
      · by_cases hb : b = Config.emptyByte
        · simp only [Mem.wr, h2, hb, if_true]
          simpa using Mem.wfFrom_mono hr (by omega : lo ≤ k + 1)
        · simp only [Mem.wr, h2, hb, if_true, if_false]
          subst h2
          simp only [Nat.lt_irrefl, if_false, Mem.wfFrom, Bool.and_eq_true, decide_eq_true_eq]
          exact ⟨⟨hk, by simpa using hb⟩, hr⟩
      · simp only [Mem.wr, h1, h2, if_false, Mem.wfFrom, Bool.and_eq_true, decide_eq_true_eq]
        exact ⟨⟨hk, hc⟩, ih hr (by omega)⟩

theorem Memory.wf_wr {m : Mem} (a : Nat) (b : Byte) (h : Memory.wf m = true) : Memory.wf (Mem.wr m a b) = true :=
  Mem.wr_wfFrom b h (Nat.zero_le _)

theorem Memory.wf_wrNum {m : Mem} (a v n : Nat) (h : Memory.wf m = true) : Memory.wf (Mem.wrNum m a v n) = true := by
  induction n generalizing m a v with
  | zero => exact h
  | succ n ih => exact ih _ _ (Memory.wf_wr _ _ h)

theorem Memory.wf_wrEn {m : Mem} (a v en n : Nat) (h : Memory.wf m = true) :
    Memory.wf (Mem.wrEn m a v en n) = true := by
  induction n generalizing m a v en with
  | zero => exact h
  | succ n ih =>
    simp only [Mem.wrEn]
    split
    · exact ih _ _ _ (Memory.wf_wr _ _ h)
    · exact ih _ _ _ h

theorem Memory.wf_wrBytes {m : Mem} (a : Nat) (l : List Byte) (h : Memory.wf m = true) :
    Memory.wf (Mem.wrBytes m a l) = true := by
  induction l generalizing m a with
  | nil => exact h
  | cons b r ih => exact ih _ (Memory.wf_wr _ _ h)

theorem Mem.filter_wfFrom (p : Host.Cell → Bool) {m : Mem} {lo : Nat} (h : Mem.wfFrom lo m = true) :
    Mem.wfFrom lo (m.filter p) = true := by
  induction m generalizing lo with
  | nil => rfl
  | cons e r ih =>
    obtain ⟨k, c⟩ := e
    simp only [Mem.wfFrom, Bool.and_eq_true, decide_eq_true_eq] at h
    by_cases hp : p (k, c) = true
    · simp only [List.filter_cons, hp, if_true, Mem.wfFrom, Bool.and_eq_true, decide_eq_true_eq]
      exact ⟨h.1, ih h.2⟩
    · simp only [List.filter_cons, hp]
      exact Mem.wfFrom_mono (ih h.2) (by omega)

theorem Memory.wf_clear {m : Mem} (a n : Nat) (h : Memory.wf m = true) : Memory.wf (Mem.clear m a n) = true :=
  Mem.filter_wfFrom _ h

theorem Memory.wf_wrListed {m : Mem} (a : Nat) (l : List Byte) (h : Memory.wf m = true) :
    Memory.wf (Mem.wrListed m a l) = true := by
  induction l generalizing m a with
  | nil => exact h
  | cons b r ih =>
    rw [Mem.wrListed]
    split
    · exact ih _ h
    · exact ih _ (Memory.wf_wr _ _ h)

theorem Memory.wf_putBytes {m : Mem} (a : Nat) (l : List Byte) (h : Memory.wf m = true) :
    Memory.wf (Mem.putBytes m a l) = true := Memory.wf_wrListed a l (Memory.wf_clear a _ h)

@[simp] theorem Memory.wf_nil : Memory.wf [] = true := rfl

/-- Reading back the byte written. -/
theorem Mem.rd_wr_same {m : Mem} {lo : Nat} (a : Nat) (b : Byte) (h : Mem.wfFrom lo m = true) :
    Mem.rd (Mem.wr m a b) a = b := by
  induction m generalizing lo with
  | nil => by_cases hb : b = Config.emptyByte <;> simp [Mem.wr, hb, Mem.rd]
  | cons e r ih =>
    obtain ⟨k, c⟩ := e
    simp only [Mem.wfFrom, Bool.and_eq_true, decide_eq_true_eq] at h
    obtain ⟨⟨hk, hc⟩, hr⟩ := h
    by_cases h1 : a < k
    · have : ¬ k = a := by omega
      by_cases hb : b = Config.emptyByte <;> simp [Mem.wr, h1, hb, Mem.rd, this]
    · by_cases h2 : a = k
      · subst h2
        by_cases hb : b = Config.emptyByte
        · simp [Mem.wr, hb, Mem.rd_wfFrom_lt hr (Nat.lt_succ_self a)]
        · simp [Mem.wr, hb, Mem.rd]
      · have : ¬ k = a := fun e => h2 e.symm
        simp [Mem.wr, h1, h2, Mem.rd, this, ih hr]

/-- A write leaves every other byte alone. -/
theorem Mem.rd_wr_other {m : Mem} {lo a c : Nat} (b : Byte) (h : Mem.wfFrom lo m = true) (hc : c ≠ a) :
    Mem.rd (Mem.wr m a b) c = Mem.rd m c := by
  induction m generalizing lo with
  | nil =>
    by_cases hb : b = Config.emptyByte
    · simp [Mem.wr, hb]
    · simp [Mem.wr, hb, Mem.rd, Ne.symm hc]
  | cons e r ih =>
    obtain ⟨k, x⟩ := e
    simp only [Mem.wfFrom, Bool.and_eq_true, decide_eq_true_eq] at h
    obtain ⟨⟨hk, hx⟩, hr⟩ := h
    by_cases h1 : a < k
    · by_cases hb : b = Config.emptyByte
      · simp [Mem.wr, h1, hb]
      · simp only [Mem.wr, h1, hb, if_true, if_false, Mem.rd, Ne.symm hc, if_false]
        by_cases hl : c < a
        · have h3 : ¬ k = c := by omega
          have h4 : c < k := by omega
          simp [hl, h3, h4]
        · simp [hl]
    · by_cases h2 : a = k
      · subst h2
        by_cases hb : b = Config.emptyByte
        · simp only [Mem.wr, hb, Nat.lt_irrefl, if_false, if_true, Mem.rd, Ne.symm hc]
          by_cases hl : c < a
          · simp [hl, Mem.rd_wfFrom_lt hr (by omega : c < a + 1)]
          · simp [hl]
        · simp [Mem.wr, hb, Mem.rd, Ne.symm hc]
      · simp [Mem.wr, h1, h2, Mem.rd, ih hr]

/-- A run of bytes written little-endian leaves every address outside the run alone. -/
theorem Mem.rd_wrNum_other {m : Mem} (a v n c : Nat) (h : Memory.wf m = true) (hc : c < a ∨ a + n ≤ c) :
    Mem.rd (Mem.wrNum m a v n) c = Mem.rd m c := by
  induction n generalizing m a v with
  | zero => rfl
  | succ n ih =>
    rw [Mem.wrNum, ih (m := Mem.wr m a _) (a + 1) (v / 256) (Memory.wf_wr _ _ h) (by omega),
      Mem.rd_wr_other _ h (by omega)]

theorem Mem.rd_wrEn_other {m : Mem} (a v en n c : Nat) (h : Memory.wf m = true) (hc : c < a ∨ a + n ≤ c) :
    Mem.rd (Mem.wrEn m a v en n) c = Mem.rd m c := by
  induction n generalizing m a v en with
  | zero => rfl
  | succ n ih =>
    rw [Mem.wrEn]
    split
    · rw [ih (m := Mem.wr m a _) (a + 1) _ _ (Memory.wf_wr _ _ h) (by omega), Mem.rd_wr_other _ h (by omega)]
    · rw [ih (m := m) (a + 1) _ _ h (by omega)]

theorem Mem.rd_wrBytes_other {m : Mem} (a : Nat) (l : List Byte) (c : Nat) (h : Memory.wf m = true)
    (hc : c < a ∨ a + l.length ≤ c) : Mem.rd (Mem.wrBytes m a l) c = Mem.rd m c := by
  induction l generalizing m a with
  | nil => rfl
  | cons b r ih =>
    simp only [List.length_cons] at hc
    rw [Mem.wrBytes, ih (m := Mem.wr m a b) (a + 1) (Memory.wf_wr _ _ h) (by omega), Mem.rd_wr_other _ h (by omega)]

/-- Reading back a number written with as many bytes. -/
theorem Mem.num_wrNum {m : Mem} (a v n : Nat) (h : Memory.wf m = true) :
    Mem.num (Mem.wrNum m a v n) a n = v % 256 ^ n := by
  induction n generalizing m a v with
  | zero => simp [Mem.num, Nat.mod_one]
  | succ n ih =>
    have h1 := Memory.wf_wr a (BitVec.ofNat 8 v) h
    rw [Mem.num, Mem.wrNum, ih (a + 1) (v / 256) h1, Mem.rd_wrNum_other _ _ _ _ h1 (by omega), Mem.rd_wr_same _ _ h]
    have e : (256 : Nat) ^ (n + 1) = 256 * 256 ^ n := by rw [Nat.pow_succ, Nat.mul_comm]
    rw [BitVec.toNat_ofNat, e, Nat.mod_mul]

end Sys2Proof.Machine
end

