-- ==== Sys2Proof/Laws/State.lean ====
section
/-! SUPPORT. Laws of the state: one lemma per field for each named update of the state, and what the updates of a die,
a task, a launch and a context leave. -/

namespace Sys2Proof.Machine

/-! ### Posting an event changes the calendar and its numbering alone -/

@[simp] theorem postAt_now (s : State) (pl : Loc) (d r o : Nat) (w : Option Loc) (i : Instr) :
    (s.postAt pl d r o w i).now = s.now := rfl
@[simp] theorem postAt_free (s : State) (pl : Loc) (d r o : Nat) (w : Option Loc) (i : Instr) :
    (s.postAt pl d r o w i).free = s.free := rfl
@[simp] theorem postAt_powered (s : State) (pl : Loc) (d r o : Nat) (w : Option Loc) (i : Instr) :
    (s.postAt pl d r o w i).powered = s.powered := rfl
@[simp] theorem postAt_ext (s : State) (pl : Loc) (d r o : Nat) (w : Option Loc) (i : Instr) :
    (s.postAt pl d r o w i).ext = s.ext := rfl
@[simp] theorem postAt_formed (s : State) (pl : Loc) (d r o : Nat) (w : Option Loc) (i : Instr) :
    (s.postAt pl d r o w i).formed = s.formed := rfl
@[simp] theorem postAt_dies (s : State) (pl : Loc) (d r o : Nat) (w : Option Loc) (i : Instr) :
    (s.postAt pl d r o w i).dies = s.dies := rfl
@[simp] theorem postAt_launches (s : State) (pl : Loc) (d r o : Nat) (w : Option Loc) (i : Instr) :
    (s.postAt pl d r o w i).launches = s.launches := rfl
@[simp] theorem postAt_nextLaunch (s : State) (pl : Loc) (d r o : Nat) (w : Option Loc) (i : Instr) :
    (s.postAt pl d r o w i).nextLaunch = s.nextLaunch := rfl
@[simp] theorem postAt_host (s : State) (pl : Loc) (d r o : Nat) (w : Option Loc) (i : Instr) :
    (s.postAt pl d r o w i).host = s.host := rfl
@[simp] theorem postAt_at_ (s : State) (pl : Loc) (d r o : Nat) (w : Option Loc) (i : Instr) :
    (s.postAt pl d r o w i).at_ = s.at_ := rfl
@[simp] theorem postAt_slot (s : State) (pl : Loc) (d r o : Nat) (w : Option Loc) (i : Instr) :
    (s.postAt pl d r o w i).slot = s.slot := rfl
@[simp] theorem postAt_bs (s : State) (pl : Loc) (d r o : Nat) (w : Option Loc) (i : Instr) :
    (s.postAt pl d r o w i).bs = s.bs := rfl
@[simp] theorem postAt_seq (s : State) (pl : Loc) (d r o : Nat) (w : Option Loc) (i : Instr) :
    (s.postAt pl d r o w i).seq = s.seq + 1 := rfl
/-- A posted event is pending, at its cycle or now. -/
theorem postAt_calendar (s : State) (pl : Loc) (d r o : Nat) (w : Option Loc) (i : Instr) :
    (s.postAt pl d r o w i).calendar
      = calInsert { due := Nat.max d s.now, rank := r, ord := o, owner := w, place := pl, what := i } s.calendar := rfl
@[simp] theorem postAt_die (s : State) (pl : Loc) (d r o : Nat) (w : Option Loc) (i : Instr) (x : Nat) :
    (s.postAt pl d r o w i).die x = s.die x := rfl
@[simp] theorem postAt_task (s : State) (pl : Loc) (d r o : Nat) (w : Option Loc) (i : Instr) (l : Loc) :
    (s.postAt pl d r o w i).task l = s.task l := rfl
@[simp] theorem postAt_launch (s : State) (pl : Loc) (d r o : Nat) (w : Option Loc) (i : Instr) (n : Nat) :
    (s.postAt pl d r o w i).launch n = s.launch n := rfl

theorem post_eq (s : State) (d r o : Nat) (w : Option Loc) (i : Instr) :
    s.post d r o w i = s.postAt { die := 0, core := 0 } d r o w i := rfl
theorem postUnit_eq (s : State) (d r : Nat) (i : Instr) :
    s.postUnit d r i = s.postAt { die := 0, core := 0 } d r s.seq none i := rfl
theorem postDie_eq (s : State) (x d r : Nat) (i : Instr) :
    s.postDie x d r i = s.postAt { die := x, core := 0 } d r s.seq none i := rfl
theorem postCore_eq (s : State) (l : Loc) (d r : Nat) (i : Instr) :
    s.postCore l d r i = s.postAt l d r (coreOrd l) none i := rfl

/-- An inserted event is in the list, and nothing is lost. -/
theorem mem_calInsert {e x : Ev} {l : List Ev} : x ∈ calInsert e l ↔ x = e ∨ x ∈ l := by
  induction l with
  | nil => simp [calInsert]
  | cons y r ih =>
    by_cases h : e.before y = true
    · simp [calInsert, h]
    · simp only [calInsert, h, Bool.false_eq_true, if_false, List.mem_cons, ih]
      exact ⟨fun h => h.elim (fun h => .inr (.inl h)) (fun h => h.elim .inl fun h => .inr (.inr h)),
        fun h => h.elim (fun h => .inr (.inl h)) (fun h => h.elim .inl fun h => .inr (.inr h))⟩

/-! ### A free value -/

@[simp] theorem nextFree_now (s : State) : s.nextFree.2.now = s.now := rfl
@[simp] theorem nextFree_seq (s : State) : s.nextFree.2.seq = s.seq := rfl
@[simp] theorem nextFree_calendar (s : State) : s.nextFree.2.calendar = s.calendar := rfl
@[simp] theorem nextFree_powered (s : State) : s.nextFree.2.powered = s.powered := rfl
@[simp] theorem nextFree_ext (s : State) : s.nextFree.2.ext = s.ext := rfl
@[simp] theorem nextFree_formed (s : State) : s.nextFree.2.formed = s.formed := rfl
@[simp] theorem nextFree_dies (s : State) : s.nextFree.2.dies = s.dies := rfl
@[simp] theorem nextFree_launches (s : State) : s.nextFree.2.launches = s.launches := rfl
@[simp] theorem nextFree_nextLaunch (s : State) : s.nextFree.2.nextLaunch = s.nextLaunch := rfl
@[simp] theorem nextFree_host (s : State) : s.nextFree.2.host = s.host := rfl
@[simp] theorem nextFree_at_ (s : State) : s.nextFree.2.at_ = s.at_ := rfl
@[simp] theorem nextFree_slot (s : State) : s.nextFree.2.slot = s.slot := rfl
@[simp] theorem nextFree_bs (s : State) : s.nextFree.2.bs = s.bs := rfl
@[simp] theorem nextFree_free (s : State) : s.nextFree.2.free = s.free + 1 := rfl

/-! ### A host event -/

@[simp] theorem hostEvent_now (s : State) (v : Nat) : (s.hostEvent v).now = s.now := rfl
@[simp] theorem hostEvent_seq (s : State) (v : Nat) : (s.hostEvent v).seq = s.seq := rfl
@[simp] theorem hostEvent_free (s : State) (v : Nat) : (s.hostEvent v).free = s.free := rfl
@[simp] theorem hostEvent_calendar (s : State) (v : Nat) : (s.hostEvent v).calendar = s.calendar := rfl
@[simp] theorem hostEvent_powered (s : State) (v : Nat) : (s.hostEvent v).powered = s.powered := rfl
@[simp] theorem hostEvent_ext (s : State) (v : Nat) : (s.hostEvent v).ext = s.ext := rfl
@[simp] theorem hostEvent_formed (s : State) (v : Nat) : (s.hostEvent v).formed = s.formed := rfl
@[simp] theorem hostEvent_dies (s : State) (v : Nat) : (s.hostEvent v).dies = s.dies := rfl
@[simp] theorem hostEvent_launches (s : State) (v : Nat) : (s.hostEvent v).launches = s.launches := rfl
@[simp] theorem hostEvent_nextLaunch (s : State) (v : Nat) : (s.hostEvent v).nextLaunch = s.nextLaunch := rfl
@[simp] theorem hostEvent_at_ (s : State) (v : Nat) : (s.hostEvent v).at_ = s.at_ := rfl
@[simp] theorem hostEvent_slot (s : State) (v : Nat) : (s.hostEvent v).slot = s.slot := rfl
@[simp] theorem hostEvent_bs (s : State) (v : Nat) : (s.hostEvent v).bs = s.bs := rfl
@[simp] theorem hostEvent_events (s : State) (v : Nat) : (s.hostEvent v).host.events = s.host.events ++ [v] := rfl

/-! ### A change of a die -/

@[simp] theorem modDie_now (s : State) (d : Nat) (g : Die → Die) : (s.modDie d g).now = s.now := by
  unfold State.modDie; split <;> rfl
@[simp] theorem modDie_seq (s : State) (d : Nat) (g : Die → Die) : (s.modDie d g).seq = s.seq := by
  unfold State.modDie; split <;> rfl
@[simp] theorem modDie_free (s : State) (d : Nat) (g : Die → Die) : (s.modDie d g).free = s.free := by
  unfold State.modDie; split <;> rfl
@[simp] theorem modDie_calendar (s : State) (d : Nat) (g : Die → Die) : (s.modDie d g).calendar = s.calendar := by
  unfold State.modDie; split <;> rfl
@[simp] theorem modDie_powered (s : State) (d : Nat) (g : Die → Die) : (s.modDie d g).powered = s.powered := by
  unfold State.modDie; split <;> rfl
@[simp] theorem modDie_ext (s : State) (d : Nat) (g : Die → Die) : (s.modDie d g).ext = s.ext := by
  unfold State.modDie; split <;> rfl
@[simp] theorem modDie_formed (s : State) (d : Nat) (g : Die → Die) : (s.modDie d g).formed = s.formed := by
  unfold State.modDie; split <;> rfl
@[simp] theorem modDie_launches (s : State) (d : Nat) (g : Die → Die) : (s.modDie d g).launches = s.launches := by
  unfold State.modDie; split <;> rfl
@[simp] theorem modDie_nextLaunch (s : State) (d : Nat) (g : Die → Die) : (s.modDie d g).nextLaunch = s.nextLaunch := by
  unfold State.modDie; split <;> rfl
@[simp] theorem modDie_host (s : State) (d : Nat) (g : Die → Die) : (s.modDie d g).host = s.host := by
  unfold State.modDie; split <;> rfl
@[simp] theorem modDie_at_ (s : State) (d : Nat) (g : Die → Die) : (s.modDie d g).at_ = s.at_ := by
  unfold State.modDie; split <;> rfl
@[simp] theorem modDie_slot (s : State) (d : Nat) (g : Die → Die) : (s.modDie d g).slot = s.slot := by
  unfold State.modDie; split <;> rfl
@[simp] theorem modDie_bs (s : State) (d : Nat) (g : Die → Die) : (s.modDie d g).bs = s.bs := by
  unfold State.modDie; split <;> rfl
@[simp] theorem modDie_launch (s : State) (d : Nat) (g : Die → Die) (n : Nat) : (s.modDie d g).launch n = s.launch n := by
  simp [State.launch]

/-- The changed die. -/
theorem modDie_die_same {s : State} {d : Nat} {x : Die} (g : Die → Die) (h : mget s.dies d = some x) :
    (s.modDie d g).die d = g x := by
  simp [State.modDie, State.die, h]

theorem modDie_mget_same {s : State} {d : Nat} {x : Die} (g : Die → Die) (h : mget s.dies d = some x) :
    mget (s.modDie d g).dies d = some (g x) := by
  simp [State.modDie, h]

/-- A change of one die leaves every other die alone. -/
theorem modDie_mget_other {s : State} {d e : Nat} (g : Die → Die) (h : e ≠ d) :
    mget (s.modDie d g).dies e = mget s.dies e := by
  unfold State.modDie
  split
  · exact mget_mset_other _ _ h
  · rfl

theorem modDie_die_other {s : State} {d e : Nat} (g : Die → Die) (h : e ≠ d) : (s.modDie d g).die e = s.die e := by
  simp [State.die, modDie_mget_other g h]

/-- A die that does not exist is not changed. -/
theorem modDie_absent {s : State} {d : Nat} (g : Die → Die) (h : mget s.dies d = none) : s.modDie d g = s := by
  simp [State.modDie, h]

/-- Every die of a changed state is an old one or the changed one. -/
theorem mem_modDie {s : State} {d : Nat} {g : Die → Die} {e : Nat × Die} (h : e ∈ (s.modDie d g).dies) :
    e ∈ s.dies ∨ ∃ x, mget s.dies d = some x ∧ e = (d, g x) := by
  unfold State.modDie at h
  split at h
  · rename_i x hx
    rcases mem_mset h with h | h
    · exact .inr ⟨x, hx, h⟩
    · exact .inl h
  · exact .inl h

/-- A change of a die depends on the dies alone. -/
theorem modDie_dies_congr {s u : State} (d : Nat) (g : Die → Die) (h : s.dies = u.dies) :
    (s.modDie d g).dies = (u.modDie d g).dies := by
  unfold State.modDie
  rw [h]
  cases mget u.dies d <;> simp [h]

/-! ### A change of a task -/

@[simp] theorem modTask_now (s : State) (l : Loc) (g : Task → Task) : (s.modTask l g).now = s.now := modDie_now _ _ _
@[simp] theorem modTask_seq (s : State) (l : Loc) (g : Task → Task) : (s.modTask l g).seq = s.seq := modDie_seq _ _ _
@[simp] theorem modTask_free (s : State) (l : Loc) (g : Task → Task) : (s.modTask l g).free = s.free := modDie_free _ _ _
@[simp] theorem modTask_calendar (s : State) (l : Loc) (g : Task → Task) : (s.modTask l g).calendar = s.calendar := modDie_calendar _ _ _
@[simp] theorem modTask_powered (s : State) (l : Loc) (g : Task → Task) : (s.modTask l g).powered = s.powered := modDie_powered _ _ _
@[simp] theorem modTask_ext (s : State) (l : Loc) (g : Task → Task) : (s.modTask l g).ext = s.ext := modDie_ext _ _ _
@[simp] theorem modTask_formed (s : State) (l : Loc) (g : Task → Task) : (s.modTask l g).formed = s.formed := modDie_formed _ _ _
@[simp] theorem modTask_launches (s : State) (l : Loc) (g : Task → Task) : (s.modTask l g).launches = s.launches := modDie_launches _ _ _
@[simp] theorem modTask_nextLaunch (s : State) (l : Loc) (g : Task → Task) : (s.modTask l g).nextLaunch = s.nextLaunch := modDie_nextLaunch _ _ _
@[simp] theorem modTask_host (s : State) (l : Loc) (g : Task → Task) : (s.modTask l g).host = s.host := modDie_host _ _ _
@[simp] theorem modTask_at_ (s : State) (l : Loc) (g : Task → Task) : (s.modTask l g).at_ = s.at_ := modDie_at_ _ _ _
@[simp] theorem modTask_slot (s : State) (l : Loc) (g : Task → Task) : (s.modTask l g).slot = s.slot := modDie_slot _ _ _
@[simp] theorem modTask_bs (s : State) (l : Loc) (g : Task → Task) : (s.modTask l g).bs = s.bs := modDie_bs _ _ _
@[simp] theorem setTask_now (s : State) (l : Loc) (t : Task) : (s.setTask l t).now = s.now := modTask_now _ _ _
@[simp] theorem setTask_seq (s : State) (l : Loc) (t : Task) : (s.setTask l t).seq = s.seq := modTask_seq _ _ _
@[simp] theorem setTask_free (s : State) (l : Loc) (t : Task) : (s.setTask l t).free = s.free := modTask_free _ _ _
@[simp] theorem setTask_calendar (s : State) (l : Loc) (t : Task) : (s.setTask l t).calendar = s.calendar := modTask_calendar _ _ _
@[simp] theorem setTask_powered (s : State) (l : Loc) (t : Task) : (s.setTask l t).powered = s.powered := modTask_powered _ _ _
@[simp] theorem setTask_ext (s : State) (l : Loc) (t : Task) : (s.setTask l t).ext = s.ext := modTask_ext _ _ _
@[simp] theorem setTask_formed (s : State) (l : Loc) (t : Task) : (s.setTask l t).formed = s.formed := modTask_formed _ _ _
@[simp] theorem setTask_launches (s : State) (l : Loc) (t : Task) : (s.setTask l t).launches = s.launches := modTask_launches _ _ _
@[simp] theorem setTask_nextLaunch (s : State) (l : Loc) (t : Task) : (s.setTask l t).nextLaunch = s.nextLaunch := modTask_nextLaunch _ _ _
@[simp] theorem setTask_host (s : State) (l : Loc) (t : Task) : (s.setTask l t).host = s.host := modTask_host _ _ _
@[simp] theorem setTask_at_ (s : State) (l : Loc) (t : Task) : (s.setTask l t).at_ = s.at_ := modTask_at_ _ _ _
@[simp] theorem setTask_slot (s : State) (l : Loc) (t : Task) : (s.setTask l t).slot = s.slot := modTask_slot _ _ _
@[simp] theorem setTask_bs (s : State) (l : Loc) (t : Task) : (s.setTask l t).bs = s.bs := modTask_bs _ _ _

/-- The changed task. -/
theorem modTask_task_same {s : State} {l : Loc} {t : Task} (g : Task → Task) (h : s.task l = some t) :
    (s.modTask l g).task l = some (g t) := by
  unfold State.task at h
  cases hd : mget s.dies l.die with
  | none => simp [hd] at h
  | some d =>
    simp only [hd, Option.bind_some] at h
    simp [State.modTask, State.task, modDie_mget_same _ hd, h]

theorem setTask_task_same {s : State} {l : Loc} {t : Task} (u : Task) (h : s.task l = some t) :
    (s.setTask l u).task l = some u := modTask_task_same _ h

theorem modTask_eq_setTask {s : State} {l : Loc} {t : Task} (g : Task → Task) (h : s.task l = some t) :
    s.modTask l g = s.setTask l (g t) := by
  unfold State.task at h
  cases hd : mget s.dies l.die with
  | none => simp [hd] at h
  | some d =>
    simp only [hd, Option.bind_some] at h
    simp [State.setTask, State.modTask, State.modDie, hd, h]

/-- A change of one task leaves every other task alone. -/
theorem modTask_task_other {s : State} {l k : Loc} (g : Task → Task) (h : k ≠ l) :
    (s.modTask l g).task k = s.task k := by
  unfold State.modTask State.task
  by_cases hd : k.die = l.die
  · have hc : k.core ≠ l.core := fun e => h (by cases k; cases l; simp_all)
    rw [hd]
    cases hm : mget s.dies l.die with
    | none => simp [modDie_absent _ hm, hm]
    | some d =>
      rw [modDie_mget_same _ hm]
      simp only [Option.bind_some]
      split
      · exact mget_mset_other _ _ hc
      · rfl
  · rw [modDie_mget_other _ hd]

theorem modTask_task_congr {s u : State} (l : Loc) (g : Task → Task) (h : s.dies = u.dies) (k : Loc) :
    (s.modTask l g).task k = (u.modTask l g).task k := by
  simp only [State.task, State.modTask, modDie_dies_congr _ _ h]

/-- A change of a task leaves everything of its die but its tasks. -/
theorem modTask_die (s : State) (l : Loc) (g : Task → Task) (d : Nat) :
    (s.modTask l g).die d = { s.die d with tasks := ((s.modTask l g).die d).tasks } := by
  unfold State.modTask
  by_cases hd : d = l.die
  · subst hd
    cases hm : mget s.dies l.die with
    | none => rw [modDie_absent _ hm]
    | some x =>
      rw [modDie_die_same _ hm]
      simp only [State.die, hm, Option.getD_some]
      split <;> rfl
  · rw [modDie_die_other _ hd]
@[simp] theorem modTask_scratch (s : State) (l : Loc) (g : Task → Task) (d : Nat) :
    ((s.modTask l g).die d).scratch = (s.die d).scratch := by rw [modTask_die]
@[simp] theorem modTask_dram (s : State) (l : Loc) (g : Task → Task) (d : Nat) :
    ((s.modTask l g).die d).dram = (s.die d).dram := by rw [modTask_die]
@[simp] theorem modTask_lcc (s : State) (l : Loc) (g : Task → Task) (d : Nat) :
    ((s.modTask l g).die d).lcc = (s.die d).lcc := by rw [modTask_die]
@[simp] theorem modTask_counters (s : State) (l : Loc) (g : Task → Task) (d : Nat) :
    ((s.modTask l g).die d).counters = (s.die d).counters := by rw [modTask_die]
@[simp] theorem modTask_teams (s : State) (l : Loc) (g : Task → Task) (d : Nat) :
    ((s.modTask l g).die d).teams = (s.die d).teams := by rw [modTask_die]
@[simp] theorem modTask_ctxs (s : State) (l : Loc) (g : Task → Task) (d : Nat) :
    ((s.modTask l g).die d).ctxs = (s.die d).ctxs := by rw [modTask_die]

/-! ### A change of a launch -/

@[simp] theorem modLaunch_now (s : State) (n : Nat) (g : Launch → Launch) : (s.modLaunch n g).now = s.now := by
  unfold State.modLaunch; split <;> rfl
@[simp] theorem modLaunch_seq (s : State) (n : Nat) (g : Launch → Launch) : (s.modLaunch n g).seq = s.seq := by
  unfold State.modLaunch; split <;> rfl
@[simp] theorem modLaunch_free (s : State) (n : Nat) (g : Launch → Launch) : (s.modLaunch n g).free = s.free := by
  unfold State.modLaunch; split <;> rfl
@[simp] theorem modLaunch_calendar (s : State) (n : Nat) (g : Launch → Launch) : (s.modLaunch n g).calendar = s.calendar := by
  unfold State.modLaunch; split <;> rfl
@[simp] theorem modLaunch_powered (s : State) (n : Nat) (g : Launch → Launch) : (s.modLaunch n g).powered = s.powered := by
  unfold State.modLaunch; split <;> rfl
@[simp] theorem modLaunch_ext (s : State) (n : Nat) (g : Launch → Launch) : (s.modLaunch n g).ext = s.ext := by
  unfold State.modLaunch; split <;> rfl
@[simp] theorem modLaunch_formed (s : State) (n : Nat) (g : Launch → Launch) : (s.modLaunch n g).formed = s.formed := by
  unfold State.modLaunch; split <;> rfl
@[simp] theorem modLaunch_dies (s : State) (n : Nat) (g : Launch → Launch) : (s.modLaunch n g).dies = s.dies := by
  unfold State.modLaunch; split <;> rfl
@[simp] theorem modLaunch_nextLaunch (s : State) (n : Nat) (g : Launch → Launch) : (s.modLaunch n g).nextLaunch = s.nextLaunch := by
  unfold State.modLaunch; split <;> rfl
@[simp] theorem modLaunch_host (s : State) (n : Nat) (g : Launch → Launch) : (s.modLaunch n g).host = s.host := by
  unfold State.modLaunch; split <;> rfl
@[simp] theorem modLaunch_at_ (s : State) (n : Nat) (g : Launch → Launch) : (s.modLaunch n g).at_ = s.at_ := by
  unfold State.modLaunch; split <;> rfl
@[simp] theorem modLaunch_slot (s : State) (n : Nat) (g : Launch → Launch) : (s.modLaunch n g).slot = s.slot := by
  unfold State.modLaunch; split <;> rfl
@[simp] theorem modLaunch_bs (s : State) (n : Nat) (g : Launch → Launch) : (s.modLaunch n g).bs = s.bs := by
  unfold State.modLaunch; split <;> rfl
@[simp] theorem modLaunch_die (s : State) (n : Nat) (g : Launch → Launch) (d : Nat) : (s.modLaunch n g).die d = s.die d := by
  simp [State.die]
@[simp] theorem modLaunch_task (s : State) (n : Nat) (g : Launch → Launch) (l : Loc) : (s.modLaunch n g).task l = s.task l := by
  simp [State.task]
theorem modLaunch_same {s : State} {n : Nat} {x : Launch} (g : Launch → Launch) (h : s.launch n = some x) :
    (s.modLaunch n g).launch n = some (g x) := by
  simp only [State.launch] at h
  simp [State.modLaunch, State.launch, h]
theorem modLaunch_other {s : State} {n k : Nat} (g : Launch → Launch) (h : k ≠ n) :
    (s.modLaunch n g).launch k = s.launch k := by
  unfold State.modLaunch State.launch
  split
  · exact mget_mset_other _ _ h
  · rfl

/-! ### Registers -/

theorem rx_zero (a : Arch) : a.rx 0 = 0 := by simp [Arch.rx]
theorem rm_zero (a : Arch) : a.rm 0 = BitVec.allOnes 512 := by simp [Arch.rm]

/-- p0 never changes. -/
theorem setPred_zero (p : BitVec 16) (b : Bool) : setPred p 0 b = p := by simp [setPred]

end Sys2Proof.Machine
end

