-- ==== Sys2Proof/Laws/Issue.lean ====
section
/-! SUPPORT. What the shared operations of an issue can do, one lemma each: a slot operation, a guard, a result, a fault. -/

namespace Sys2Proof.Machine

/-- A slot operation that goes on answers its state. -/
theorem runSlot_ok {f : Issue} {s s' : State} {t : Task} (h : s.task s.at_ = some t) (hf : f s t = .ok s') :
    runSlot f s = .next s' := by simp [runSlot, h, hf]

/-- A slot operation that raises a fault takes it. -/
theorem runSlot_fault {f : Issue} {s : State} {t : Task} {q : FaultReq} (h : s.task s.at_ = some t)
    (hf : f s t = .fault q) : runSlot f s = .next (takeFault s s.at_ q) := by simp [runSlot, h, hf]

/-- A slot operation that cannot issue stalls its core. -/
theorem runSlot_stall {f : Issue} {s : State} {t : Task} {w : Wait} (h : s.task s.at_ = some t)
    (hf : f s t = .stall w) : runSlot f s = .next (stallCore s s.at_ w) := by simp [runSlot, h, hf]

theorem whenPred_true {p : Fin 16} {f : Issue} {s : State} {t : Task} (hp : t.arch.pred p.val = true) :
    whenPred p f s t = f s t := by simp [whenPred, hp]

theorem whenPred_false {p : Fin 16} {f : Issue} {s : State} {t : Task} (hp : t.arch.pred p.val = false) :
    whenPred p f s t = .ok s := by simp [whenPred, hp]

/-- What a predicate register write leaves, bit by bit: p0 never changes (R93). -/
theorem setPred_getLsbD (p : BitVec 16) (n k : Nat) (b : Bool) :
    (setPred p n b).getLsbD k = if k = n ∧ n ≠ 0 ∧ n < 16 then b else p.getLsbD k := by
  unfold setPred
  by_cases h : n = 0 ∨ n ≥ 16
  · have : ¬(k = n ∧ n ≠ 0 ∧ n < 16) := by omega
    rcases h with h | h <;> simp [h, this]
  · have hn : n < 16 ∧ n ≠ 0 := by omega
    have hb : (BitVec.ofNat 16 (2 ^ n)).getLsbD k = (decide (k < 16) && decide (n = k)) := by
      rw [BitVec.getLsbD_ofNat, Nat.testBit_two_pow]
    have hc : (decide (n = 0) || decide (n ≥ 16)) = false := by simp; omega
    rw [hc]
    by_cases hk : k = n
    · subst hk
      cases b
      · simp only [Bool.false_eq_true, if_false]
        rw [BitVec.getLsbD_and, BitVec.getLsbD_not, hb]
        simp [hn]
      · simp only [Bool.false_eq_true, if_false, if_true]
        rw [BitVec.getLsbD_or, hb]
        simp [hn]
    · have hk2 : ¬(k = n ∧ n ≠ 0 ∧ n < 16) := fun h => hk h.1
      have hk3 : ¬ n = k := fun h => hk h.symm
      cases b
      · simp only [Bool.false_eq_true, if_false]
        rw [BitVec.getLsbD_and, BitVec.getLsbD_not, hb, if_neg hk2]
        by_cases h16 : k < 16
        · simp [hk3, h16]
        · simp [h16, BitVec.getLsbD_of_ge p k (by omega)]
      · simp only [Bool.false_eq_true, if_false, if_true]
        rw [BitVec.getLsbD_or, hb, if_neg hk2]
        simp [hk3]

/-- A change of a die that keeps its tasks keeps every task. -/
theorem modDie_task_of (s : State) (d : Nat) (g : Die → Die) (l : Loc) (h : ∀ x, (g x).tasks = x.tasks) :
    (s.modDie d g).task l = s.task l := by
  unfold State.task
  by_cases hl : l.die = d
  · subst hl
    cases hm : mget s.dies l.die with
    | none => rw [modDie_absent _ hm, hm]
    | some x => rw [modDie_mget_same _ hm]; simp [h]
  · rw [modDie_mget_other _ hl]

@[simp] theorem hostEvent_task (s : State) (v : Nat) (l : Loc) : (s.hostEvent v).task l = s.task l := rfl

/-- An error record leaves every task. -/
@[simp] theorem errPush_task (s : State) (d ty : Nat) (r : BitVec 512) (l : Loc) :
    (s.errPush d ty r).task l = s.task l := by
  have m (g : Die → Die) (h : ∀ x, (g x).tasks = x.tasks) : (s.modDie d g).task l = s.task l := modDie_task_of s d g l h
  unfold State.errPush
  simp only
  split_ifs <;> exact m _ fun _ => rfl

/-- The task that a fault leaves on its core (R113, R184, R361). -/
def Task.faulted (t : Task) (f : FaultReq) : Task :=
  let t1 := if t.timed then t else t.rollback
  { t1 with
    ctl := { t1.ctl with trapc := trapcWord f.code f.imm (f.bundle.getD t.fetch.pc)
                         trapva := match f.va with
                           | some v => BitVec.ofNat 64 v
                           | none => t1.ctl.trapva }
    wait := .none
    phase := if !t.timed && preciseCode f.code then .held else .ended }

/-- Taking a fault: what it does to the tasks of every core. -/
theorem takeFault_task {s : State} {l : Loc} {t : Task} (f : FaultReq) (h : s.task l = some t) (k : Loc) :
    (takeFault s l f).task k = (s.setTask l (t.faulted f)).task k := by
  have e (u : State) (t' : Task) (hu : u.dies = s.dies) (ht : t' = t.faulted f) :
      (u.setTask l t').task k = (s.setTask l (t.faulted f)).task k := by
    rw [ht]; exact modTask_task_congr l _ hu k
  unfold takeFault
  rw [h]
  simp only
  split
  · rename_i hh
    rw [errPush_task, modDie_task_of _ _ _ _ (by intro x; split <;> rfl)]
    exact e _ _ rfl (by cases hv : f.va <;> simp [Task.faulted, hh, hv])
  · rename_i hh
    rw [postUnit_eq, postAt_task, modLaunch_task]
    show (State.errPush _ _ _ _).task k = _
    rw [errPush_task, modDie_task_of _ _ _ _ (by intro x; split <;> rfl)]
    exact e _ _ rfl (by cases hv : f.va <;> simp [Task.faulted, hh, hv])

end Sys2Proof.Machine
end

