-- ==== Sys2Proof/Laws/Lanes.lean ====
section
/-! SUPPORT. Laws of lanes and bit counts: what a vector built from lanes reads back, and the counting loops. -/

namespace Sys2Proof.Machine

theorem lanesNat_lt (w : Nat) (l : List Nat) : lanesNat w l < 2 ^ (w * l.length) := by
  induction l with
  | nil => simp [lanesNat]
  | cons x r ih =>
    simp only [lanesNat, List.length_cons, Nat.mul_add, Nat.mul_one, Nat.pow_add]
    have h1 : x % 2 ^ w < 2 ^ w := Nat.mod_lt _ (Nat.two_pow_pos w)
    calc x % 2 ^ w + 2 ^ w * lanesNat w r < 2 ^ w + 2 ^ w * lanesNat w r := by omega
      _ = 2 ^ w * (lanesNat w r + 1) := by ring
      _ ≤ 2 ^ w * 2 ^ (w * r.length) := Nat.mul_le_mul_left _ ih
      _ = _ := by rw [Nat.mul_comm]

theorem lanesNat_lane (w : Nat) (l : List Nat) (i : Nat) : (lanesNat w l >>> (w * i)) % 2 ^ w = (l[i]?.getD 0) % 2 ^ w := by
  induction l generalizing i with
  | nil => simp [lanesNat]
  | cons x r ih =>
    cases i with
    | zero => simp [lanesNat, Nat.add_mod]
    | succ i =>
      simp only [List.getElem?_cons_succ, lanesNat]
      rw [← ih i, Nat.mul_add, Nat.mul_one, Nat.add_comm (w * i) w, Nat.shiftRight_add]
      congr 2
      rw [Nat.shiftRight_eq_div_pow, Nat.add_mul_div_left _ _ (Nat.two_pow_pos w), Nat.div_eq_of_lt (Nat.mod_lt _ (Nat.two_pow_pos w)), Nat.zero_add]

theorem lane_ofLanes (w : Nat) (l : List Nat) (i : Nat) (h : w * l.length ≤ 4096) : lane w (ofLanes w l) i = (l[i]?.getD 0) % 2 ^ w := by
  rw [lane, ofLanes, BitVec.toNat_ofNat, Nat.mod_eq_of_lt (Nat.lt_of_lt_of_le (lanesNat_lt w l) (Nat.pow_le_pow_right (by omega) h)), lanesNat_lane]

theorem lanesGo_mem_lt (w n v : Nat) : ∀ x ∈ lanesGo w n v, x < 2 ^ w := by
  induction n generalizing v with
  | zero => simp [lanesGo]
  | succ n ih =>
    intro x hx
    simp only [lanesGo, List.mem_cons] at hx
    rcases hx with rfl | hx
    · exact Nat.mod_lt _ (Nat.two_pow_pos w)
    · exact ih _ _ hx

theorem ofLanes_congr {w : Nat} {l m : List Nat} (h : l.map (· % 2 ^ w) = m.map (· % 2 ^ w)) : ofLanes w l = ofLanes w m := by
  unfold ofLanes
  congr 1
  induction l generalizing m with
  | nil => cases m <;> simp_all
  | cons a l ih =>
    cases m with
    | nil => simp at h
    | cons b m => simp only [List.map_cons, List.cons.injEq] at h; simp only [lanesNat, h.1, ih h.2]

/-- Lanes that raise no event record none. -/
theorem kindCounts_zero (l : List (Bool × Evs)) (h : ∀ e ∈ l, e.2 = 0) : kindCounts l = [] := by
  simp only [kindCounts, List.filterMap_eq_nil_iff]
  intro a _
  have : (l.filter fun e => e.1 && (e.2 >>> a.2) % 2 = 1) = [] := by
    rw [List.filter_eq_nil_iff]; intro e he; simp [h e he]
  simp only [this]; rfl

theorem laneEvents_zero (en : List Bool) (l : List Evs) (h : ∀ e ∈ l, e = 0) : laneEvents en l = [] :=
  kindCounts_zero _ fun _ he => h _ (List.of_mem_zip he).2

theorem popGo_count (n : Nat) (v : Nat) : popGo n v = (List.range n).countP (fun i => v.testBit i) := by
  induction n generalizing v with
  | zero => rfl
  | succ n ih =>
    rw [popGo, ih, List.range_succ_eq_map, List.countP_cons, List.countP_map]
    have : (fun i => (v / 2).testBit i) = (fun i => v.testBit i) ∘ Nat.succ := by
      funext i; simp [Nat.testBit_succ]
    rw [this]
    have h2 : v % 2 = if v.testBit 0 then 1 else 0 := by
      simp only [Nat.testBit_zero, decide_eq_true_eq]; split <;> omega
    rw [h2]; split <;> omega

theorem ctzGo_spec (n v : Nat) : ctzGo n v ≤ n ∧ (∀ i, i < ctzGo n v → v.testBit i = false) ∧ (v.testBit (ctzGo n v) = true ∨ ctzGo n v = n) := by
  induction n generalizing v with
  | zero => simp [ctzGo]
  | succ n ih =>
    by_cases h : v % 2 = 1
    · simp [ctzGo, h, Nat.testBit_zero]
    · obtain ⟨h1, h2, h3⟩ := ih (v / 2)
      simp only [ctzGo, h, if_false]
      refine ⟨by omega, ?_, ?_⟩
      · intro i hi
        cases i with
        | zero => simp [Nat.testBit_zero]; omega
        | succ i => rw [Nat.testBit_succ]; exact h2 i (by omega)
      · rcases h3 with h3 | h3
        · left; rw [Nat.add_comm, Nat.testBit_succ]; exact h3
        · right; omega

theorem clzGo_spec (n v : Nat) (h : v < 2 ^ n) : clzGo n v = if v = 0 then n else n - 1 - v.log2 := by
  induction n with
  | zero => simp at h; simp [clzGo]
  | succ n ih =>
    by_cases h1 : v ≥ 2 ^ n
    · have h0 : v ≠ 0 := by have := Nat.two_pow_pos n; omega
      have : v.log2 = n := by
        rw [Nat.log2_eq_iff h0]; exact ⟨h1, h⟩
      simp [clzGo, h1, h0, this]
    · simp only [clzGo, h1, if_false, ih (by omega)]
      split
      · omega
      · rename_i h0
        have : v.log2 < n := (Nat.log2_lt h0).2 (by omega)
        omega

end Sys2Proof.Machine
end

