-- ==== Sys2Proof/Laws/PerInstr.lean ====
section
/-! SUPPORT. Family F: an instruction is an operation of at most one kind of slot, so its word needs no mark of the slot it
came from. One lemma per constructor. -/

namespace Sys2Proof.Laws.F

open Sys2Proof

/-- At most one kind of slot encodes the instruction. -/
def Statement (i : Instr) : Prop :=
  ([encS i, encXB i, encVSlot i, encM i, encLS i, encFB i, encRP i].filter Option.isSome).length ≤ 1

theorem resultLanding (l : Loc) (r : Landing) : Statement (.resultLanding l r) := Nat.le_of_ble_eq_true rfl
theorem accessPerform (a : Access) : Statement (.accessPerform a) := Nat.le_of_ble_eq_true rfl
theorem add (p : Fin 16) (d a : Fin 32) (b : SSrc) : Statement (.add p d a b) := Nat.le_of_ble_eq_true rfl
theorem sub (p : Fin 16) (d a : Fin 32) (b : SSrc) : Statement (.sub p d a b) := Nat.le_of_ble_eq_true rfl
theorem and (p : Fin 16) (d a : Fin 32) (b : SSrc) : Statement (.and p d a b) := Nat.le_of_ble_eq_true rfl
theorem or (p : Fin 16) (d a : Fin 32) (b : SSrc) : Statement (.or p d a b) := Nat.le_of_ble_eq_true rfl
theorem xor (p : Fin 16) (d a : Fin 32) (b : SSrc) : Statement (.xor p d a b) := Nat.le_of_ble_eq_true rfl
theorem andn (p : Fin 16) (d a : Fin 32) (b : SSrc) : Statement (.andn p d a b) := Nat.le_of_ble_eq_true rfl
theorem shl (p : Fin 16) (d a : Fin 32) (b : SSrc) : Statement (.shl p d a b) := Nat.le_of_ble_eq_true rfl
theorem shr (p : Fin 16) (d a : Fin 32) (b : SSrc) : Statement (.shr p d a b) := Nat.le_of_ble_eq_true rfl
theorem sar (p : Fin 16) (d a : Fin 32) (b : SSrc) : Statement (.sar p d a b) := Nat.le_of_ble_eq_true rfl
theorem min (p : Fin 16) (d a : Fin 32) (b : SSrc) : Statement (.min p d a b) := Nat.le_of_ble_eq_true rfl
theorem max (p : Fin 16) (d a : Fin 32) (b : SSrc) : Statement (.max p d a b) := Nat.le_of_ble_eq_true rfl
theorem minu (p : Fin 16) (d a : Fin 32) (b : SSrc) : Statement (.minu p d a b) := Nat.le_of_ble_eq_true rfl
theorem maxu (p : Fin 16) (d a : Fin 32) (b : SSrc) : Statement (.maxu p d a b) := Nat.le_of_ble_eq_true rfl
theorem mul (p : Fin 16) (d a : Fin 32) (b : SSrc) : Statement (.mul p d a b) := Nat.le_of_ble_eq_true rfl
theorem mulh (p : Fin 16) (d a : Fin 32) (b : SSrc) : Statement (.mulh p d a b) := Nat.le_of_ble_eq_true rfl
theorem mulhu (p : Fin 16) (d a : Fin 32) (b : SSrc) : Statement (.mulhu p d a b) := Nat.le_of_ble_eq_true rfl
theorem clz (p : Fin 16) (d a : Fin 32) : Statement (.clz p d a) := Nat.le_of_ble_eq_true rfl
theorem ctz (p : Fin 16) (d a : Fin 32) : Statement (.ctz p d a) := Nat.le_of_ble_eq_true rfl
theorem popc (p : Fin 16) (d a : Fin 32) : Statement (.popc p d a) := Nat.le_of_ble_eq_true rfl
theorem sext (p : Fin 16) (d a : Fin 32) (w : SW) : Statement (.sext p d a w) := Nat.le_of_ble_eq_true rfl
theorem zext (p : Fin 16) (d a : Fin 32) (w : SW) : Statement (.zext p d a w) := Nat.le_of_ble_eq_true rfl
theorem addsh1 (p : Fin 16) (d a : Fin 32) (b : SSrc) : Statement (.addsh1 p d a b) := Nat.le_of_ble_eq_true rfl
theorem addsh2 (p : Fin 16) (d a : Fin 32) (b : SSrc) : Statement (.addsh2 p d a b) := Nat.le_of_ble_eq_true rfl
theorem addsh3 (p : Fin 16) (d a : Fin 32) (b : SSrc) : Statement (.addsh3 p d a b) := Nat.le_of_ble_eq_true rfl
theorem addsh4 (p : Fin 16) (d a : Fin 32) (b : SSrc) : Statement (.addsh4 p d a b) := Nat.le_of_ble_eq_true rfl
theorem addi (p : Fin 16) (d : Fin 32) (a : SSrc) (imm : BitVec 11) : Statement (.addi p d a imm) := Nat.le_of_ble_eq_true rfl
theorem andi (p : Fin 16) (d : Fin 32) (a : SSrc) (imm : BitVec 11) : Statement (.andi p d a imm) := Nat.le_of_ble_eq_true rfl
theorem ori (p : Fin 16) (d : Fin 32) (a : SSrc) (imm : BitVec 11) : Statement (.ori p d a imm) := Nat.le_of_ble_eq_true rfl
theorem xori (p : Fin 16) (d : Fin 32) (a : SSrc) (imm : BitVec 11) : Statement (.xori p d a imm) := Nat.le_of_ble_eq_true rfl
theorem shli (p : Fin 16) (d : Fin 32) (a : SSrc) (sh : Fin 64) : Statement (.shli p d a sh) := Nat.le_of_ble_eq_true rfl
theorem shri (p : Fin 16) (d : Fin 32) (a : SSrc) (sh : Fin 64) : Statement (.shri p d a sh) := Nat.le_of_ble_eq_true rfl
theorem sari (p : Fin 16) (d : Fin 32) (a : SSrc) (sh : Fin 64) : Statement (.sari p d a sh) := Nat.le_of_ble_eq_true rfl
theorem li (p : Fin 16) (d : Fin 32) (imm : BitVec 16) : Statement (.li p d imm) := Nat.le_of_ble_eq_true rfl
theorem lch (p : Fin 16) (d : Fin 32) (h : Fin 4) (imm : BitVec 16) : Statement (.lch p d h imm) := Nat.le_of_ble_eq_true rfl
theorem cmp (p : Fin 16) (q : Fin 16) (a : Fin 32) (b : SSrc) (cc : CC) : Statement (.cmp p q a b cc) := Nat.le_of_ble_eq_true rfl
theorem cmpi (p : Fin 16) (q : Fin 16) (a : SSrc) (cc : CC) (imm : BitVec 8) : Statement (.cmpi p q a cc imm) := Nat.le_of_ble_eq_true rfl
theorem pand (p : Fin 16) (q a b : Fin 16) : Statement (.pand p q a b) := Nat.le_of_ble_eq_true rfl
theorem por (p : Fin 16) (q a b : Fin 16) : Statement (.por p q a b) := Nat.le_of_ble_eq_true rfl
theorem pxor (p : Fin 16) (q a b : Fin 16) : Statement (.pxor p q a b) := Nat.le_of_ble_eq_true rfl
theorem pnot (p : Fin 16) (q a : Fin 16) : Statement (.pnot p q a) := Nat.le_of_ble_eq_true rfl
theorem br (p : Fin 16) (off : BitVec 22) : Statement (.br p off) := Nat.le_of_ble_eq_true rfl
theorem brp (p : Fin 16) (ps : Fin 16) (off : BitVec 18) : Statement (.brp p ps off) := Nat.le_of_ble_eq_true rfl
theorem jmp (p : Fin 16) (a : Fin 32) : Statement (.jmp p a) := Nat.le_of_ble_eq_true rfl
theorem call (p : Fin 16) (off : BitVec 22) : Statement (.call p off) := Nat.le_of_ble_eq_true rfl
theorem ret (p : Fin 16) : Statement (.ret p) := Nat.le_of_ble_eq_true rfl
theorem exit (p : Fin 16) : Statement (.exit p) := Nat.le_of_ble_eq_true rfl
theorem trap (p : Fin 16) (code : BitVec 16) : Statement (.trap p code) := Nat.le_of_ble_eq_true rfl
theorem yield (p : Fin 16) : Statement (.yield p) := Nat.le_of_ble_eq_true rfl
theorem loop (p : Fin 16) (lv : Fin 8) (xc xs : Fin 32) (stride : BitVec 9) : Statement (.loop p lv xc xs stride) := Nat.le_of_ble_eq_true rfl
theorem loopi (p : Fin 16) (lv : Fin 8) (count : BitVec 13) (stride : BitVec 6) : Statement (.loopi p lv count stride) := Nat.le_of_ble_eq_true rfl
theorem ntreq (p : Fin 16) (vd : Fin 64) : Statement (.ntreq p vd) := Nat.le_of_ble_eq_true rfl
theorem wfe (p : Fin 16) (ev : Fin 16) : Statement (.wfe p ev) := Nat.le_of_ble_eq_true rfl
theorem sev (p : Fin 16) (ev : Fin 16) (a : Fin 32) : Statement (.sev p ev a) := Nat.le_of_ble_eq_true rfl
theorem bar (p : Fin 16) (b : Fin 4) : Statement (.bar p b) := Nat.le_of_ble_eq_true rfl
theorem align (p : Fin 16) (a : Fin 32) : Statement (.align p a) := Nat.le_of_ble_eq_true rfl
theorem tenter (p : Fin 16) (a : Fin 32) : Statement (.tenter p a) := Nat.le_of_ble_eq_true rfl
theorem texit (p : Fin 16) : Statement (.texit p) := Nat.le_of_ble_eq_true rfl
theorem rdc (p : Fin 16) (d : Fin 32) (creg : BitVec 12) : Statement (.rdc p d creg) := Nat.le_of_ble_eq_true rfl
theorem wrc (p : Fin 16) (creg : BitVec 12) (a : Fin 32) : Statement (.wrc p creg a) := Nat.le_of_ble_eq_true rfl
theorem stqp (p : Fin 16) (d : Fin 32) : Statement (.stqp p d) := Nat.le_of_ble_eq_true rfl
theorem lds (p : Fin 16) (d : Fin 32) (a : SSrc) (imm : BitVec 11) : Statement (.lds p d a imm) := Nat.le_of_ble_eq_true rfl
theorem sts (p : Fin 16) (s : Fin 32) (a : SSrc) (imm : BitVec 11) : Statement (.sts p s a imm) := Nat.le_of_ble_eq_true rfl
theorem xsv (vd : Fin 64) (xa : Fin 32) : Statement (.xsv vd xa) := Nat.le_of_ble_eq_true rfl
theorem xvs (xd : Fin 32) (va : Fin 64) : Statement (.xvs xd va) := Nat.le_of_ble_eq_true rfl
theorem xpv (md : Fin 8) (pa : Fin 16) : Statement (.xpv md pa) := Nat.le_of_ble_eq_true rfl
theorem xvp (pd : Fin 16) (ma : Fin 8) : Statement (.xvp pd ma) := Nat.le_of_ble_eq_true rfl
theorem vadd (h : VHdr) (t : FTy) (d : VDst) (a b : VSrc) : Statement (.vadd h t d a b) := Nat.le_of_ble_eq_true rfl
theorem vsub (h : VHdr) (t : FTy) (d : VDst) (a b : VSrc) : Statement (.vsub h t d a b) := Nat.le_of_ble_eq_true rfl
theorem vmul (h : VHdr) (t : FTy) (d : VDst) (a b : VSrc) : Statement (.vmul h t d a b) := Nat.le_of_ble_eq_true rfl
theorem vfma (h : VHdr) (t : FTy) (d : VDst) (a b : VSrc) (c : Fin 64) : Statement (.vfma h t d a b c) := Nat.le_of_ble_eq_true rfl
theorem vfms (h : VHdr) (t : FTy) (d : VDst) (a b : VSrc) (c : Fin 64) : Statement (.vfms h t d a b c) := Nat.le_of_ble_eq_true rfl
theorem vfnma (h : VHdr) (t : FTy) (d : VDst) (a b : VSrc) (c : Fin 64) : Statement (.vfnma h t d a b c) := Nat.le_of_ble_eq_true rfl
theorem vmin (h : VHdr) (t : FTy) (d : VDst) (a b : VSrc) : Statement (.vmin h t d a b) := Nat.le_of_ble_eq_true rfl
theorem vmax (h : VHdr) (t : FTy) (d : VDst) (a b : VSrc) : Statement (.vmax h t d a b) := Nat.le_of_ble_eq_true rfl
theorem vabs (h : VHdr) (t : FTy) (d : VDst) (a : VSrc) : Statement (.vabs h t d a) := Nat.le_of_ble_eq_true rfl
theorem vneg (h : VHdr) (t : FTy) (d : VDst) (a : VSrc) : Statement (.vneg h t d a) := Nat.le_of_ble_eq_true rfl
theorem vcps (h : VHdr) (t : FTy) (d : VDst) (a b : VSrc) : Statement (.vcps h t d a b) := Nat.le_of_ble_eq_true rfl
theorem vrcp (h : VHdr) (t : FTy) (d : VDst) (a : VSrc) : Statement (.vrcp h t d a) := Nat.le_of_ble_eq_true rfl
theorem vrsq (h : VHdr) (t : FTy) (d : VDst) (a : VSrc) : Statement (.vrsq h t d a) := Nat.le_of_ble_eq_true rfl
theorem vsqrt (h : VHdr) (t : FTy) (d : VDst) (a : VSrc) : Statement (.vsqrt h t d a) := Nat.le_of_ble_eq_true rfl
theorem vexp2 (h : VHdr) (t : FTy) (d : VDst) (a : VSrc) : Statement (.vexp2 h t d a) := Nat.le_of_ble_eq_true rfl
theorem vlog2 (h : VHdr) (t : FTy) (d : VDst) (a : VSrc) : Statement (.vlog2 h t d a) := Nat.le_of_ble_eq_true rfl
theorem vtanh (h : VHdr) (t : FTy) (d : VDst) (a : VSrc) : Statement (.vtanh h t d a) := Nat.le_of_ble_eq_true rfl
theorem viadd (h : VHdr) (w : IW) (d : VDst) (a b : VSrc) : Statement (.viadd h w d a b) := Nat.le_of_ble_eq_true rfl
theorem visub (h : VHdr) (w : IW) (d : VDst) (a b : VSrc) : Statement (.visub h w d a b) := Nat.le_of_ble_eq_true rfl
theorem vimul (h : VHdr) (w : IW) (d : VDst) (a b : VSrc) : Statement (.vimul h w d a b) := Nat.le_of_ble_eq_true rfl
theorem vimad (h : VHdr) (w : IW) (d : VDst) (a b : VSrc) (c : Fin 64) : Statement (.vimad h w d a b c) := Nat.le_of_ble_eq_true rfl
theorem vimin (h : VHdr) (w : IW) (u : Bool) (d : VDst) (a b : VSrc) : Statement (.vimin h w u d a b) := Nat.le_of_ble_eq_true rfl
theorem vimax (h : VHdr) (w : IW) (u : Bool) (d : VDst) (a b : VSrc) : Statement (.vimax h w u d a b) := Nat.le_of_ble_eq_true rfl
theorem vand (h : VHdr) (d : VDst) (a b : VSrc) : Statement (.vand h d a b) := Nat.le_of_ble_eq_true rfl
theorem vor (h : VHdr) (d : VDst) (a b : VSrc) : Statement (.vor h d a b) := Nat.le_of_ble_eq_true rfl
theorem vxor (h : VHdr) (d : VDst) (a b : VSrc) : Statement (.vxor h d a b) := Nat.le_of_ble_eq_true rfl
theorem vshl (h : VHdr) (w : IW) (d : VDst) (a b : VSrc) : Statement (.vshl h w d a b) := Nat.le_of_ble_eq_true rfl
theorem vshr (h : VHdr) (w : IW) (d : VDst) (a b : VSrc) : Statement (.vshr h w d a b) := Nat.le_of_ble_eq_true rfl
theorem vsar (h : VHdr) (w : IW) (d : VDst) (a b : VSrc) : Statement (.vsar h w d a b) := Nat.le_of_ble_eq_true rfl
theorem vcmp (h : VHdr) (t : CmpTy) (cc : VCC) (md : Fin 8) (a b : VSrc) : Statement (.vcmp h t cc md a b) := Nat.le_of_ble_eq_true rfl
theorem vsel (h : VHdr) (d : VDst) (a b : VSrc) (mc : Fin 8) : Statement (.vsel h d a b mc) := Nat.le_of_ble_eq_true rfl
theorem vmov (h : VHdr) (d : VDst) (a : VSrc) : Statement (.vmov h d a) := Nat.le_of_ble_eq_true rfl
theorem vsplat (h : VHdr) (w : IW) (d : VDst) (a : VSrc) (lane : Fin 256) : Statement (.vsplat h w d a lane) := Nat.le_of_ble_eq_true rfl
theorem vli (h : VHdr) (k : VliKind) (d : VDst) (imm : BitVec 16) : Statement (.vli h k d imm) := Nat.le_of_ble_eq_true rfl
theorem viota (h : VHdr) (w : IW) (d : VDst) : Statement (.viota h w d) := Nat.le_of_ble_eq_true rfl
theorem vperm (h : VHdr) (w : IW) (d : VDst) (a b : VSrc) : Statement (.vperm h w d a b) := Nat.le_of_ble_eq_true rfl
theorem vrot (h : VHdr) (w : IW) (d : VDst) (a : VSrc) (n : Fin 256) : Statement (.vrot h w d a n) := Nat.le_of_ble_eq_true rfl
theorem vpack (h : VHdr) (w : IW) (u : Bool) (d : VDst) (a b : VSrc) : Statement (.vpack h w u d a b) := Nat.le_of_ble_eq_true rfl
theorem vunpk (h : VHdr) (w : IW) (u : Bool) (d : VDst) (a : VSrc) : Statement (.vunpk h w u d a) := Nat.le_of_ble_eq_true rfl
theorem vcvt (h : VHdr) (d : VDst) (a : VSrc) (src dst : Fmt) (rm : Rm) : Statement (.vcvt h d a src dst rm) := Nat.le_of_ble_eq_true rfl
theorem vscl (h : VHdr) (t : FTy) (d : VDst) (a : VSrc) (s : BitVec 8) : Statement (.vscl h t d a s) := Nat.le_of_ble_eq_true rfl
theorem vred (h : VHdr) (t : FTy) (op : RedOp) (d : VDst) (a : VSrc) : Statement (.vred h t op d a) := Nat.le_of_ble_eq_true rfl
theorem vscan (h : VHdr) (t : FTy) (op : RedOp) (d : VDst) (a : VSrc) : Statement (.vscan h t op d a) := Nat.le_of_ble_eq_true rfl
theorem part (h : VHdr) (d : Fin 64) (a : VSrc) (n : Fin 4) : Statement (.part h d a n) := Nat.le_of_ble_eq_true rfl
theorem vrng (h : VHdr) (d : VDst) (a b : VSrc) (w : Fin 4) : Statement (.vrng h d a b w) := Nat.le_of_ble_eq_true rfl
theorem vdrop (h : VHdr) (t : FTy) (d : VDst) (a : VSrc) (key : Fin 4) (theta : Fin 64) : Statement (.vdrop h t d a key theta) := Nat.le_of_ble_eq_true rfl
theorem mand (h : VHdr) (d a b : Fin 8) : Statement (.mand h d a b) := Nat.le_of_ble_eq_true rfl
theorem mor (h : VHdr) (d a b : Fin 8) : Statement (.mor h d a b) := Nat.le_of_ble_eq_true rfl
theorem mnot (h : VHdr) (d a : Fin 8) : Statement (.mnot h d a) := Nat.le_of_ble_eq_true rfl
theorem mcnt (h : VHdr) (d : Fin 64) (a : Fin 8) : Statement (.mcnt h d a) := Nat.le_of_ble_eq_true rfl
theorem mwldN (p : Fin 16) (k : Fin 128) (a : MSrc) : Statement (.mwldN p k a) := Nat.le_of_ble_eq_true rfl
theorem mwldW (p : Fin 16) (k : Fin 128) (a : MSrc) : Statement (.mwldW p k a) := Nat.le_of_ble_eq_true rfl
theorem mafmt (p : Fin 16) (f : Fmt) : Statement (.mafmt p f) := Nat.le_of_ble_eq_true rfl
theorem mbeat (p : Fin 16) (a : Fin 1024) (set cb : Bool) (src : MSrc) : Statement (.mbeat p a set cb src) := Nat.le_of_ble_eq_true rfl
theorem mbeatt (p : Fin 16) (a : Fin 1024) (set cb : Bool) (src : MSrc) : Statement (.mbeatt p a set cb src) := Nat.le_of_ble_eq_true rfl
theorem mbeat2 (p : Fin 16) (a : Fin 1024) (set cb : Bool) (src : MSrc) : Statement (.mbeat2 p a set cb src) := Nat.le_of_ble_eq_true rfl
theorem mdrn (p : Fin 16) (a : Fin 1024) (q : Fin 4) (f : Fmt) (rm : Rm) : Statement (.mdrn p a q f rm) := Nat.le_of_ble_eq_true rfl
theorem mclr (p : Fin 16) (a : Fin 1024) (n : Fin 8) : Statement (.mclr p a n) := Nat.le_of_ble_eq_true rfl
theorem mgbeat (p : Fin 16) (a b : MSrc) : Statement (.mgbeat p a b) := Nat.le_of_ble_eq_true rfl
theorem mgdrn (p : Fin 16) (row : Fin 128) (q : Fin 4) : Statement (.mgdrn p row q) := Nat.le_of_ble_eq_true rfl
theorem mgclr (p : Fin 16) : Statement (.mgclr p) := Nat.le_of_ble_eq_true rfl
theorem aRowArrival (l : Loc) (row : Vec) (f : Fmt) : Statement (.aRowArrival l row f) := Nat.le_of_ble_eq_true rfl
theorem ldv (h : VHdr) (d : VDst) (xa : Fin 32) (off : BitVec 16) (pi : Bool) : Statement (.ldv h d xa off pi) := Nat.le_of_ble_eq_true rfl
theorem stv (h : VHdr) (s : MSrc) (xa : Fin 32) (off : BitVec 16) (pi : Bool) : Statement (.stv h s xa off pi) := Nat.le_of_ble_eq_true rfl
theorem ldvs (h : VHdr) (w : IW) (d : VDst) (xa xs : Fin 32) (off : BitVec 11) (pi : Bool) : Statement (.ldvs h w d xa xs off pi) := Nat.le_of_ble_eq_true rfl
theorem stvs (h : VHdr) (w : IW) (s : MSrc) (xa xs : Fin 32) (off : BitVec 11) (pi : Bool) : Statement (.stvs h w s xa xs off pi) := Nat.le_of_ble_eq_true rfl
theorem gath (h : VHdr) (w : IW) (d : Fin 64) (xa : Fin 32) (vi : Fin 64) : Statement (.gath h w d xa vi) := Nat.le_of_ble_eq_true rfl
theorem scat (h : VHdr) (w : IW) (s : Fin 64) (xa : Fin 32) (vi : Fin 64) : Statement (.scat h w s xa vi) := Nat.le_of_ble_eq_true rfl
theorem scata (h : VHdr) (s : Fin 64) (xa : Fin 32) (vi : Fin 64) : Statement (.scata h s xa vi) := Nat.le_of_ble_eq_true rfl
theorem atomv (h : VHdr) (op : Aop) (r : Fin 64) (xa : Fin 32) (vi : Fin 64) : Statement (.atomv h op r xa vi) := Nat.le_of_ble_eq_true rfl
theorem ldb (h : VHdr) (d : VDst) (xa : Fin 32) (off : BitVec 16) (pi : Bool) : Statement (.ldb h d xa off pi) := Nat.le_of_ble_eq_true rfl
theorem ldg (h : VHdr) (g : Fin 64) (xa : Fin 32) (off : BitVec 16) (pi : Bool) : Statement (.ldg h g xa off pi) := Nat.le_of_ble_eq_true rfl
theorem stg (h : VHdr) (g : Fin 64) (xa : Fin 32) (off : BitVec 16) (pi : Bool) : Statement (.stg h g xa off pi) := Nat.le_of_ble_eq_true rfl
theorem sbind (h : VHdr) (z : Fin 8) (xa : Fin 32) (off : BitVec 16) : Statement (.sbind h z xa off) := Nat.le_of_ble_eq_true rfl
theorem sunb (h : VHdr) (z : Fin 8) : Statement (.sunb h z) := Nat.le_of_ble_eq_true rfl
theorem qpop (h : VHdr) (d : Fin 64) (q : Fin 4) : Statement (.qpop h d q) := Nat.le_of_ble_eq_true rfl
theorem qst (h : VHdr) (q : Fin 4) (xa : Fin 32) (off : BitVec 16) (pi : Bool) : Statement (.qst h q xa off pi) := Nat.le_of_ble_eq_true rfl
theorem streamFetch (l : Loc) (z : Fin 8) : Statement (.streamFetch l z) := Nat.le_of_ble_eq_true rfl
theorem muleStreamTransfer (l : Loc) (z : Fin 8) : Statement (.muleStreamTransfer l z) := Nat.le_of_ble_eq_true rfl
theorem fsend (p : Fin 16) (dk : Dk) (xa xr : Fin 32) (cnt : Fin 4096) (stamp : BitVec 16) : Statement (.fsend p dk xa xr cnt stamp) := Nat.le_of_ble_eq_true rfl
theorem fsenda (p : Fin 16) (dk : Dk) (xa xr : Fin 32) (cnt : Fin 4096) (stamp : BitVec 16) : Statement (.fsenda p dk xa xr cnt stamp) := Nat.le_of_ble_eq_true rfl
theorem fsendq (p : Fin 16) (dk : Dk) (q : Fin 4) (xr : Fin 32) (cnt : Fin 16) (stamp : BitVec 16) : Statement (.fsendq p dk q xr cnt stamp) := Nat.le_of_ble_eq_true rfl
theorem frecv (p : Fin 16) (xa : Fin 32) (cnt : Fin 4096) : Statement (.frecv p xa cnt) := Nat.le_of_ble_eq_true rfl
theorem fld (p : Fin 16) (vd : Fin 64) (xa : Fin 32) : Statement (.fld p vd xa) := Nat.le_of_ble_eq_true rfl
theorem fst (p : Fin 16) (vs : Fin 64) (xa : Fin 32) : Statement (.fst p vs xa) := Nat.le_of_ble_eq_true rfl
theorem fatom (p : Fin 16) (op : Aop) (vr : Fin 64) (xa : Fin 32) : Statement (.fatom p op vr xa) := Nat.le_of_ble_eq_true rfl
theorem mcpy (h : FeHdr) : Statement (.mcpy h) := Nat.le_of_ble_eq_true rfl
theorem mbulk (h : FeHdr) (tag : Fin 64) : Statement (.mbulk h tag) := Nat.le_of_ble_eq_true rfl
theorem mclose (p : Fin 16) (st : Fin 4) (tag : Fin 64) : Statement (.mclose p st tag) := Nat.le_of_ble_eq_true rfl
theorem publ (p : Fin 16) (xa : Fin 32) : Statement (.publ p xa) := Nat.le_of_ble_eq_true rfl
theorem ttgo (p : Fin 16) (xa : Fin 32) (stamp : BitVec 16) : Statement (.ttgo p xa stamp) := Nat.le_of_ble_eq_true rfl
theorem upd (h : FeHdr) (xv : Fin 32) : Statement (.upd h xv) := Nat.le_of_ble_eq_true rfl
theorem norm (h : FeHdr) : Statement (.norm h) := Nat.le_of_ble_eq_true rfl
theorem fars (h : FeHdr) (port : Fin 2) : Statement (.fars h port) := Nat.le_of_ble_eq_true rfl
theorem farr (h : FeHdr) (port : Fin 2) : Statement (.farr h port) := Nat.le_of_ble_eq_true rfl
theorem cwait (p : Fin 16) (cc : Fin 256) (xv : Fin 32) : Statement (.cwait p cc xv) := Nat.le_of_ble_eq_true rfl
theorem cinc (p : Fin 16) (cc : Fin 256) (imm : BitVec 16) : Statement (.cinc p cc imm) := Nat.le_of_ble_eq_true rfl
theorem fence (p : Fin 16) (kind : FKind) (scope : FScope) : Statement (.fence p kind scope) := Nat.le_of_ble_eq_true rfl
theorem psend (p : Fin 16) (ch : Fin 256) (vr : Fin 64) (g : Bool) (stamp : BitVec 16) : Statement (.psend p ch vr g stamp) := Nat.le_of_ble_eq_true rfl
theorem precv (p : Fin 16) (ch : Fin 256) (vr : Fin 64) (g : Bool) : Statement (.precv p ch vr g) := Nat.le_of_ble_eq_true rfl
theorem rpush (p : Fin 16) (va : Fin 64) (g : Bool) : Statement (.rpush p va g) := Nat.le_of_ble_eq_true rfl
theorem rpop (p : Fin 16) (vd : Fin 64) (g : Bool) : Statement (.rpop p vd g) := Nat.le_of_ble_eq_true rfl
theorem rspill (p : Fin 16) (n : Fin 4096) : Statement (.rspill p n) := Nat.le_of_ble_eq_true rfl
theorem rfill (p : Fin 16) (n : Fin 4096) : Statement (.rfill p n) := Nat.le_of_ble_eq_true rfl
theorem rdrop (p : Fin 16) (n : Fin 16) : Statement (.rdrop p n) := Nat.le_of_ble_eq_true rfl
theorem blkBegin (p : Fin 16) (n : Fin 4096) : Statement (.blkBegin p n) := Nat.le_of_ble_eq_true rfl
theorem blkEnd (p : Fin 16) (n : Fin 4096) : Statement (.blkEnd p n) := Nat.le_of_ble_eq_true rfl
theorem blkRev (p : Fin 16) (n : Fin 4096) : Statement (.blkRev p n) := Nat.le_of_ble_eq_true rfl
theorem eventFlagSet (t : TeamRef) (ix : Nat) (ev : Fin 16) : Statement (.eventFlagSet t ix ev) := Nat.le_of_ble_eq_true rfl
theorem barrierComplete (t : TeamRef) (b : Fin 4) : Statement (.barrierComplete t b) := Nat.le_of_ble_eq_true rfl
theorem cincApply (die : Nat) (cc : Nat) (n : Nat) : Statement (.cincApply die cc n) := Nat.le_of_ble_eq_true rfl
theorem muleCommandComplete (die : Nat) (id : Nat) : Statement (.muleCommandComplete die id) := Nat.le_of_ble_eq_true rfl
theorem zeroCountCompletion (die : Nat) (id : Nat) : Statement (.zeroCountCompletion die id) := Nat.le_of_ble_eq_true rfl
theorem mbulkBlock (die : Nat) (id : Nat) (k : Nat) : Statement (.mbulkBlock die id k) := Nat.le_of_ble_eq_true rfl
theorem mcloseRelease (die : Nat) (stack tag : Nat) : Statement (.mcloseRelease die stack tag) := Nat.le_of_ble_eq_true rfl
theorem segmentTransferComplete (l : Loc) (seg : Nat) : Statement (.segmentTransferComplete l seg) := Nat.le_of_ble_eq_true rfl
theorem cxlFrameMove (l : Loc) (frame : Nat) (toCxl : Bool) : Statement (.cxlFrameMove l frame toCxl) := Nat.le_of_ble_eq_true rfl
theorem fabricDeparture (t : Transfer) : Statement (.fabricDeparture t) := Nat.le_of_ble_eq_true rfl
theorem routerForward (die : Nat) (link : Nat) (t : Transfer) : Statement (.routerForward die link t) := Nat.le_of_ble_eq_true rfl
theorem fabricWordArrival (w : FabWord) : Statement (.fabricWordArrival w) := Nat.le_of_ble_eq_true rfl
theorem countedFlitArrival (c : Counted) (intact : Bool) : Statement (.countedFlitArrival c intact) := Nat.le_of_ble_eq_true rfl
theorem pairedVectorArrival (v : PairVec) : Statement (.pairedVectorArrival v) := Nat.le_of_ble_eq_true rfl
theorem apertureRequest (r : ApReq) : Statement (.apertureRequest r) := Nat.le_of_ble_eq_true rfl
theorem killNotice (die : Nat) (asid : Nat) (launch : Nat) : Statement (.killNotice die asid launch) := Nat.le_of_ble_eq_true rfl
theorem linkTraining (die : Nat) (link : Nat) (lat : Nat) : Statement (.linkTraining die link lat) := Nat.le_of_ble_eq_true rfl
theorem linkDegrade (die : Nat) (link : Nat) (lat : Nat) : Statement (.linkDegrade die link lat) := Nat.le_of_ble_eq_true rfl
theorem linkDown (die : Nat) (link : Nat) : Statement (.linkDown die link) := Nat.le_of_ble_eq_true rfl
theorem relaunch (launch : Nat) : Statement (.relaunch launch) := Nat.le_of_ble_eq_true rfl
theorem faultPropagation (launch : Nat) : Statement (.faultPropagation launch) := Nat.le_of_ble_eq_true rfl
theorem beaconArrival (die : Nat) (link : Nat) (b : Beacon) : Statement (.beaconArrival die link b) := Nat.le_of_ble_eq_true rfl
theorem groupFormation (x y z : Nat) : Statement (.groupFormation x y z) := Nat.le_of_ble_eq_true rfl
theorem mapRecordReceive (die : Nat) (r : MapRec) : Statement (.mapRecordReceive die r) := Nat.le_of_ble_eq_true rfl
theorem ptpSyncReceive (die : Nat) (m : PtpSync) : Statement (.ptpSyncReceive die m) := Nat.le_of_ble_eq_true rfl
theorem readinessSend (die : Nat) (gid : Nat) : Statement (.readinessSend die gid) := Nat.le_of_ble_eq_true rfl
theorem readinessReceive (die : Nat) (gid : Nat) (member : Nat) (bits : Nat) (free : Bool) : Statement (.readinessReceive die gid member bits free) := Nat.le_of_ble_eq_true rfl
theorem gangDecision (die : Nat) (gid : Nat) : Statement (.gangDecision die gid) := Nat.le_of_ble_eq_true rfl
theorem abortReceive (die : Nat) (gid : Nat) : Statement (.abortReceive die gid) := Nat.le_of_ble_eq_true rfl
theorem gangStart (die : Nat) (gid : Nat) : Statement (.gangStart die gid) := Nat.le_of_ble_eq_true rfl
theorem gangRetry (gid : Nat) : Statement (.gangRetry gid) := Nat.le_of_ble_eq_true rfl
theorem crossGroupPrepare (gid : Nat) (t : Nat) : Statement (.crossGroupPrepare gid t) := Nat.le_of_ble_eq_true rfl
theorem crossGroupDecision (gid : Nat) : Statement (.crossGroupDecision gid) := Nat.le_of_ble_eq_true rfl
theorem commitDeadline (gid : Nat) : Statement (.commitDeadline gid) := Nat.le_of_ble_eq_true rfl
theorem drainHorizon (die : Nat) (gid : Nat) : Statement (.drainHorizon die gid) := Nat.le_of_ble_eq_true rfl
theorem drainDeadline (t : TeamRef) : Statement (.drainDeadline t) := Nat.le_of_ble_eq_true rfl
theorem clusterStart (t : TeamRef) : Statement (.clusterStart t) := Nat.le_of_ble_eq_true rfl
theorem teamResume (t : TeamRef) : Statement (.teamResume t) := Nat.le_of_ble_eq_true rfl
theorem launchComplete (launch : Nat) : Statement (.launchComplete launch) := Nat.le_of_ble_eq_true rfl
theorem segmentReplay (launch : Nat) : Statement (.segmentReplay launch) := Nat.le_of_ble_eq_true rfl
theorem uncorrectableSramError (a : SramLoc) : Statement (.uncorrectableSramError a) := Nat.le_of_ble_eq_true rfl
theorem uncorrectableMemoryError (die : Nat) (dpa : Nat) (unit : Nat) : Statement (.uncorrectableMemoryError die dpa unit) := Nat.le_of_ble_eq_true rfl
theorem pseudoChannelRetirement (die : Nat) (stack pc : Nat) : Statement (.pseudoChannelRetirement die stack pc) := Nat.le_of_ble_eq_true rfl
theorem longhaulFrameReceive (f : LhFrame) : Statement (.longhaulFrameReceive f) := Nat.le_of_ble_eq_true rfl
theorem longhaulAckSend (die : Nat) (port ep : Nat) : Statement (.longhaulAckSend die port ep) := Nat.le_of_ble_eq_true rfl
theorem longhaulAckReceive (die : Nat) (port ep : Nat) (cum : Nat) (bitmap : Nat) : Statement (.longhaulAckReceive die port ep cum bitmap) := Nat.le_of_ble_eq_true rfl
theorem longhaulResendTimeout (die : Nat) (port ep : Nat) (seq : Nat) : Statement (.longhaulResendTimeout die port ep seq) := Nat.le_of_ble_eq_true rfl
theorem endpointLoss (die : Nat) (port ep : Nat) : Statement (.endpointLoss die port ep) := Nat.le_of_ble_eq_true rfl
theorem hostDoorbell (tail : Nat) : Statement (.hostDoorbell tail) := Nat.le_of_ble_eq_true rfl
theorem registerWrite (off : Nat) (val : Word) : Statement (.registerWrite off val) := Nat.le_of_ble_eq_true rfl
theorem junctionWarm (die : Nat) (temp : Int) : Statement (.junctionWarm die temp) := Nat.le_of_ble_eq_true rfl
theorem junctionHot (die : Nat) (temp : Int) : Statement (.junctionHot die temp) := Nat.le_of_ble_eq_true rfl
theorem junctionCool (die : Nat) (temp : Int) : Statement (.junctionCool die temp) := Nat.le_of_ble_eq_true rfl
theorem junctionTrip (die : Nat) (temp : Int) : Statement (.junctionTrip die temp) := Nat.le_of_ble_eq_true rfl
theorem gangProposalReceive (die : Nat) (gid : Nat) (c : Nat) : Statement (.gangProposalReceive die gid c) := Nat.le_of_ble_eq_true rfl
theorem crossGroupCommitReceive (gid : Nat) (commit : Bool) : Statement (.crossGroupCommitReceive gid commit) := Nat.le_of_ble_eq_true rfl
theorem saveRecordWritten (l : Loc) (team : Nat) : Statement (.saveRecordWritten l team) := Nat.le_of_ble_eq_true rfl
theorem patchImageLoad (digestOk sigOk : Bool) (digest : BitVec 256) : Statement (.patchImageLoad digestOk sigOk digest) := Nat.le_of_ble_eq_true rfl
theorem sNop : Statement (.sNop) := Nat.le_of_ble_eq_true rfl
theorem xbNop : Statement (.xbNop) := Nat.le_of_ble_eq_true rfl
theorem vNop : Statement (.vNop) := Nat.le_of_ble_eq_true rfl
theorem mNop : Statement (.mNop) := Nat.le_of_ble_eq_true rfl
theorem lsNop : Statement (.lsNop) := Nat.le_of_ble_eq_true rfl
theorem fbNop : Statement (.fbNop) := Nat.le_of_ble_eq_true rfl
theorem rpNop : Statement (.rpNop) := Nat.le_of_ble_eq_true rfl
theorem bundleIssue : Statement (.bundleIssue) := Nat.le_of_ble_eq_true rfl
theorem stallEnd : Statement (.stallEnd) := Nat.le_of_ble_eq_true rfl
theorem reversePosition : Statement (.reversePosition) := Nat.le_of_ble_eq_true rfl
theorem replayPosition : Statement (.replayPosition) := Nat.le_of_ble_eq_true rfl
theorem texitHoldEnd : Statement (.texitHoldEnd) := Nat.le_of_ble_eq_true rfl
theorem alignWaitEnd : Statement (.alignWaitEnd) := Nat.le_of_ble_eq_true rfl
theorem wfeWake : Statement (.wfeWake) := Nat.le_of_ble_eq_true rfl
theorem cwaitSatisfied : Statement (.cwaitSatisfied) := Nat.le_of_ble_eq_true rfl
theorem fenceComplete : Statement (.fenceComplete) := Nat.le_of_ble_eq_true rfl
theorem commandAcceptance : Statement (.commandAcceptance) := Nat.le_of_ble_eq_true rfl
theorem residualControllerSpill : Statement (.residualControllerSpill) := Nat.le_of_ble_eq_true rfl
theorem residualControllerFill : Statement (.residualControllerFill) := Nat.le_of_ble_eq_true rfl
theorem gangStop : Statement (.gangStop) := Nat.le_of_ble_eq_true rfl
theorem taskFirstBundle : Statement (.taskFirstBundle) := Nat.le_of_ble_eq_true rfl
theorem taskStop : Statement (.taskStop) := Nat.le_of_ble_eq_true rfl
theorem saveStart : Statement (.saveStart) := Nat.le_of_ble_eq_true rfl
theorem taskRetire : Statement (.taskRetire) := Nat.le_of_ble_eq_true rfl
theorem coreRetirement : Statement (.coreRetirement) := Nat.le_of_ble_eq_true rfl
theorem beaconSend : Statement (.beaconSend) := Nat.le_of_ble_eq_true rfl
theorem mapRecordIssue : Statement (.mapRecordIssue) := Nat.le_of_ble_eq_true rfl
theorem ptpHoldover : Statement (.ptpHoldover) := Nat.le_of_ble_eq_true rfl
theorem ppsOutEdge : Statement (.ppsOutEdge) := Nat.le_of_ble_eq_true rfl
theorem ppsInEdge : Statement (.ppsInEdge) := Nat.le_of_ble_eq_true rfl
theorem referenceLoss : Statement (.referenceLoss) := Nat.le_of_ble_eq_true rfl
theorem oxCommandStart : Statement (.oxCommandStart) := Nat.le_of_ble_eq_true rfl
theorem normResultWrite : Statement (.normResultWrite) := Nat.le_of_ble_eq_true rfl
theorem updNormGate : Statement (.updNormGate) := Nat.le_of_ble_eq_true rfl
theorem updTileStart : Statement (.updTileStart) := Nat.le_of_ble_eq_true rfl
theorem updTilePublish : Statement (.updTilePublish) := Nat.le_of_ble_eq_true rfl
theorem updCompletion : Statement (.updCompletion) := Nat.le_of_ble_eq_true rfl
theorem refreshWindow : Statement (.refreshWindow) := Nat.le_of_ble_eq_true rfl
theorem placementPass : Statement (.placementPass) := Nat.le_of_ble_eq_true rfl
theorem scrubStep : Statement (.scrubStep) := Nat.le_of_ble_eq_true rfl
theorem walkerDeparture : Statement (.walkerDeparture) := Nat.le_of_ble_eq_true rfl
theorem undefinedCommand : Statement (.undefinedCommand) := Nat.le_of_ble_eq_true rfl
theorem contextCreate : Statement (.contextCreate) := Nat.le_of_ble_eq_true rfl
theorem contextDestroy : Statement (.contextDestroy) := Nat.le_of_ble_eq_true rfl
theorem contextParameters : Statement (.contextParameters) := Nat.le_of_ble_eq_true rfl
theorem map : Statement (.map) := Nat.le_of_ble_eq_true rfl
theorem unmap : Statement (.unmap) := Nat.le_of_ble_eq_true rfl
theorem protect : Statement (.protect) := Nat.le_of_ble_eq_true rfl
theorem pin : Statement (.pin) := Nat.le_of_ble_eq_true rfl
theorem unpin : Statement (.unpin) := Nat.le_of_ble_eq_true rfl
theorem migrate : Statement (.migrate) := Nat.le_of_ble_eq_true rfl
theorem apertureWrite : Statement (.apertureWrite) := Nat.le_of_ble_eq_true rfl
theorem apertureGrant : Statement (.apertureGrant) := Nat.le_of_ble_eq_true rfl
theorem shadowMapWrite : Statement (.shadowMapWrite) := Nat.le_of_ble_eq_true rfl
theorem shadowMapInvalidate : Statement (.shadowMapInvalidate) := Nat.le_of_ble_eq_true rfl
theorem handle : Statement (.handle) := Nat.le_of_ble_eq_true rfl
theorem drop : Statement (.drop) := Nat.le_of_ble_eq_true rfl
theorem imageLoad : Statement (.imageLoad) := Nat.le_of_ble_eq_true rfl
theorem timetableLoad : Statement (.timetableLoad) := Nat.le_of_ble_eq_true rfl
theorem timetableFree : Statement (.timetableFree) := Nat.le_of_ble_eq_true rfl
theorem counterAllocate : Statement (.counterAllocate) := Nat.le_of_ble_eq_true rfl
theorem counterFree : Statement (.counterFree) := Nat.le_of_ble_eq_true rfl
theorem enqueueLaunch : Statement (.enqueueLaunch) := Nat.le_of_ble_eq_true rfl
theorem gangProposalLaunch : Statement (.gangProposalLaunch) := Nat.le_of_ble_eq_true rfl
theorem gangProposalPreemption : Statement (.gangProposalPreemption) := Nat.le_of_ble_eq_true rfl
theorem gangProposalResume : Statement (.gangProposalResume) := Nat.le_of_ble_eq_true rfl
theorem segmentMark : Statement (.segmentMark) := Nat.le_of_ble_eq_true rfl
theorem faultResolveResume : Statement (.faultResolveResume) := Nat.le_of_ble_eq_true rfl
theorem faultResolveEnd : Statement (.faultResolveEnd) := Nat.le_of_ble_eq_true rfl
theorem cancelLaunch : Statement (.cancelLaunch) := Nat.le_of_ble_eq_true rfl
theorem recordRead : Statement (.recordRead) := Nat.le_of_ble_eq_true rfl
theorem health : Statement (.health) := Nat.le_of_ble_eq_true rfl
theorem keyInstall : Statement (.keyInstall) := Nat.le_of_ble_eq_true rfl
theorem endpointWrite : Statement (.endpointWrite) := Nat.le_of_ble_eq_true rfl
theorem endpointInvalidate : Statement (.endpointInvalidate) := Nat.le_of_ble_eq_true rfl
theorem linkRetrain : Statement (.linkRetrain) := Nat.le_of_ble_eq_true rfl
theorem linkTakeDown : Statement (.linkTakeDown) := Nat.le_of_ble_eq_true rfl
theorem cxlConfiguration : Statement (.cxlConfiguration) := Nat.le_of_ble_eq_true rfl
theorem attest : Statement (.attest) := Nat.le_of_ble_eq_true rfl
theorem powerOn : Statement (.powerOn) := Nat.le_of_ble_eq_true rfl
theorem functionLevelReset : Statement (.functionLevelReset) := Nat.le_of_ble_eq_true rfl
theorem conventionalReset : Statement (.conventionalReset) := Nat.le_of_ble_eq_true rfl

end Sys2Proof.Laws.F
end

