-- ==== Sys2Proof/Laws/Saves.lean ====
section
/-! SUPPORT. What writing a save record does to main memory. -/

namespace Sys2Proof.Machine

/-- A record's blocks keep the canonical form (R301). -/
theorem wf_putRecord {m : Mem} (base : Nat) (ks : List Nat) (l : List Byte) (h : Memory.wf m = true) :
    Memory.wf (putRecord m base ks l) = true := by
  induction ks generalizing m l with
  | nil => exact h
  | cons b r ih => exact ih _ (Memory.wf_putBytes _ _ h)

end Sys2Proof.Machine
end

