-- ==== Sys2Proof/Tests/Slice0.lean ====
section
/-! SUPPORT. The tests of this package: an ill-formed term for every check of `Instr.wf`, words written out bit by bit from
the encoding tables of chapter 02, a few single steps with results taken from the manual, and for every obligation with
hypotheses a concrete state that meets them, clause by clause. -/

open Sys2Proof
open Sys2Proof.Machine

namespace Sys2Proof.Tests

set_option Elab.async false

/-! ### Ill-formed terms (R36, R43 to R56, R124, R235) -/

/-- Chapter 02: the terms that no word may stand for. A loop index above level 5, a write of p0 to p3, a loop level above 5, a
tile request below v32, a write of m0. -/
theorem test_wf_scalar :
    ([.add 0 1 2 (.li 6), .addi 0 1 (.li 31) 0, .cmp 0 3 1 (.x 2) .eq, .cmp 0 4 1 (.li 6) .eq, .cmpi 0 3 (.x 1) .eq 0, .pand 0 0 1 2,
      .por 0 3 1 2, .pxor 0 2 1 2, .pnot 0 1 1, .loop 0 6 1 2 0, .loopi 0 7 1 0, .ntreq 0 31, .lds 0 1 (.li 6) 0, .sts 0 1 (.li 7) 0,
      .xpv 0 0, .xvp 3 1] : List Instr).map Instr.wf = List.replicate 16 false := by decide

/-- R49, R124, R128 to R137: a broadcast as va, a stream as vb, a pushed stream beside a broadcast, a lane or a rotation outside
the lane count, ORD of integers, a write of m0, a pack to 32 bits, an unpack to 8 bits, a partition above v63. -/
theorem test_wf_vector :
    ([.vadd ⟨0, 0⟩ .f32 (.v 1) .bcast (.v 2), .vadd ⟨0, 0⟩ .f32 (.v 1) (.v 2) (.z 0), .vadd ⟨0, 0⟩ .f32 (.z 0) (.v 2) .bcast,
      .vabs ⟨0, 0⟩ .f32 (.v 1) .bcast, .vcmp ⟨0, 0⟩ .i32 .ord 1 (.v 1) (.v 2), .vcmp ⟨0, 0⟩ .i32 .unord 1 (.v 1) (.v 2),
      .vcmp ⟨0, 0⟩ .i32 .eq 0 (.v 1) (.v 2), .vsplat ⟨0, 0⟩ .w32 (.v 1) (.v 2) 128, .vrot ⟨0, 0⟩ .w32 (.v 1) (.v 2) 128,
      .vpack ⟨0, 0⟩ .w32 false (.v 1) (.v 2) (.v 3), .vunpk ⟨0, 0⟩ .w8 false (.v 1) (.v 2), .part ⟨0, 0⟩ 60 (.v 1) 0,
      .mand ⟨0, 0⟩ 0 1 2, .mor ⟨0, 0⟩ 0 1 2, .mnot ⟨0, 0⟩ 0 1] : List Instr).map Instr.wf = List.replicate 15 false := by decide

/-- R50, R51, R54, R55, R161, R163, R235: an int32 activation format, an odd row of MBEAT2, a rounding mode with a 32-bit format,
rows above a1023, one stream twice, a host or remote fence of a scope without meaning, a count of 0. -/
theorem test_wf_units :
    ([.mafmt 0 .int32, .mbeat2 0 1 false false (.v 0), .mdrn 0 0 0 .int32 .sat, .mdrn 0 0 0 .f32 .rtz, .mclr 0 1020 4,
      .mgbeat 0 (.z 1) (.z 1), .fence 0 .host .module, .fence 0 .rem .die, .rspill 0 0, .rfill 0 0, .rdrop 0 0] : List Instr).map
        Instr.wf = List.replicate 11 false := by decide

/-- The neighbours of those terms are well formed. -/
theorem test_wf_legal :
    ([.add 0 1 2 (.li 5), .cmp 0 4 1 (.x 2) .eq, .loop 0 5 1 2 0, .ntreq 0 32, .xpv 1 0, .xvp 4 1,
      .vadd ⟨0, 0⟩ .f32 (.z 0) (.z 1) (.v 2), .vadd ⟨0, 0⟩ .f32 (.v 0) (.z 1) .bcast, .vsplat ⟨0, 0⟩ .w8 (.v 1) (.v 2) 255,
      .vrot ⟨0, 0⟩ .w32 (.v 1) (.v 2) 127, .part ⟨0, 0⟩ 59 (.v 1) 3, .mbeat2 0 1022 false false (.v 0), .mclr 0 1020 3,
      .mgbeat 0 (.z 1) (.z 2), .fence 0 .host .system, .fence 0 .rem .module, .rdrop 0 15] : List Instr).all Instr.wf = true := by
  decide

/-! ### Words written out field by field (R45 to R56) -/

/-- LI x3, -2: OP 0x09, PR 0, rd 3, 0, imm16; LCH x7, 0x1234, 2: OP 0x0C + 2; CMP.ltu p5, x9, li(3): cc 4, LB 1; CMPI.gt p4, x1, -128; PXOR p15, p6, p7; SARI x2, li(1), 63; SEXT x1, x2, 32 bits: FN 0x13, rb 2. -/
theorem test_decode_scalar :
    decodeSlot .s0 0b00100100000001101111111111111110 = .ok (.li 0 3 (-2)) ∧
    decodeSlot .s0 0b00111000000011100001001000110100 = .ok (.lch 0 7 2 0x1234) ∧
    decodeSlot .s0 0b01000000000101010010001110100000 = .ok (.cmp 0 5 9 (.li 3) .ltu) ∧
    decodeSlot .s0 0b01000100000100000010011110000000 = .ok (.cmpi 0 4 (.x 1) .gt (-128)) ∧
    decodeSlot .s0 0b01010000001111011001110000000000 = .ok (.pxor 0 15 6 7) ∧
    decodeSlot .s0 0b00100000000001000001100000111111 = .ok (.sari 0 2 (.li 1) 63) ∧
    decodeSlot .s0 0b00000100000000100010000100010011 = .ok (.sext 0 1 2 .w32) := by decide

/-- BR -1; BRP p9, 5 under p4; JMP x30; TRAP 0xBEEF; LOOP 2, x4, x5, -256; LOOPI 5, 8191, -32; SEV 3, x6; BAR 2; RDC x1, 0x059; WRC 0x023, x2. -/
theorem test_decode_control :
    decodeSlot .s0 0b01100000001111111111111111111111 = .ok (.br 0 (-1)) ∧
    decodeSlot .s0 0b01100101001001000000000000000101 = .ok (.brp 4 9 5) ∧
    decodeSlot .s0 0b01101000000000011110000000000000 = .ok (.jmp 0 30) ∧
    decodeSlot .s0 0b01111000000000001011111011101111 = .ok (.trap 0 0xBEEF) ∧
    decodeSlot .s0 0b10000000000100010000101100000000 = .ok (.loop 0 2 4 5 (-256)) ∧
    decodeSlot .s0 0b10000100001011111111111111100000 = .ok (.loopi 0 5 8191 (-32)) ∧
    decodeSlot .s0 0b10010000000011001100000000000000 = .ok (.sev 0 3 6) ∧
    decodeSlot .s0 0b10010100001000000000000000000000 = .ok (.bar 0 2) ∧
    decodeSlot .s0 0b10100100000000100000000001011001 = .ok (.rdc 0 1 0x059) ∧
    decodeSlot .s0 0b10101000000000000010000000100011 = .ok (.wrc 0 0x023 2) := by decide

/-- STS x3, [x4 - 8]; NTREQ v32. -/
theorem test_decode_stores_s1 :
    decodeSlot .s1 0b11000100000001100100011111111111 = .ok (.sts 0 3 (.x 4) (-1)) ∧
    decodeSlot .s1 0b10001000001000000000000000000000 = .ok (.ntreq 0 32) := by decide

/-- XPV m1, p2; XVP p4, m7. -/
theorem test_decode_xb :
    decodeSlot .xb 0b0110010010000000 = .ok (.xpv 1 2) ∧
    decodeSlot .xb 0b1000100111000000 = .ok (.xvp 4 7) := by decide

/-- VFMA.f16 v1, z2, broadcast, v4 under p3 and m5: SK 3; VIMIN.u8 z1, v2, v3: SK 4, width code 2, MOD[3] 1; VCMP.ge int32 m3, v4, v5: MOD 3, cc 5; VLI.hi v9, 0x3F80; VCVT v1, v2, fp8.p4 to bf16, saturating: vb 0x14, vc 1, MOD 2; VSCL.f32 v1, v2, -128; VSCAN.min f32 v1, v2; VDROP.f32 v1, v2, key v3, threshold 17; MCNT v5, m6. -/
theorem test_decode_vector :
    decodeSlot .v1 0b000001000011101000001000010000000000100011100000 = .ok (.vfma ⟨3, 5⟩ .f16 (.v 1) (.z 2) .bcast 4) ∧
    decodeSlot .v1 0b001001000000000000001000010000011000000100101000 = .ok (.vimin ⟨0, 0⟩ .w8 true (.z 1) (.v 2) (.v 3)) ∧
    decodeSlot .v1 0b001100000000000000011000100000101000000000110101 = .ok (.vcmp ⟨0, 0⟩ .i32 .ge 3 (.v 4) (.v 5)) ∧
    decodeSlot .v1 0b001101000000000001001000011111110000000000100000 = .ok (.vli ⟨0, 0⟩ .hi (.v 9) 0x3F80) ∧
    decodeSlot .v1 0b010001000000000000001000010010100000001000000010 = .ok (.vcvt ⟨0, 0⟩ (.v 1) (.v 2) (.fp8 3) .bf16 .sat) ∧
    decodeSlot .v1 0b010001010000000000001000010000010000000000000000 = .ok (.vscl ⟨0, 0⟩ .f32 (.v 1) (.v 2) (-128)) ∧
    decodeSlot .v1 0b010100010000000000001000010000000000000000000010 = .ok (.vscan ⟨0, 0⟩ .f32 .min (.v 1) (.v 2)) ∧
    decodeSlot .v1 0b011000100000000000001000010000011010001000000000 = .ok (.vdrop ⟨0, 0⟩ .f32 (.v 1) (.v 2) 3 17) ∧
    decodeSlot .v1 0b011100110000000000101000110000000000000000000000 = .ok (.mcnt ⟨0, 0⟩ 5 6) := by decide

/-- MWLD.W 127, z7: S 1; MAFMT ufp8.p7; MDRN q3, a1023, bf16, toward zero; MCLR a8, 8 rows; MGBEAT z1, v2; MGDRN q1, row 100. -/
theorem test_decode_matrix :
    decodeSlot .m 0b00010000011111111000111000000000 = .ok (.mwldW 0 127 (.z 7)) ∧
    decodeSlot .m 0b00011000011011100000000000000000 = .ok (.mafmt 0 (.ufp8 6)) ∧
    decodeSlot .m 0b00111000011111111111100000101000 = .ok (.mdrn 0 1023 3 .bf16 .rtz) ∧
    decodeSlot .m 0b01000000000000010001110000000000 = .ok (.mclr 0 8 7) ∧
    decodeSlot .m 0b01001000000000100001010000000000 = .ok (.mgbeat 0 (.z 1) (.v 2)) ∧
    decodeSlot .m 0b01010000011001000100000000000000 = .ok (.mgdrn 0 100 1) := by decide

/-- STVS z5, [x1 - 64 KiB], x2, 16-bit, post-increment; ATOMV.max.f v1, [x2], v3: AOP 2; STG g4, [x5 + 64]; SBIND z3, [x9]; QST q2, [x1 + 64], post-increment. -/
theorem test_decode_ls :
    decodeSlot .ls 0b000100000000000010100001000101000000000011010000 = .ok (.stvs ⟨0, 0⟩ .w16 (.z 5) 1 2 (-1024) true) ∧
    decodeSlot .ls 0b001000000000000000100010000011010000000000000000 = .ok (.atomv ⟨0, 0⟩ .maxf 1 2 3) ∧
    decodeSlot .ls 0b001011000000000010000101000000000000000100000000 = .ok (.stg ⟨0, 0⟩ 4 5 1 false) ∧
    decodeSlot .ls 0b001100000000001100001001000000000000000000000000 = .ok (.sbind ⟨0, 0⟩ 3 9 0) ∧
    decodeSlot .ls 0b001111000000010000000001000000000000000110000000 = .ok (.qst ⟨0, 0⟩ 2 1 1 true) := by decide

/-- FSENDQ across xn, q3 to x2, 16 entries, stamp 9: DK 1; FATOM.xchg v1, [x2]: AOP 4; MBULK x1, x2, x3, cc4, tag 63; MCLOSE stack 3, tag 5; UPD x1, x2, x3, cc255, xv x17; FARR port 1; CWAIT cc7, x8; FENCE.REM system; PSEND.G ch 9, g1, stamp 3. -/
theorem test_decode_fb :
    decodeSlot .fb 0b0000110000001110000001000000000000001111000000000000100100000000 = .ok (.fsendq 0 (.link 1) 3 2 15 9) ∧
    decodeSlot .fb 0b0001110000000001000101000000000000000000000000000000000000000000 = .ok (.fatom 0 .xchg 1 2) ∧
    decodeSlot .fb 0b0010010000000010001000011000001001111110000000000000000000000000 = .ok (.mbulk ⟨0, 1, 2, 3, 4⟩ 63) ∧
    decodeSlot .fb 0b0010100000000000000000000000000000001011100000000000000000000000 = .ok (.mclose 0 3 5) ∧
    decodeSlot .fb 0b0011010000000010001000011111111111000100000000000000000000000000 = .ok (.upd ⟨0, 1, 2, 3, 255⟩ 17) ∧
    decodeSlot .fb 0b0100000000000010001000011000000001000000000000000000000000000000 = .ok (.farr ⟨0, 1, 2, 3, 0⟩ 1) ∧
    decodeSlot .fb 0b0100010000010000000000000000001110000000000000000000000000000000 = .ok (.cwait 0 7 8) ∧
    decodeSlot .fb 0b0100110000011101000000000000000000000000000000000000000000000000 = .ok (.fence 0 .rem .system) ∧
    decodeSlot .fb 0b0101000000000010010000011000000000000000000000000000001100000000 = .ok (.psend 0 9 1 true 3) := by decide

/-- RPUSH g5: F 1; RDROP 15; BLK.REV 4095. -/
theorem test_decode_rp :
    decodeSlot .rp 0b00010000000101100000000000000000 = .ok (.rpush 0 5 true) ∧
    decodeSlot .rp 0b01010000111100000000000000000000 = .ok (.rdrop 0 15) ∧
    decodeSlot .rp 0b10000000111111111111000000000000 = .ok (.blkRev 0 4095) := by decide

/-- Chapter 02, "A bundle encoded": the 48 bytes of the manual decode to its three operations, with the ports it gives. -/
theorem test_manual_bundle :
    decodeBundle 0x800e600080000000000000000000000040008418800000000000000080a504000032481 =
      .ok { hdr := { ck := true, eq := false, le := false, lv := 0, rt := false, ports := [1, 1, 1, 3, 0, 0], bc := false, bs := 0 }
            ops := [(.s0, .addi 0 5 (.x 5) 64), (.s1, .sNop), (.xb, .xbNop), (.v0, .vfma ⟨0, 0⟩ .f32 (.v 1) (.v 2) (.v 3) 4), (.v1, .vNop),
              (.m, .mNop), (.ls, .stv ⟨0, 0⟩ (.v 7) 6 8 false), (.fb, .fbNop), (.rp, .rpNop)] } := by decide

/-- R36, R446: header bit 31, a NOP with a predicate, the undefined S opcode 0x0A, LDS in S0, two sequencer operations, a port
without its reader, LV 6, and a broadcast without BC are illegal. -/
theorem test_illegal_bundles :
    decodeBundle 0x80000000 = .error .reserved ∧ decodeBundle (0x00400000 * 2 ^ 32) = .error .reserved ∧
    decodeBundle (0x28000000 * 2 ^ 32) = .error .undefined ∧ decodeBundle (0xC0000000 * 2 ^ 32) = .error .s0Access ∧
    decodeBundle (0x60000000 * 2 ^ 32 + 0x60000000 * 2 ^ 64) = .error .twoSequencer ∧ decodeBundle 0x80 = .error .ports ∧
    decodeBundle 0x34 = .error .limit ∧ decodeBundle (0x10008400080 * 2 ^ 112 + 0x80) = .error .broadcast := by decide

/-- Chapter 03, the conversions "worked to the bit": code and event of each (events: OVF 4, UNF 8, ISAT 16). -/
theorem test_manual_conversions :
    cvtFmt .f32 (.fp8 3) .rne 0x3E99999A = (0x32, 0) ∧
    cvtFmt .f32 (.fp8 3) .rtz 0x3E99999A = (0x31, 0) ∧
    cvtFmt .f32 (.fp8 3) .rne 0xBE99999A = (0xB2, 0) ∧
    cvtFmt .f32 (.fp8 3) .rne 0x3AC49BA6 = (0x02, 8) ∧
    cvtFmt .f32 (.fp8 3) .rne 0xB9D1B717 = (0x00, 8) ∧
    cvtFmt .f32 (.fp8inf 3) .rne 0x43660000 = (0x7E, 0) ∧
    cvtFmt .f32 (.fp8 3) .rne 0x437A0000 = (0x7F, 4) ∧
    cvtFmt .f32 (.fp8inf 3) .rne 0x437A0000 = (0x7F, 4) ∧
    cvtFmt .f32 (.fp8inf 3) .rtz 0x437A0000 = (0x7E, 4) ∧
    cvtFmt .f32 (.fp8inf 3) .sat 0x437A0000 = (0x7E, 4) ∧
    cvtFmt .f32 (.ufp8 3) .rne 0x40400000 = (0x8C, 0) ∧
    cvtFmt .f32 (.ufp8 3) .rne 0xC0400000 = (0x00, 16) ∧
    cvtFmt .f32 .int8 .rne 0xC0600000 = (0xFC, 0) ∧
    cvtFmt .f32 .int8 .rtz 0xC0600000 = (0xFD, 0) ∧
    cvtFmt .f32 .int8 .rne 0x4348B333 = (0x7F, 16) := by decide

/-- R68: the largest finite values of fp8.p3, fp8.p3.inf, ufp8.p3 and of fp8.p7, 127/64, converted to f32. -/
theorem test_manual_largest :
    toF32 (.fp8 2) 0x7F = 0x47600000 ∧ toF32 (.fp8inf 2) 0x7E = 0x47400000 ∧ toF32 (.ufp8 2) 0xFE = 0x4F400000 ∧ toF32 (.fp8 6) 0x7F = 0x3FFE0000 := by decide

/-- Chapter 03, the worked rows of beats: the exact dot of three terms, then two accumulations rounded each. -/
theorem test_manual_beats :
    (let v := fval .f32; let one := v 0x3F800000;
      let b1 := (dotF32 [(v 0x4B800000, one), (one, one), (v 0xCB800000, one)]).1;
      let b2 := (accF32 b1 (dotF32 [(v 0x4B800000, one)]).1).1;
      let b3 := (accF32 b2 (dotF32 [(v 0xCB800000, one)]).1).1;
      (b1, b2, b3)) = (0x3F800000, 0x4B800000, 0) := by decide

/-! ### The small world of the witnesses and the step tests

One started die with a task of launch 1 on core 0, its team, its context with one image, and the tags of its first lines. -/

def tk : Task := { wait := .none, launch := 1, ctl := { swsize := 65536 } }
/-- The same task in a timed region of a gang. -/
def tkT : Task := { tk with timed := true, ctl := { tk.ctl with gang := true } }
def tm1 : Team := { launch := 1, cluster := 0, cores := [0], linear := 0, en := 1 }
def ln1 : Launch := { asid := 0, die := 0, queue := 0, desc := {} , phase := .running }
def die1 (t : Task) (tm : Team) : Die :=
  { Die.initial with started := true, tasks := [(0, t)], teams := [(0, tm)], ctxs := [(0, {})], tags := [(0, 0), (1, 0), (2, 0), (3, 0),
      (4, 0), (5, 0), (6, 0), (7, 0), (8, 0)] }
def worldOf (d : Die) : State := { now := 100, dies := [(0, d)], launches := [(1, ln1)], at_ := { die := 0, core := 0 } }
def world (t : Task) : State := worldOf (die1 t tm1)
def lc : Loc := { die := 0, core := 0 }

/-- The pending events with their cycles. -/
def pending (o : Host.Outcome State Fault Refusal) : List (Nat × Instr) :=
  match o with
  | .next s => s.calendar.map fun e => (e.due, e.what)
  | _ => []

/-- The landings that an outcome has pending: cycle, destination, value. -/
def landings (o : Host.Outcome State Fault Refusal) : List (Nat × Dest × Vec) :=
  (pending o).filterMap fun e => match e.2 with
    | .resultLanding _ r => some (e.1, r.dest, r.val)
    | _ => none

/-- TRAPC after an outcome. -/
def trapcOf (o : Host.Outcome State Fault Refusal) : Option Nat :=
  match o with
  | .next s => (s.task lc).map (·.ctl.trapc.toNat)
  | _ => none

/-! ### Single steps -/

/-- R105: 2^64 - 1 plus 1 is 0, one cycle after cycle 100; R91 lands it on x3. -/
theorem test_add_wraps :
    landings (exec (.add 0 3 1 (.x 2)) (world { tk with arch := { x := [(1, BitVec.allOnes 64), (2, 1)] } })) = [(101, .x 3, 0)] := by
  decide +kernel

/-- R105: MULH of -1 and 1 is -1, three cycles after issue. -/
theorem test_mulh_signed :
    landings (exec (.mulh 0 3 1 (.x 2)) (world { tk with arch := { x := [(1, BitVec.allOnes 64), (2, 1)] } })) =
      [(103, .x 3, BitVec.ofNat 4096 (2 ^ 64 - 1))] := by decide +kernel

/-- R107: a signed and an unsigned compare of -1 with 0 differ. -/
theorem test_cmp_sign :
    landings (exec (.cmpi 0 4 (.x 1) .lt 0) (world { tk with arch := { x := [(1, BitVec.allOnes 64)] } })) = [(101, .p 4, 1)] ∧
    landings (exec (.cmpi 0 4 (.x 1) .ltu 0) (world { tk with arch := { x := [(1, BitVec.allOnes 64)] } })) = [(101, .p 4, 0)] := by
  decide +kernel

/-- R110, R113: TRAP leaves code 0x05 and its immediate in TRAPC with the bundle index. -/
theorem test_trap : trapcOf (exec (.trap 0 0xBEEF) (world { tk with fetch := { pc := 7 } })) = some 0x5BEEF0007 := by decide +kernel

/-- R97: a loop above LDEPTH is fault 0x02, with its bundle index in TRAPC. -/
theorem test_loop_nesting : trapcOf (exec (.loopi 0 1 4 0) (world tk)) = some 0x200000000 := by decide +kernel

/-- R117: a misaligned LDS is fault 0x0A, an address without a window fault 0x0B. -/
theorem test_lds_faults :
    trapcOf (exec (.lds 0 1 (.x 2) 0) (world { tk with arch := { x := [(2, 4)] } })) = some 0xA00000000 ∧
    trapcOf (exec (.lds 0 1 (.x 2) 0) (world { tk with arch := { x := [(2, 65536)] } })) = some 0xB00000000 := by decide +kernel

/-- R127: 1 + 1 in every f32 lane of an add, two cycles after issue. -/
theorem test_vadd_f32 :
    landings (exec (.vadd ⟨0, 0⟩ .f32 (.v 3) (.v 1) (.v 2)) (world { tk with arch := { v := [(1, splatLanes 32 128 0x3F800000),
      (2, splatLanes 32 128 0x3F800000)] } })) = [(102, .v 3, splatLanes 32 128 0x40000000)] := by decide +kernel

/-- R102, R434: the first step of the machine starts both dies; die B counts from 2,048 cycles later. -/
theorem test_power_on :
    (match step State.reset with
      | .next s => s.dies.map fun e => (e.1, e.2.started, e.2.lcc)
      | _ => []) = [(0, true, 0), (64, true, -2048)] := by decide +kernel

/-- R105: a word placed for fetching is fetched, decoded and executed by the next step. -/
theorem test_fetch_add :
    landings (step ((State.reset).withFetchWord 32 0b00000100000001100001000100000000)) = [(1, .x 3, 0)] := by decide +kernel

/-! ### Witnesses: for each obligation with hypotheses, a state and operands that meet them, clause by clause -/

/-- A free-code task issues with a true predicate: the hypotheses of ScalarArithmetic, ScalarUnaryAndImmediate,
ComparesAndPredicates, ControlRegisterReads and Transfers. -/
theorem wit_ScalarArithmetic : (world tk).task (world tk).at_ = some tk ∧ tk.arch.pred (0 : Fin 16).val = true := by decide +kernel
theorem wit_ScalarUnaryAndImmediate : (world tk).task (world tk).at_ = some tk ∧ tk.arch.pred (2 : Fin 16).val = true := by decide +kernel
theorem wit_ComparesAndPredicates : (world tk).task (world tk).at_ = some tk ∧ tk.arch.pred (1 : Fin 16).val = true := by decide +kernel

/-- NoEffect: p3 is false in a task with no open loop, for a scalar, a vector and a fabric operation; and a NOP. -/
theorem wit_NoEffect :
    (world tk).task (world tk).at_ = some tk ∧ tk.arch.pred (3 : Fin 16).val = false ∧
    (Instr.add 3 1 2 (.x 3)).guard = some 3 ∧ (Instr.vmov ⟨3, 0⟩ (.v 1) (.z 2)).guard = some 3 ∧ (Instr.mcpy ⟨3, 1, 2, 3, 4⟩).guard = some 3 ∧
    Instr.sNop ∈ [Instr.sNop, .xbNop, .vNop, .mNop, .lsNop, .fbNop, .rpNop] := by decide +kernel

/-- BranchTargets: a branch forwards, one to bundle 0, and one below it, whose target no image has. -/
theorem wit_BranchTargets :
    (world tk).task (world tk).at_ = some tk ∧ tk.arch.pred (0 : Fin 16).val = true ∧
    ((7 : Nat) : Int) = ((tk.fetch.pc : Int) + (7 : BitVec 22).toInt) % (2 ^ 64 : Nat) ∧
    ((2 ^ 64 - 1 : Nat) : Int) = ((tk.fetch.pc : Int) + (-1 : BitVec 18).toInt) % (2 ^ 64 : Nat) ∧
    (tk.fetch.pc < 2 ^ 15 ∧ (tk.fetch.pc : Int) + (-1 : BitVec 22).toInt < 0) := by decide +kernel

/-- HardwareLoops: level 0 may open with LDEPTH 0, level 1 may not; closes with iterations left, in the epilogue, at the end,
without rotation, and of a null level. -/
theorem wit_HardwareLoops :
    ((world tk).task (world tk).at_ = some tk ∧ tk.arch.pred (0 : Fin 16).val = true ∧ (0 : Fin 8).val ≤ tk.arch.ldepth ∧
      (0 : Fin 8).val < tk.arch.levels.length) ∧
    (tk.arch.ldepth < (1 : Fin 8).val) ∧
    (let a (l : Level) (ec : Nat) : Arch := { ldepth := 1, ec, levels := l :: List.replicate 5 {} };
      let ok (x : Arch) (l : Level) : Bool := decide (0 < x.levels.length) && decide (x.ldepth = 0 + 1) && decide (x.levels[0]? = some l);
      (ok (a { cnt := 2 } 0) { cnt := 2 } = true ∧ ({ cnt := 2 } : Level).null = false ∧ ({ cnt := 2 } : Level).cnt > 1) ∧
      (ok (a { cnt := 1 } 1) { cnt := 1 } = true ∧ ({ cnt := 1 } : Level).cnt ≤ 1 ∧ (a { cnt := 1 } 1).ec > 0) ∧
      (ok (a { cnt := 1 } 0) { cnt := 1 } = true ∧ (a { cnt := 1 } 0).ec = 0) ∧
      (ok (a { null := true } 0) { null := true } = true)) := by decide +kernel

/-- ExitYieldTrap: free code with and without a stop asked for, and a region. -/
theorem wit_ExitYieldTrap :
    ((world tk).task (world tk).at_ = some tk ∧ tk.timed = false ∧ tk.stop = .none) ∧
    (let t := { tk with stop := .save }; (world t).task (world t).at_ = some t ∧ t.timed = false ∧ t.stop ≠ .none) ∧
    ((world tkT).task (world tkT).at_ = some tkT ∧ tkT.timed = true ∧ tkT.arch.pred (0 : Fin 16).val = true) := by decide +kernel

/-- FaultEntry: a precise-recoverable fault with an address in free code, a fatal one without, one in a region, and another
place than the task's. -/
theorem wit_FaultEntry :
    ((world tk).task lc = some tk ∧ tk.timed = false ∧ ({ code := 0x1B, va := some 64 } : FaultReq).va = some 64) ∧
    ((world tk).task lc = some tk ∧ tk.timed = false ∧ ({ code := 0x0A } : FaultReq).va = none) ∧
    ((world tkT).task lc = some tkT ∧ tkT.timed = true) ∧ ({ die := 0, core := 1 } : Loc) ≠ lc := by decide +kernel

/-- EventFlags: a flag set, a flag clear in free code and in a region, a member that exists and one that does not, the member
whose flag is set. -/
theorem wit_EventFlags :
    (let t := { tk with ev := 0x8000 }; (world t).task (world t).at_ = some t ∧ t.arch.pred (0 : Fin 16).val = true ∧
      t.ev.getLsbD (15 : Fin 16).val = true) ∧
    ((world tkT).task (world tkT).at_ = some tkT ∧ tkT.ev.getLsbD (0 : Fin 16).val = false ∧ tkT.timed = true) ∧
    ((world tk).task (world tk).at_ = some tk ∧ tk.ev.getLsbD (0 : Fin 16).val = false ∧ tk.timed = false) ∧
    ((tk.arch.rx (0 : Fin 32).val).toNat < tk.ctl.teamsz) ∧
    (let t := { tk with arch := { x := [(1, 1)] } }; (world t).task (world t).at_ = some t ∧ t.ctl.teamsz ≤ (t.arch.rx (1 : Fin 32).val).toNat) ∧
    ((world tk).team (world tk).at_.die tk.team = some tm1 ∧ tm1.cores[0]? = some 0 ∧ (world tk).at_.core = 0) := by decide +kernel

/-- Barriers: a region; a member of a completed barrier; a member that has not arrived; a team that is not complete and one
that is. -/
theorem wit_Barriers :
    ((world tkT).task (world tkT).at_ = some tkT ∧ tkT.arch.pred (0 : Fin 16).val = true ∧
      (world tkT).team (world tkT).at_.die tkT.team = some tm1 ∧ tkT.timed = true) ∧
    (let b : Bar := { arr := [(0, 90)], go := some 90 };
      let m := { tm1 with bars := [b, {}, {}, {}] };
      let s := worldOf (die1 tk m);
      s.task s.at_ = some tk ∧ s.team s.at_.die tk.team = some m ∧ tk.timed = false ∧ (nth {} m.bars (0 : Fin 4).val).go = some 90 ∧
      ((nth {} m.bars (0 : Fin 4).val).arr.any fun a => a.1 = tk.ctl.taskix) = true ∧ (0 : Fin 4).val < m.bars.length) ∧
    ((world tk).team (world tk).at_.die tk.team = some tm1 ∧ (nth {} tm1.bars (3 : Fin 4).val).go = none ∧ barFull tm1 (3 : Fin 4).val = false) ∧
    (let m := { tm1 with bars := [{ arr := [(0, 90)] }, {}, {}, {}] };
      let s := worldOf (die1 tk m);
      s.team s.at_.die tk.team = some m ∧ barFull m (0 : Fin 4).val = true ∧ (nth {} m.bars (0 : Fin 4).val).go = none) := by decide +kernel

/-- AlignAndEnter: a target at the edge of ALSLACK and one beyond, in free code of a gang, of a grid launch, and in a region;
the wait before its instant and at it. -/
theorem wit_AlignAndEnter :
    (let t := { tk with arch := { x := [(1, 132), (2, 133)] }, ctl := { tk.ctl with gang := true } };
      (world t).task (world t).at_ = some t ∧ t.arch.pred (0 : Fin 16).val = true ∧ t.timed = false ∧ t.ctl.gang = true ∧
      ((t.arch.rx (1 : Fin 32).val).toNat ≤ (world t).grp 0 + t.arch.alslack ∧ (world t).grp 0 ≤ (t.arch.rx (1 : Fin 32).val).toNat + t.arch.alslack) ∧
      ¬((t.arch.rx (2 : Fin 32).val).toNat ≤ (world t).grp 0 + t.arch.alslack)) ∧
    (tk.timed = false ∧ tk.ctl.gang = false) ∧ tkT.timed = true ∧
    (let t := { tk with wait := .align 100 true }; (world t).task (world t).at_ = some t ∧ t.phase = .running ∧ (world t).grp 0 = 100 ∧
      (100 : Nat) < 2 ^ 64) ∧
    (let t := { tk with wait := .align 101 false }; (world t).task (world t).at_ = some t ∧ t.phase = .running ∧ (world t).grp 0 < 101 ∧
      101 < (world t).grp 0 + 2 ^ 63) := by decide +kernel

/-- RegionExit: free code, a region, a hold with nothing in flight, and one with a result that lands in this cycle. -/
theorem wit_RegionExit :
    ((world tk).task (world tk).at_ = some tk ∧ tk.arch.pred (0 : Fin 16).val = true ∧ tk.timed = false) ∧
    ((world tkT).task (world tkT).at_ = some tkT ∧ tkT.timed = true) ∧
    (let t := { tk with wait := .texit }; (world t).task (world t).at_ = some t ∧ t.phase = .running ∧ t.wait = .texit ∧
      regionEnd (world t) lc t < (world t).now ∧ regionOpen t = false) ∧
    (let t := { tk with wait := .texit };
      let s := (world t).emitX t 0 1 5;
      s.task s.at_ = some t ∧ t.phase = .running ∧ t.wait = .texit ∧ s.now ≤ regionEnd s lc t) := by decide +kernel

/-- TileRequests: a team with a tile left, and one without. -/
theorem wit_TileRequests :
    ((world tk).task (world tk).at_ = some tk ∧ tk.arch.pred (0 : Fin 16).val = true ∧ (world tk).team (world tk).at_.die tk.team = some tm1 ∧
      (world tk).launch tk.launch = some ln1 ∧ tm1.nx < tm1.en) ∧
    (let m := { tm1 with nx := 1 }; (worldOf (die1 tk m)).team 0 tk.team = some m ∧ m.en ≤ m.nx) := by decide +kernel

/-- ControlRegisters: a read, also of a number that no register has; writes of REMT, of LDEPTH downwards, of LDEPTH upwards and
of a number that cannot be written; an empty statistics queue, one whose record is of this cycle, and one with an older record. -/
theorem wit_ControlRegisters :
    ((world tk).task (world tk).at_ = some tk ∧ tk.arch.pred (0 : Fin 16).val = true ∧
      (0x005 : BitVec 12).toNat ∉ [0, 1, 2, 3, 4, 0x10, 0x11, 0x12, 0x20, 0x21, 0x22, 0x23, 0x30, 0x31, 0x32, 0x33, 0x40, 0x41, 0x50, 0x51,
        0x52, 0x53, 0x54, 0x55, 0x56, 0x57, 0x58, 0x59]) ∧
    ((0x022 : BitVec 12).toNat ∈ [0x004, 0x010, 0x011, 0x021, 0x022, 0x023, 0x041]) ∧
    ((0x012 : BitVec 12).toNat = 0x012 ∧ (tk.arch.rx (0 : Fin 32).val).toNat % 8 ≤ tk.arch.ldepth) ∧
    (let t := { tk with arch := { x := [(1, 1)] } }; (world t).task (world t).at_ = some t ∧ (0x012 : BitVec 12).toNat = 0x012 ∧
      t.arch.ldepth < (t.arch.rx (1 : Fin 32).val).toNat % 8) ∧
    ((0x000 : BitVec 12).toNat ∉ [0x004, 0x010, 0x011, 0x012, 0x021, 0x022, 0x023, 0x041]) ∧
    (∀ e ∈ tk.stq, e.1 = (world tk).now) ∧
    (let t := { tk with stq := [(100, 0, 7)] }; (world t).task (world t).at_ = some t ∧ ∀ e ∈ t.stq, e.1 = (world t).now) ∧
    (let t := { tk with stq := [(99, 0, 7)] }; (world t).task (world t).at_ = some t ∧ (∀ e ∈ t.stq, e.1 ≤ (world t).now) ∧
      t.stq = (99, 0, 7) :: [] ∧ 99 < (world t).now ∧ t.stq.length ≤ 64) := by decide +kernel

/-- ScalarMemory: a misaligned address, an aligned one outside every window, the last legal word of the tagged lines in free code,
in a region, in a replay, and behind 256 withheld stores. -/
theorem wit_ScalarMemory :
    (let t := { tk with arch := { x := [(1, 4), (2, 65536), (3, 568)] } };
      (world t).task (world t).at_ = some t ∧ t.arch.pred (0 : Fin 16).val = true ∧
      (t.arch.src (.x 1) + (0 : BitVec 11).signExtend 64 * 8).toNat % 8 ≠ 0 ∧
      (let a := (t.arch.src (.x 2) + (0 : BitVec 11).signExtend 64 * 8).toNat; a % 8 = 0 ∧
        (saLegal ((world t).die 0) a && byteLegal ((world t).die 0) t.launch t.ctl.asid a) = false) ∧
      (let a := (t.arch.src (.x 3) + (0 : BitVec 11).signExtend 64 * 8).toNat; a % 8 = 0 ∧
        (saLegal ((world t).die 0) a && byteLegal ((world t).die 0) t.launch t.ctl.asid a) = true) ∧
      t.arch.walk.mode ≠ .replay ∧ t.timed = false ∧ t.sbuf.length + t.fsts.length < 256) ∧
    (let t := { tkT with arch := { x := [(3, 568)] } }; (world t).task (world t).at_ = some t ∧ t.arch.walk.mode ≠ .replay ∧ t.timed = true ∧
      byteLegal ((world t).die 0) t.launch t.ctl.asid 568 = true) ∧
    (let t := { tk with arch := { walk := { mode := .replay } } }; (world t).task (world t).at_ = some t ∧ t.arch.walk.mode = .replay ∧
      byteLegal ((world t).die 0) t.launch t.ctl.asid 0 = true) ∧
    (let st : Access := { die := 0, op := .write, shape := { base := 0 } };
      let t := { tk with sbuf := List.replicate 256 st }; (world t).task (world t).at_ = some t ∧ t.timed = false ∧
      256 ≤ t.sbuf.length + t.fsts.length) := by decide +kernel

theorem wit_Transfers : (world tk).task (world tk).at_ = some tk := by decide +kernel

/-- ResultLandings: a landing on each kind of destination at its first and last number, outside a block; on an accumulator row of
free code that no undo entry holds, of a region, and on the gradient plane. -/
theorem wit_ResultLandings :
    (∀ d ∈ [Dest.x 0, .x 31, .p 3, .p 4, .p 15, .stage 0, .stage 7, .m 0, .m 7, .v 0, .v 63, .g 0, .g 63, .creg 0x022, .afmt],
      (world tk).task lc = some tk ∧ tk.phase = .running ∧ tk.arch.blk = none ∧ ({ dest := d } : Landing).evs = [] ∧
        laterLandings { world tk with at_ := lc } lc { dest := d } = [] ∧ tk.wait ≠ .remote ({ dest := d } : Landing).id ∧
        ({ dest := d } : Landing).mode = .replace) ∧
    Fmt.ofCode (0x37 : Vec).toNat = some (.ufp8 6) ∧
    (∀ r ∈ [0, 1023], (world tk).task lc = some tk ∧ (∀ e ∈ tk.mat.prev, e.2.1 ≠ (world tk).now) ∧ tk.timed = false ∧
      (∀ e ∈ tk.undo, e.row ≠ r) ∧ laterLandings { world tk with at_ := lc } lc { dest := .acc r, mode := .f32acc } = []) ∧
    ((world tkT).task lc = some tkT ∧ tkT.timed = true ∧ laterLandings { world tkT with at_ := lc } lc { dest := .plane, mode := .zero } = []) := by
  decide +kernel

/-- A store of the last word of the first tagged lines, and its bytes. -/
def st1 : Access := { die := 0, op := .write, shape := { base := 572, n := 1 }, data := 0x12345678, en := 0xF }
/-- A load of a word that lands on v0. -/
def ld1 : Access := { die := 0, op := .read, cls := .load, shape := { base := 0, n := 1 }, en := 0xF, src := some lc, land := some { dest := .v 0 } }

/-- AccessPerforms: one word written at the end of a window, and one word read, without and with a withheld store of its task. -/
theorem wit_AccessPerforms :
    ((world tk).memOk = true ∧ mget (world tk).dies st1.die = some (die1 tk tm1) ∧ cmdLives (world tk) st1 = true ∧ st1.mem = .scratch ∧
      st1.op = .write ∧ st1.cls = .store ∧ (die1 tk tm1).flips = [] ∧ laterWrites (world tk) st1.die st1.port = [] ∧
      shadowsOf (world tk) st1.die st1.asid = [] ∧ st1.shape.w = 4 ∧ resolved (world tk) st1 = [(0, 572, 15)]) ∧
    (mget (world tk).dies ld1.die = some (die1 tk tm1) ∧ cmdLives (world tk) ld1 = true ∧ ld1.mem = .scratch ∧ ld1.op = .read ∧
      ld1.src = some lc ∧ ld1.land = some { dest := .v 0 } ∧ (world tk).task lc = some tk ∧ tk.phase ≠ .held ∧ ld1.fwdEn = 0 ∧
      ld1.shape.w ≤ 512 ∧ ld1.cls = .load ∧ resolved (world tk) ld1 = [(0, 0, 15)] ∧ tk.shadow.carry = [] ∧ (die1 tk tm1).was = none ∧
      heldStores (world tk) ld1 = []) ∧
    (let y : Access := { st1 with src := some lc, cls := .store, ready := true, shape := { base := 2, n := 1 } };
      let t := { tk with sbuf := [y] };
      let a := { ld1 with issued := 1 };
      let s := world t;
      a.timed = false ∧ heldStores s a = [y] ∧ y.op = .write ∧ resolved s y = [(0, 2, 15)] ∧ s.task lc = some t ∧ resolved s a = [(0, 0, 15)]) := by decide +kernel

/-- AccessMemoryFrame: the store completes; a byte below it, one above it, one of another die, one of main memory. -/
theorem wit_AccessMemoryFrame :
    (world tk).memOk = true ∧ st1.op ∈ [AccOp.write, .addF32, .addI32] ∧ st1.cls ≠ .engine ∧
    (match exec (.accessPerform st1) (world tk) with
      | .next _ => true
      | _ => false) = true ∧
    (∀ e ∈ resolved (world tk) st1, 571 < e.2.1 ∨ e.2.1 + Nat.max 4 st1.shape.w ≤ 571) ∧
    (∀ e ∈ resolved (world tk) st1, 576 < e.2.1 ∨ e.2.1 + Nat.max 4 st1.shape.w ≤ 576) ∧ (64 : Nat) ≠ st1.die := by decide +kernel

/-- An f32 operation of two registers: what it reads, pushes and writes outside a block. -/
theorem reads_v (w n : Nat) (h : n < 64) : Reads (world tk) tk w (.v ⟨n, h⟩) (rd tk.arch.v (tk.arch.phys n)) (world tk) tk := fun _ => rfl
theorem pushes_none (l : List Vec) : Pushes (world tk) tk l (world tk) tk := fun _ => by
  cases l <;> rfl

/-- VectorFloatTwoSources and VectorFused: three registers, a broadcast as vb, and a result for a register. -/
theorem wit_VectorFloatTwoSources :
    (world tk).task (world tk).at_ = some tk ∧ tk.arch.pred (⟨0, 0⟩ : VHdr).pr.val = true ∧
    (∃ x y, Reads (world tk) tk 32 (.v 63) x (world tk) tk ∧ Reads (world tk) tk 32 .bcast y (world tk) tk ∧
      Pushes (world tk) tk [x, y] (world tk) tk) ∧
    (∀ v, ∃ s4, writeV (world tk) tk 2 (.v 1) (tk.arch.rm 0) v [] = .ok s4) :=
  ⟨by decide +kernel, by decide +kernel, ⟨_, _, reads_v 32 63 (by decide), fun _ => rfl, pushes_none _⟩, fun _ => ⟨_, rfl⟩⟩
theorem wit_VectorFused :
    (world tk).task (world tk).at_ = some tk ∧ tk.arch.pred (⟨0, 0⟩ : VHdr).pr.val = true ∧
    (∃ x y, Reads (world tk) tk 16 (.v 0) x (world tk) tk ∧ Reads (world tk) tk 16 (.v 1) y (world tk) tk ∧
      Pushes (world tk) tk [x, y] (world tk) tk) ∧
    (∀ v e, ∃ s4, writeV (world tk) tk 4 (.v 1) (tk.arch.rm 0) v e = .ok s4) :=
  ⟨by decide +kernel, by decide +kernel, ⟨_, _, reads_v 16 0 (by decide), reads_v 16 1 (by decide), pushes_none _⟩, fun _ _ => ⟨_, rfl⟩⟩
theorem wit_VectorFloatOneSource :
    (world tk).task (world tk).at_ = some tk ∧ tk.arch.pred (⟨0, 7⟩ : VHdr).pr.val = true ∧
    (∃ x, Reads (world tk) tk 32 (.v 5) x (world tk) tk ∧ Pushes (world tk) tk [x] (world tk) tk) ∧
    (∀ v e, ∃ s3, writeV (world tk) tk 8 (.v 1) (tk.arch.rm 7) v e = .ok s3) :=
  ⟨by decide +kernel, by decide +kernel, ⟨_, reads_v 32 5 (by decide), pushes_none _⟩, fun _ _ => ⟨_, rfl⟩⟩
theorem wit_VectorInteger :
    (world tk).task (world tk).at_ = some tk ∧ tk.arch.pred (⟨0, 0⟩ : VHdr).pr.val = true ∧
    (∃ x y, Reads (world tk) tk 8 (.v 0) x (world tk) tk ∧ Reads (world tk) tk 8 (.v 63) y (world tk) tk) ∧
    (∃ x y, Reads (world tk) tk 32 (.v 0) x (world tk) tk ∧ Reads (world tk) tk 32 .bcast y (world tk) tk) ∧
    (∀ v, ∃ s3, writeV (world tk) tk 2 (.v 1) (tk.arch.rm 0) v [] = .ok s3) :=
  ⟨by decide +kernel, by decide +kernel, ⟨_, _, reads_v 8 0 (by decide), reads_v 8 63 (by decide)⟩,
    ⟨_, _, reads_v 32 0 (by decide), fun _ => rfl⟩, fun _ => ⟨_, rfl⟩⟩
/-- VectorMoves: sources at every width it reads; a rotation by the greatest number of 32-bit lanes. -/
theorem wit_VectorMoves :
    (world tk).task (world tk).at_ = some tk ∧ tk.arch.pred (⟨0, 0⟩ : VHdr).pr.val = true ∧
    (∀ w ∈ [4, 8, 16, 32, 64], ∃ x y, Reads (world tk) tk w (.v 2) x (world tk) tk ∧ Reads (world tk) tk w (.v 3) y (world tk) tk ∧
      Pushes (world tk) tk [y] (world tk) tk) ∧
    (127 : Fin 256).val < 4096 / iwBits .w32 ∧ (∀ v e, ∃ s2, writeV (world tk) tk 3 (.v 1) (tk.arch.rm 0) v e = .ok s2) :=
  ⟨by decide +kernel, by decide +kernel, fun w _ => ⟨_, _, reads_v w 2 (by decide), reads_v w 3 (by decide), pushes_none _⟩, by decide,
    fun _ _ => ⟨_, rfl⟩⟩
theorem wit_VectorReductions :
    (world tk).task (world tk).at_ = some tk ∧ tk.arch.pred (⟨0, 0⟩ : VHdr).pr.val = true ∧
    (∃ x y, Reads (world tk) tk 32 (.v 2) x (world tk) tk ∧ Reads (world tk) tk 32 (.v 3) y (world tk) tk ∧
      Pushes (world tk) tk [x] (world tk) tk ∧ Pushes (world tk) tk [] (world tk) tk) ∧
    (∀ v e, ∃ s2, writeV (world tk) tk 6 (.v 1) (tk.arch.rm 0) v e = .ok s2) :=
  ⟨by decide +kernel, by decide +kernel, ⟨_, _, reads_v 32 2 (by decide), reads_v 32 3 (by decide), pushes_none _, pushes_none _⟩,
    fun _ _ => ⟨_, rfl⟩⟩
theorem wit_MaskOperations :
    (world tk).task (world tk).at_ = some tk ∧ tk.arch.pred (⟨0, 0⟩ : VHdr).pr.val = true ∧
    (∃ x y, Reads (world tk) tk (cmpWidth .i32) (.v 2) x (world tk) tk ∧ Reads (world tk) tk (cmpWidth .i32) .bcast y (world tk) tk) :=
  ⟨by decide +kernel, by decide +kernel, ⟨_, _, reads_v _ 2 (by decide), fun _ => rfl⟩⟩

/-- A read stream of two vectors of scratchpad from address 0. -/
def strm0 : Strm := { valid := true, desc := 2 <<< 128 }

/-- OperandForms: a read stream with its next vector ready, an unbound stream, and one at its end. -/
theorem wit_OperandForms :
    (∃ (z : Strm) (e : Ahead), let t := { tk with arch := { strms := z :: List.replicate 7 {} }, units := { next := 1, ahead := [e] } :: List.replicate 7 {} };
      (world t).task (world t).at_ = some t ∧ strmCheck (world t) t 0 false = none ∧ strmXlate (world t) t 0 false = none ∧
      (nth {} t.units 0).ahead.find? (fun a => a.idx = (t.arch.strm 0).k && decide (a.ready ≤ (world t).now)) = some e ∧
      0 < t.arch.strms.length) ∧
    ((world tk).task (world tk).at_ = some tk ∧ strmWaits (world tk) tk 7 = false ∧ strmCheck (world tk) tk 7 false = some 0x0D ∧ tk.arch.blk = none) ∧
    (let t := { tk with arch := { strms := { strm0 with k := 2 } :: List.replicate 7 {} } };
      (world t).task (world t).at_ = some t ∧ strmWaits (world t) t 0 = false ∧ strmCheck (world t) t 0 false = some 0x0E) := by
  refine ⟨⟨strm0, { idx := 0, ready := 100, val := 0 }, ?_⟩, ?_, ?_⟩ <;> decide +kernel

/-- MatrixOperations: the array held in this cycle, held up to the last, and free from reset; line 0 and a later line of the
same load; a row counted in free code; a 4-bit activation; a queue with 15 and one with 16 entries; 8 rows; 3 and 4 buffered
A rows. -/
theorem wit_MatrixOperations :
    (let t := { tk with mat := { heldTo := 100 } }; (world t).task (world t).at_ = some t ∧ t.arch.pred (0 : Fin 16).val = true ∧
      ¬(t.mat.heldTo < (world t).now ∨ t.mat.heldTo = 0)) ∧
    (let t := { tk with mat := { heldTo := 99 } }; (world t).task (world t).at_ = some t ∧ t.mat.heldTo < (world t).now) ∧
    ((world tk).task (world tk).at_ = some tk ∧ tk.mat.heldTo = 0 ∧ srcInt32 tk (.v 0) = false ∧ (0 : Fin 128).val = 0 ∧
      srcFmt tk (.v 0) = tk.mat.ldFmt ∧ false = tk.mat.ldDirW) ∧
    addRows tk [(1023 : Fin 1024).val] = some { tk with rows := [1023] } ∧
    addRows tk [0, 0 + 1] = some { tk with rows := [0, 1] } ∧ fwidth (srcFmt { tk with arch := { afmt := .int4 } } (.v 0)) = 4 ∧
    addRows tk ((List.range ((7 : Fin 8).val + 1)).map ((1016 : Fin 1024).val + ·)) =
      some { tk with rows := [1016, 1017, 1018, 1019, 1020, 1021, 1022, 1023] } ∧
    (let q (n : Nat) : Task := { tk with mat := { queues := { ents := List.replicate n { id := 0, ready := 0, val := 0 } } :: List.replicate 3 {} } };
      ((q 15).queue (0 : Fin 4).val).ents.length < 16 ∧ 16 ≤ ((q 16).queue (0 : Fin 4).val).ents.length) ∧
    (let a (n : Nat) : Task := { tk with mat := { arows := List.replicate n { val := 0, fmt := .f32 } } };
      (a 3).phase = .running ∧ (a 3).mat.arows.length + (a 3).lateRows.length < 4 ∧ 4 ≤ (a 4).mat.arows.length + (a 4).lateRows.length) := by
  decide +kernel
theorem reads_m : ReadsM (world tk) tk (.v 0) (rd tk.arch.v (tk.arch.phys 0)) (world tk) tk := fun _ => rfl

/-- LoadsAndStores: addresses that are misaligned, without a window, and legal up to the last line of the tags, with and without
post-increment; strides and indices; a source register. -/
theorem wit_LoadsAndStores :
    (let t := { tk with arch := { x := [(1, 4), (2, 65536), (3, 64), (4, 2), (5, 0)] } };
      let m := t.arch.rm (0 : Fin 8).val;
      (world t).task (world t).at_ = some t ∧ t.arch.pred (⟨0, 0⟩ : VHdr).pr.val = true ∧
      ((t.arch.rx 1 + (0 : BitVec 16).signExtend 64 * 64).toNat % 64 ≠ 0) ∧ ((t.arch.rx 4).toNat % 4 ≠ 0) ∧
      (let a := (t.arch.rx 2 + (0 : BitVec 16).signExtend 64 * 64).toNat; a % 64 = 0 ∧
        ¬accessLegal ((world t).die 0) t.launch t.ctl.asid { base := a } m = true) ∧
      (let a := (t.arch.rx 3 + (-1 : BitVec 16).signExtend 64 * 64).toNat; a % 64 = 0 ∧
        accessLegal ((world t).die 0) t.launch t.ctl.asid { base := a } m = true) ∧
      (let a := (t.arch.rx 3 + (0 : BitVec 16).signExtend 64 * 4).toNat; a % 4 = 0 ∧
        accessLegal ((world t).die 0) t.launch t.ctl.asid { base := a, stride := 0 } m = true) ∧
      (let a := (t.arch.rx 5 + (0 : BitVec 11).signExtend 64 * 64).toNat; a % 2 = 0 ∧ (t.arch.rx 4).toNat % 2 = 0 ∧
        accessLegal ((world t).die 0) t.launch t.ctl.asid { base := a, stride := (t.arch.rx 4).toInt, w := 2, n := 256 } m = true) ∧
      ((t.arch.rx 5).toNat % 4 = 0 ∧
        accessLegal ((world t).die 0) t.launch t.ctl.asid { base := 0, stride := 0, w := 4, n := 128, idx := some (t.arch.rv 0) } m = true)) ∧
    (let t := { tk with arch := { x := [(1, 4)] } };
      (world t).task (world t).at_ = some t ∧ t.arch.rm (1 : Fin 8).val = 0 ∧ accessesNone { base := 4 } 0 = true ∧
        accessLegal ((world t).die 0) t.launch t.ctl.asid { base := 4 } 0 = true) ∧
    (∃ s1, loadTo (world tk) tk 6 (.v 1) { base := 0 } (tk.arch.rm 0) = .ok s1) ∧
    ReadsM (world tk) tk (.v 0) (rd tk.arch.v (tk.arch.phys 0)) (world tk) tk ∧
    (∃ s2, storeFrom (world tk) tk 2 .write { base := 0 } 0 (tk.arch.rm 0) = .ok s2) ∧
    Pushes (world tk) tk [tk.arch.rv 0] (world tk) tk :=
  ⟨by decide +kernel, by decide +kernel, ⟨_, rfl⟩, reads_m, ⟨_, rfl⟩, pushes_none _⟩

/-- StoresAtomicsAndQueues: a replay, a full and a free store buffer, a region; aligned lanes; a ready entry in a region and in
free code, one not yet ready; a descriptor's line, its landing in order and out of order; an atomic access that performs. -/
theorem wit_StoresAtomicsAndQueues :
    (let t := { tk with arch := { walk := { mode := .replay } } }; (world t).task (world t).at_ = some t ∧ t.arch.walk.mode = .replay) ∧
    (let t := { tk with sbuf := List.replicate 256 st1 }; (world t).task (world t).at_ = some t ∧ t.arch.walk.mode ≠ .replay ∧
      t.timed = false ∧ 256 ≤ t.sbuf.length + t.fsts.length) ∧
    ((world tk).task (world tk).at_ = some tk ∧ tk.timed = false ∧ tk.sbuf.length + tk.fsts.length < 256 ∧
      (tk.arch.rx 0).toNat % 4 = 0 ∧ accessLegal ((world tk).die 0) tk.launch tk.ctl.asid
        { base := (tk.arch.rx 0).toNat, stride := 0, n := 128, idx := some (tk.arch.rv 0) } (tk.arch.rm 0) = true) ∧
    (let e : QEnt := { id := 0, ready := 100, val := 7 };
      let q : List RQueue := { ents := [e] } :: List.replicate 3 {};
      (let t := { tkT with mat := { queues := q } }; (world t).task (world t).at_ = some t ∧ t.timed = true ∧ (t.queue 0).popped = 0 ∧
        (t.queue 0).ents = e :: [] ∧ e.ready ≤ (world t).now) ∧
      (let t := { tk with mat := { queues := q } }; (world t).task (world t).at_ = some t ∧ t.timed = false ∧
        ((t.queue 0).ents.drop (t.queue 0).popped).head? = some e ∧ e.ready ≤ (world t).now) ∧
      (let t := { tk with mat := { queues := { ents := [{ e with ready := 101 }] } :: List.replicate 3 {} } };
        (world t).task (world t).at_ = some t ∧ ((t.queue 0).ents.drop (t.queue 0).popped).head? = some { e with ready := 101 } ∧
        (world t).now < 101)) ∧
    accessLegal ((world tk).die 0) tk.launch tk.ctl.asid { base := 0 + 64 * 8, n := 16 } (BitVec.ofNat 512 (2 ^ 64 - 1)) = true ∧
    (tk.arch.rx 0 + (8 : BitVec 16).signExtend 64 * 64).toNat % 64 = 0 ∧
    (let a : Access := { st1 with op := .atom .addi, cls := .store, src := some lc, land := some { dest := .v 0 } };
      let s := world tk;
      s.memOk = true ∧ mget s.dies a.die = some (die1 tk tm1) ∧ (die1 tk tm1).flips = [] ∧ shadowsOf s a.die a.asid = [] ∧ tk.phase ≠ .held ∧
      tk.shadow.carry = [] ∧ a.rev = false ∧ resolved s a = [(0, 572, 15)]) ∧
    (let line : Shape := { base := (tk.arch.rx 0 + (0 : BitVec 16).signExtend 64 * 64).toNat };
      line.base % 64 = 0 ∧ accessLegal ((world tk).die 0) tk.launch tk.ctl.asid line (tk.arch.rm 0) = true) ∧
    (let r : Landing := { dest := .bind 7, val := (strm0.desc).setWidth 4096 };
      r.evs = [] ∧ tk.phase = .running ∧ tk.wait ≠ .remote r.id ∧ strmLegal tk.timed { valid := true, desc := r.val.setWidth 512 } = true ∧
      (world tk).task lc = some tk ∧ 7 < tk.arch.strms.length ∧ strmLegal tk.timed { valid := true, desc := 2 ^ 96 } = false ∧
      (let w : BitVec 512 := strm0.desc ||| (1 <<< 64);
        strmLegal tk.timed { valid := true, desc := w } = true ∧ ({ desc := w } : Strm).write = true)) := by decide +kernel

/-- A die with link 0 up to its sibling. -/
def linked (t : Task) : State :=
  { worldOf { die1 t tm1 with links := [(0, { state := 2, peer := 64 }), (1, {}), (2, {}), (3, {}), (4, {}), (5, {})] } with formed := true }

/-- TimedSends: free code; misaligned and foreign addresses; a stamp 1 and 32,767 cycles ahead over an UP link, with no span and
with one in the way; entries popped from a queue; windows that do not clash, that clash, and 16 of them. -/
theorem wit_TimedSends :
    ((world tk).task (world tk).at_ = some tk ∧ tk.arch.pred (0 : Fin 16).val = true ∧ tk.timed = false) ∧
    (let t := { tkT with arch := { x := [(1, 2), (2, 65536), (3, 572)] } };
      (linked t).task (linked t).at_ = some t ∧ t.timed = true ∧ (t.arch.rx 1).toNat % 4 ≠ 0 ∧
      (t.arch.rx 2).toNat % 4 = 0 ∧ ownWindow (linked t) lc t (t.arch.rx 2).toNat 4 = false ∧
      (t.arch.rx 3).toNat % 4 = 0 ∧ ownWindow (linked t) lc t (t.arch.rx 3).toNat 4 = true ∧
      stampDelay ((linked t).gcc lc t) (101 : BitVec 16).toNat = some 1 ∧ stampDelay ((linked t).gcc lc t) (32867 : BitVec 16).toNat = some 32767 ∧
      dkTarget (linked t) lc t (.link 0) = some 64 ∧ dkRoute (linked t) lc (.link 0) 64 = some ((0, 0) :: []) ∧
      (t.sends.filter fun x => x.last > (linked t).now).length < 4 ∧ spanClash (linked t) 0 0 101 101 = none ∧
      spanClash (addSpan (linked t) 0 { link := 0, first := 101, last := 101, task := none, launch := 1 }) 0 0 101 101 =
        some { link := 0, first := 101, last := 101, task := none, launch := 1 } ∧
      (¬∃ w ∈ dieWindows ((linked t).die 0), w.base < 572 + 4 ∧ 572 < w.base + 4 * w.words) ∧ t.windows.length < 16) ∧
    (let t := { tkT with windows := [{ base := 568, words := 2 }] };
      ∃ w ∈ dieWindows ((linked t).die 0), w.base < 572 + 4 * 1 ∧ 572 < w.base + 4 * w.words) ∧
    16 ≤ (List.replicate 16 ({ base := 0, words := 1 } : Window)).length := by decide +kernel

/-- The launch with a pair entry on channel 0 to die 64. -/
def paired (t : Task) (c : Chan) : State :=
  let s := worldOf { die1 t tm1 with links := [(0, { state := 2, peer := 64 }), (1, {}), (2, {}), (3, {}), (4, {}), (5, {})], chans := [(256, c)] }
  { s with formed := true, launches := [(1, { ln1 with pairs := [(0, BitVec.ofNat 128 (2 ^ 15 + 64))] })] }

/-- PairedChannels: no entry, another user; 7 and 8 vectors outstanding in free code and in a region; an empty and a filled
buffer; a block without the channel; a vector in its turn and one before it. -/
theorem wit_PairedChannels :
    ((world tk).task (world tk).at_ = some tk ∧ tk.arch.pred (0 : Fin 16).val = true ∧ chanInBlock (world tk) tk 0 = true ∧
      tk.arch.walk.mode ≠ .replay ∧ pairEntry (world tk) tk.launch 0 0 = none) ∧
    (let t := { tk with arch := { blk := some { block := 0, start := 0, depth := 0, opened := 0 } } };
      (world t).task (world t).at_ = some t ∧ chanInBlock (world t) t 0 = false) ∧
    (let s := paired tk { user := some 1 }; s.task s.at_ = some tk ∧ (s.chan 0 tk.launch 0).user = some 1 ∧ 1 ≠ s.at_.core) ∧
    (let s := paired tk { user := some 0, sent := 7, buf := [5] }; s.task s.at_ = some tk ∧
      pairEntry s tk.launch 0 0 = some (BitVec.ofNat 128 (2 ^ 15 + 64)) ∧ (s.chan 0 tk.launch 0).user = some s.at_.core ∧
      (s.chan 0 tk.launch 0).sent + 0 < 8 ∧ tk.timed = false ∧ (s.chan 0 tk.launch 0).buf = 5 :: [] ∧ boundaryFrame s tk = false) ∧
    (let s := paired tk { sent := 8 }; 8 ≤ (s.chan 0 tk.launch 0).sent + 0 ∧ (s.chan 0 tk.launch 0).user = none ∧ (s.chan 0 tk.launch 0).buf = []) ∧
    (let s := paired tkT {}; s.task s.at_ = some tkT ∧ tkT.timed = true ∧ stampDelay (s.gcc lc tkT) (101 : BitVec 16).toNat = some 1 ∧
      route s timedOk 0 (pairPeer (BitVec.ofNat 128 (2 ^ 15 + 64))) = some ((0, 0) :: []) ∧ spanClash s 0 0 101 103 = none) ∧
    (let s := paired tk {}; (s.launch 1).map (·.phase) = some .running ∧ (mget s.dies 0).isSome ∧ (s.chan 0 1 0).nextRecv = 0 ∧
      (s.chan 0 1 0).nextRecv < 1) := by decide +kernel

/-- A context with a local 64 GiB leaf at 0 and an aperture leaf behind it, with or without RA. -/
def mapped (t : Task) (ra : Nat) : State :=
  worldOf { die1 t tm1 with ctxs := [(0, { ptes := [(2 ^ 36, 15), (2 ^ 36 + 1, BitVec.ofNat 64 (271 + 16 * ra))]
                                           apertures := [(1, BitVec.ofNat 128 (2 ^ 79 + 64 * 2 ^ 64))] })] }

/-- VirtualAccesses: a region; addresses that are misaligned, untranslated, local and behind an aperture with RA and without, for
the reads, the writes and the atomics; a full store buffer. -/
theorem wit_VirtualAccesses :
    ((world tkT).task (world tkT).at_ = some tkT ∧ tkT.arch.pred (0 : Fin 16).val = true ∧ tkT.timed = true) ∧
    (let t := { tk with arch := { x := [(1, 2), (2, BitVec.ofNat 64 (2 ^ 36)), (3, BitVec.ofNat 64 (2 ^ 40))] } };
      let s := mapped t 1;
      s.task s.at_ = some t ∧ t.timed = false ∧ (t.arch.rx 1).toNat % 512 ≠ 0 ∧ (t.arch.rx 1).toNat % 4 ≠ 0 ∧
      (t.arch.rx 0).toNat % 512 = 0 ∧ xlate s 0 t.ctl.asid 0 true true = .dpa 0 ∧ xlate s 0 t.ctl.asid 0 true false = .dpa 0 ∧
      xlate s 0 t.ctl.asid 0 false true = .dpa 0 ∧
      (∀ w : Bool, xlate s 0 t.ctl.asid (t.arch.rx 2).toNat (!w) w = .away (BitVec.ofNat 128 (2 ^ 79 + 64 * 2 ^ 64)) true) ∧
      xlate s 0 t.ctl.asid (t.arch.rx 2).toNat true true = .away (BitVec.ofNat 128 (2 ^ 79 + 64 * 2 ^ 64)) true ∧
      xlate (mapped t 0) 0 t.ctl.asid (t.arch.rx 2).toNat true true = .away (BitVec.ofNat 128 (2 ^ 79 + 64 * 2 ^ 64)) false ∧
      xlate s 0 t.ctl.asid (t.arch.rx 3).toNat true true = .bad 1 ∧ xlate s 0 t.ctl.asid (t.arch.rx 3).toNat true false = .bad 1 ∧
      xlate s 0 t.ctl.asid (t.arch.rx 3).toNat false true = .bad 1 ∧ t.sbuf.length + t.fsts.length < 256 ∧
      held s 0 t.ctl.asid 0 512 = false ∧ held { s with host := { hold := some (0, 0, 0, 65536) } } 0 t.ctl.asid 0 512 = true) ∧
    256 ≤ (List.replicate 256 st1).length := by decide +kernel

/-- A die whose context has counters 0 and 1, 32 tagged lines, a 64 GiB page pinned for launch 1, shadow entry 4095 and a
reservation tag; with commands, an Ox queue and an armed timetable as given. -/
def engDie (t : Task) (cs : Map Cmd) (q : List Nat) : Die :=
  { die1 t tm1 with tags := (List.range 32).map fun i => (i, 0), counters := [(0, { asid := 0 }), (1, { asid := 0 })]
                    ctxs := [(0, { ptes := [(2 ^ 36, 15)], shadows := [(4095, BitVec.ofNat 256 (2 ^ 192))] })]
                    pins := [(1, 0, 1)], cmds := cs, nextCmd := 9, oxq := q, tts := [(0, { asid := 0, setN := 1, setId := 0, phase := 101 })] }
def engWorld (t : Task) (cs : Map Cmd) (q : List Nat) : State :=
  let s := worldOf (engDie t cs q)
  { s with launches := [(1, { ln1 with tags := [(0, 5)] })] }
def fe (xc : Fin 32) : FeHdr := ⟨0, 0, 0, xc, 0⟩
/-- A descriptor that writes the blocks from scratch address 0 to main memory at 0. -/
def bulkDesc : Mem := [(8, 1)]

/-- EngineCommandsIssue: a count of 0 and of 1, in free code and in a region; allocated counters and one that is not (the completion
counter of UPD too); an Ox queue of 15 and of 16; an MBULK of a region with its tag free, unknown, late and before a refresh. -/
theorem wit_EngineCommandsIssue :
    (let t := { tk with arch := { x := [(1, 1)] } };
      let s := engWorld t [] [];
      s.task s.at_ = some t ∧ t.arch.pred (fe 0).pr.val = true ∧ (t.arch.rx 0).toNat = 0 ∧ (t.arch.rx 1).toNat ≠ 0 ∧ t.timed = false ∧
      counterOk s 0 t.ctl.asid (fe 0).cc.val = true ∧ counterOk s 0 t.ctl.asid (((fe 0).cc.val + 1) % 256) = true ∧
      counterOk s 0 t.ctl.asid 255 = false ∧ counterOk s 0 t.ctl.asid ((1 + 1) % 256) = false) ∧
    (let t := { tkT with arch := { x := [(1, 1)] } };
      let s := { engWorld t [] (List.replicate 15 0) with now := 100 };
      let big := { engWorld t [] (List.replicate 16 0) with now := 16000 };
      s.task s.at_ = some t ∧ t.timed = true ∧ (s.die 0).oxq.length < 16 ∧ 16 ≤ (big.die 0).oxq.length ∧
      (let s2 := s.modDie 0 fun d => { d with scratch := bulkDesc };
        let c := { newCmd s2 t .mbulk (fe 1) 0 with aux := 5 };
        (match cmdDesc s2 c with
          | .ok d => match mbulkCheck s2 c d with
            | .ok (_, dpa) => (bulkReserve s2 0 t.launch 5 dpa).isSome && (bulkReserve s2 0 t.launch 6 dpa).isNone &&
                decide (bulkFree (s2.die 0) (dpaStack dpa) 5 ≤ s2.now)
            | .error _ => false
          | .error _ => false) = true ∧
        meetsRefresh (s2.gcc lc t) (640 + 6 * (1 - 1)) = false ∧ meetsRefresh (big.gcc lc t) (640 + 6 * (1 - 1)) = true)) := by decide +kernel

/-- A NORM of one tile from a free-code task, whose descriptor of zeros matches its guard; and one whose guard does not. -/
def normCmd (g : Word) : Cmd :=
  { kind := .norm, loc := lc, launch := 1, team := 0, asid := 0, bundle := 0, timed := false, cc := 0, n := 1, guard := g, issued := 90 }

/-- CommandsAcceptedAndComplete: a command that is accepted, one that meets a full queue, one whose guard differs; a completion alone
and behind an earlier command; a block with its data, one that reads the main memory; a tag held or not, with its last block past or to
come. -/
theorem wit_CommandsAcceptedAndComplete :
    (let t := { tk with wait := .accept };
      (let s := engWorld t [(3, normCmd 0)] [];
        s.task s.at_ = some t ∧ pendingCmd (s.die 0) lc = some (3, normCmd 0) ∧ t.phase = .running ∧ t.wait = .accept ∧
        (match acceptCmd s 3 (normCmd 0) with
          | .ok (some _) => true
          | _ => false) = true ∧ (s.die 0).ox = none ∧ (s.die 0).cmds = [(3, normCmd 0)]) ∧
      (let s := engWorld t [(3, normCmd 0)] (List.replicate 16 0);
        (match acceptCmd s 3 (normCmd 0) with
          | .ok none => true
          | _ => false) = true) ∧
      (let s := engWorld t [(3, normCmd 1)] [];
        engineRange (s.die 0) 0 (normCmd 1).xa 64 = true ∧
        dfield (BitVec.ofNat 512 (readScratch s 0 0 (normCmd 1).xa 64)) 56 8 ≠ (normCmd 1).guard.toNat ∧
        (match acceptCmd s 3 (normCmd 1) with
          | .error _ => true
          | _ => false) = true)) ∧
    (let s := engWorld tk [(2, normCmd 0), (3, normCmd 0)] [];
      s.task s.at_ = some tk ∧ (s.die 0).cmds = [(2, normCmd 0), (3, normCmd 0)] ∧ 2 < 3 ∧ (normCmd 0).done = false) ∧
    (let c := { normCmd 0 with kind := .mbulk, buf := [(0, 7)] };
      let s := engWorld tk [(3, c), (4, { c with shdw := some 4095 })] [];
      s.cmd 0 3 = some c ∧ c.shdw = none ∧ mget c.buf 0 = some 7 ∧ s.cmd 0 4 = some { c with shdw := some 4095 } ∧
      readPoison s { blockAccess { c with shdw := some 4095 } 4 .virt (c.src + 64 * 0) 0 with op := .read } = none) ∧
    (let s := engWorld tk [] [];
      tagAllocated s tk.launch 0 5 = true ∧ tagAllocated s tk.launch 3 63 = false ∧
      (s.die 0).reserves.find? (fun r => r.stack = 0 && r.tag = 5) = none ∧
      (let r : Reserve := { stack := 0, tag := 5, pc := 0, bank := 0, launch := 1, lastCount := 1, lastBlock := 100 };
        ([r].find? (fun r => r.stack = 0 && r.tag = 5)) = some r ∧ s.now ≤ r.lastBlock ∧ 0 < r.lastCount)) := by decide +kernel

/-- CountersFencesPublication: a counter allocated and one not; a value reached and one above; waits at a counter and at a fence; a
fence with nothing ahead and one with a command ahead; the last shadow entry, one beyond, one that a command still writes; a TTGO in
free code, without its timetable, in and out of its phase. -/
theorem wit_CountersFencesPublication :
    (let t := { tk with arch := { x := [(1, 1), (2, 4095), (3, BitVec.ofNat 64 (2 ^ 24))] } };
      let s := engWorld t [] [];
      s.task s.at_ = some t ∧ t.arch.pred (0 : Fin 16).val = true ∧ t.arch.walk.mode ≠ .replay ∧ t.timed = false ∧
      counterOk s 0 t.ctl.asid 0 = true ∧ counterOk s 0 t.ctl.asid 255 = false ∧ (t.arch.rx 0).toNat % 2 ^ 32 ≤ counterVal s 0 0 ∧
      counterVal s 0 0 < (t.arch.rx 1).toNat % 2 ^ 32 ∧ (mget (s.die 0).counters 0).isSome ∧
      fenceAhead s lc t .eng .system = false ∧ fenceAhead (engWorld t [(3, { normCmd 0 with acc := true })] []) lc t .eng .task = true ∧
      (t.arch.rx 2).toNat < 2 ^ 24 ∧ 4095 + 1 ≤ 4096 ∧ (shadowEntry s 0 t.ctl.asid 4095).isSome ∧ 2 ^ 24 ≤ (t.arch.rx 3).toNat ∧
      shadowEntry s 0 t.ctl.asid 0 = none ∧ writePending s 0 t.ctl.asid 4095 none = false ∧
      writePending (engWorld t [(3, { normCmd 0 with acc := true, shdw := some 4095 })] []) 0 t.ctl.asid 4095 none = true) ∧
    (let t := { tk with wait := .cwait }; (engWorld t [] []).task lc = some t ∧ t.phase = .running ∧ t.wait = .cwait) ∧
    (let t := { tk with wait := .fence .pub .team }; (engWorld t [] []).task lc = some t ∧ t.phase = .running ∧ t.wait = .fence .pub .team) ∧
    (let t := { tkT with arch := { x := [(1, 1)] } };
      let s := engWorld t [] [];
      let w : WalkerSt := { tt := 0, s0 := 101, rc := 0, next := 0, loc := lc, launch := 1, id0 := s.seq };
      s.task s.at_ = some t ∧ t.timed = true ∧ (mget (s.die 0).tts (0 % 4096)).isSome ∧ mget (s.die 0).tts (1 % 4096) = none ∧
      stampDelay (s.gcc lc t) (101 : BitVec 16).toNat = some 1 ∧ (s.gcc lc t + 1) % 16384 = 101 ∧ (s.die 0).walker = none ∧
      stampDelay (s.gcc lc t) (102 : BitVec 16).toNat = some 2 ∧ (s.gcc lc t + 2) % 16384 ≠ 101 ∧
      (match walkerTransfers s 0 w { asid := 0, setN := 1, setId := 0, phase := 101 } with
        | .ok ts => ts.isEmpty
        | .error _ => false) = true) := by decide +kernel

/-- A die whose context holds an image of the given bundles and blocks, and a page of the spill area. -/
def imgDie (t : Task) (text : List Bundle) (blocks : Map (BitVec 512)) : Die :=
  { die1 t tm1 with ctxs := [(0, { ptes := [(2 ^ 36, 15)], images := [(0, { text, blocks })] })] }
def imgWorld (t : Task) (text : List Bundle) (blocks : Map (BitVec 512)) : State := worldOf (imgDie t text blocks)
/-- A bundle with ADD x3, x1, x2 in S0. -/
def addBundle : Bundle := BitVec.ofNat 384 (0b00000100000001100001000100000000 * 2 ^ 32)

/-- StepRunsDecoded: a bundle of one addition at the pc of a running task, within the current limit; and one more pending event. -/
theorem wit_StepRunsDecoded :
    (let s := imgWorld tk [addBundle] [];
      s.calendar = [] ∧ s.task s.at_ = some tk ∧ tk.phase = .running ∧ tk.wait = .none ∧ tk.stop = .none ∧ tk.arch.blk = none ∧ tk.arch.fresh = [] ∧
      inNull tk.arch = false ∧ (taskImage s lc tk).text[tk.fetch.pc]? = some addBundle ∧
      (match decodeBundle addBundle.toNat with
        | .ok b => decide (b.ops.filter (fun o => !o.2.isNop) = [(.s0, .add 0 3 1 (.x 2))]) && !b.hdr.le && liveOp tk (.add 0 3 1 (.x 2)) &&
            decide (bundleWeight tk b.ops + ((liveWeights s.now tk.weights).map (·.2)).sum ≤ tk.ctl.curlim) &&
            (bundleFaults s lc tk b (issueOrder b.ops) (issueOrder b.ops)).isNone &&
            (match slotIssue (.add 0 3 1 (.x 2)) { s with slot := .s0 } tk with | .ok _ => true | _ => false)
        | .error _ => false) = true) ∧
    (let s := world tk;
      (match slotIssue (.loopi 0 1 0 0) { s with slot := .s1 } tk with | .fault _ => true | _ => false) = true ∧
      (match slotIssue (.wfe 0 3) { s with slot := .s0 } tk with | .stall _ => true | _ => false) = true) ∧
    (let s := State.reset; s.calendar = { due := 0, rank := 0, ord := 0, what := .powerOn } :: []) := by decide +kernel

/-- CoreEvents: each wait a core event answers, an index without a bundle, an illegal bundle, one above the current limit in free code
and in a region; a read stream with a vector to fetch, at its end, four vectors ahead; a main-memory stream with a vector to
fetch, in a page and in none, and to drain, in a refresh window too. -/
theorem wit_CoreEvents :
    (∀ w ∈ [Wait.none, .start, .barHold, .stall, .bar 3, .wfe 15, .cwait, .accept, .remote 7],
      let t := { tk with wait := w }; (world t).task (world t).at_ = some t ∧ t.phase = .running) ∧
    (let t := { tk with arch := { walk := { mode := .replay } } }; (world t).task (world t).at_ = some t ∧ t.arch.walk.mode = .replay) ∧
    (taskImage (world tk) lc tk).text[tk.fetch.pc]? = none ∧
    ((taskImage (imgWorld tk [0x80000000] []) lc tk).text[tk.fetch.pc]? = some 0x80000000 ∧
      decodeBundle (0x80000000 : Bundle).toNat = .error .reserved) ∧
    (let t := { tk with ctl := { tk.ctl with curlim := 0 } };
      let s := imgWorld t [addBundle] [];
      s.task s.at_ = some t ∧ t.timed = false ∧ (taskImage s lc t).text[t.fetch.pc]? = some addBundle ∧
      (match decodeBundle addBundle.toNat with
        | .ok b => decide (t.ctl.curlim < bundleWeight t b.ops + ((liveWeights s.now t.weights).map (·.2)).sum)
        | .error _ => false) = true ∧
      (let u := { t with timed := true }; (imgWorld u [addBundle] []).task lc = some u ∧ u.timed = true)) ∧
    (let t := { tk with arch := { strms := strm0 :: List.replicate 7 {} } };
      (world t).task (world t).at_ = some t ∧ t.units.length = 8 ∧ (t.arch.strm 0).valid = true ∧ (t.arch.strm 0).write = false ∧
      (t.arch.strm 0).mainMem = false ∧ (nth ({} : StrmUnit) t.units 0).next < (t.arch.strm 0).length ∧ (nth ({} : StrmUnit) t.units 0).next < (t.arch.strm 0).k + 4 ∧
      (t.arch.strm 7).valid = false) ∧
    (let t := { tk with arch := { strms := strm0 :: List.replicate 7 {} }, units := ({ next := 2 } : StrmUnit) :: List.replicate 7 {} };
      (t.arch.strm 0).length ≤ (nth ({} : StrmUnit) t.units 0).next) ∧
    (let t := { tk with units := ({ next := 4, drain := [(0, 64, some 5)] } : StrmUnit) :: List.replicate 7 {} };
      (t.arch.strm 0).k + 4 ≤ (nth ({} : StrmUnit) t.units 0).next ∧ (nth ({} : StrmUnit) t.units 0).drain = [(0, 64, some 5)] ∧ t.units.length = 8 ∧
      ({ t with stop := .save, atPoint := true } : Task).stop ≠ .none) ∧
    (let t := { tk with arch := { strms := { strm0 with desc := strm0.desc ||| (2 <<< 64) } :: List.replicate 7 {} }
                        units := ({ mule := some 0, drain := [(0, 64, some 5)] } : StrmUnit) :: List.replicate 7 {} };
      let s := imgWorld t [] [];
      let u := nth ({} : StrmUnit) t.units 0;
      let s0 := (enterMule s lc 0).nextFree.2;
      let a (now : Nat) : Access := { die := 0, mem := .virt, op := .write, shape := { base := 64 }, data := 5, port := 0, asid := 0, launch := 1, src := some lc
                                      issued := now, cls := .store };
      s.task lc = some t ∧ (t.arch.strm 0).valid = true ∧ (t.arch.strm 0).mainMem = true ∧ (t.arch.strm 0).write = false ∧ u.next < (t.arch.strm 0).length ∧
      u.next < (t.arch.strm 0).k + 4 ∧ u.mule = some 0 ∧ pagesCause s 0 0 (newPages u ((t.arch.strm 0).addr u.next)) true false = none ∧
      held s 0 0 ((t.arch.strm 0).addr u.next) 512 = false ∧ pagesCause (world t) 0 0 (newPages u ((t.arch.strm 0).addr u.next)) true false ≠ none ∧
      s0.task lc = some t ∧ memWait s0 (a 100) = 0 ∧ 0 < memWait { s0 with now := 16200 } (a 16200)) := by decide +kernel

/-- A task with a residual window of 128 KiB, a spill area, an item on top of the stack, and its segments as given. -/
def stackTask (top : Nat) (frames : List FrameRec) (segs : Map Seg) : Task :=
  { tk with arch := { top, frames }, res := { segs, spillBase := 0, spillSize := 65536 } }

/-- A block table entry: bundles 0 to 1, valid; `r` makes it a recompute block. -/
def blkE (r : Nat) : BitVec 512 := BitVec.ofNat 512 (2 ^ 240 + r * 2 ^ 241 + 2 ^ 16)

/-- LooseItems: a push onto an empty stack, onto a full one, into a segment that is inbound, inside a block in its forward pass and
in a replay; the landing of its item; a pop of an item, of a frame, of nothing, with an item still open; drops. -/
theorem wit_LooseItems :
    (let t := stackTask 0 [] [];
      let s := imgWorld t [] [];
      s.task s.at_ = some t ∧ t.arch.pred (0 : Fin 16).val = true ∧ t.arch.blk = none ∧ t.arch.walk.hole = none ∧
      (let u := { t with arch := { t.arch with frames := [{ start := 0, block := 0, kind := 3 }] } };
        replayFull (s.setTask lc u) u 512 = false ∧ (pushCheck (s.setTask lc u) u 0 512).isNone = true) ∧
      t.arch.frames = [] ∧ t.arch.frames.length < (1 : Fin 16).val ∧ (0 : Fin 16).val ≤ t.arch.frames.length) ∧
    (let t := stackTask (2 ^ 40) [] [];
      (match pushCheck (imgWorld t [] []) t t.arch.top 512 with
        | some (.fault f) => f.code == 0x19
        | _ => false) = true) ∧
    (let t := stackTask 512 [] [(0, { st := .inbound })];
      (imgWorld t [] []).task lc = some t ∧ (match pushCheck (imgWorld t [] []) t t.arch.top 512 with
        | some (.stall _) => true
        | _ => false) = true) ∧
    (let t := { stackTask 512 [] [(0, {})] with wait := .none };
      t.phase = .running ∧ t.wait ≠ .remote 0 ∧ ∀ h ∈ segsOf 512 512, segState t h = some {}) ∧
    (let o : OpenBlk := { block := 0, start := 0, depth := 0, opened := 0 };
      let t := { stackTask 64 [{ start := 0, block := 0, kind := 0 }] [(0, {})] with arch := { blk := some o, top := 64, frames := [{ start := 0, block := 0, kind := 0 }] } };
      let u := { t with arch := { t.arch with frames := [{ start := 0, block := 0, kind := 1 }] } };
      (imgWorld t [] [(0, blkE 0)]).task lc = some t ∧ t.arch.blk ≠ none ∧ pushesItems (imgWorld t [] [(0, blkE 0)]) t = true ∧
      (imgWorld u [] [(0, blkE 1)]).task lc = some u ∧ pushesItems (imgWorld u [] [(0, blkE 1)]) u = false) ∧
    (let f : FrameRec := { start := 0, block := 0, kind := 3 };
      let t := stackTask 512 [f] [(0, {})];
      let s := imgWorld t [] [];
      s.task s.at_ = some t ∧ t.arch.frames.getLast? = some f ∧ f.kind = 3 ∧ 512 ≤ t.arch.top ∧ (readCheck s t (t.arch.top - 512) 512).isNone = true ∧
      (∃ g ∈ t.arch.frames.drop (t.arch.frames.length - 1), g.kind = 3)) ∧
    (let f : FrameRec := { start := 0, block := 0, kind := 0 };
      let t := stackTask 512 [f] [(0, {})];
      t.arch.frames.getLast? = some f ∧ f.kind ≠ 3 ∧ (1 : Fin 16).val ≤ t.arch.frames.length ∧
      ∀ g ∈ t.arch.frames.drop (t.arch.frames.length - 1), g.kind ≠ 3) := by decide +kernel

/-- ResidualMoves: a spill and a fill with too few segments, of 0, without a spill area, in a replay, and with one segment, in free
code and in a region, before a refresh, with its slot held, and with its page missing. -/
theorem wit_ResidualMoves :
    (let t := stackTask 8192 [] [(0, {}), (1, {})];
      let s := imgWorld t [] [];
      s.task s.at_ = some t ∧ t.arch.pred (0 : Fin 16).val = true ∧ t.arch.walk.mode ≠ .replay ∧ t.res.spillSize ≠ 0 ∧ tk.res.spillSize = 0 ∧
      ((oldestResident t t.arch.top).take 1).length = ((4 : Fin 4096).val + 3) / 4 ∧ t.timed = false ∧
      (∀ h ∈ (oldestResident t t.arch.top).take 1, spillCause s lc t true h = none ∧ reused lc t h = false) ∧
      (oldestResident t t.arch.top).length < ((12 : Fin 4096).val + 3) / 4) ∧
    ({ tk with arch := { walk := { mode := .replay } } } : Task).arch.walk.mode = .replay ∧
    (let t := { stackTask 8192 [] [(0, {}), (1, {})] with timed := true };
      let s := { imgDie t [] [] with pins := [(1, 0, 1)] };
      let w := worldOf s;
      w.task w.at_ = some t ∧ t.timed = true ∧ (∀ h ∈ (oldestResident t t.arch.top).take 1, spillCause w lc t true h = none) ∧
      meetsRefresh (w.gcc lc t) (640 + 6 * (64 * 1 - 1)) = false ∧ t.res.moveEnd < w.now ∧
      meetsRefresh (({ w with now := 16000 } : State).gcc lc t) (640 + 6 * (64 * 1 - 1)) = true ∧
      spillCause (imgWorld t [] []) lc t true 0 = some 4) ∧
    (let t := stackTask 4096 [] [(0, { st := .away })];
      let s := imgWorld t [] [];
      (newestAway t).take 1 = [0] ∧ (∀ h ∈ (newestAway t).take 1, ((segState t h).getD {}).cxl = false ∧ slotHeld t h = false) ∧
      (∀ h ∈ (newestAway t).take 1, spillCause s lc t false h = none)) ∧
    (let t := { stackTask 135168 [] [(0, { st := .away }), (32, {})] with timed := true };
      (imgWorld t [] []).task lc = some t ∧ (newestAway t).take 1 = [0] ∧ slotHeld t 0 = true ∧
      ((segState { t with res := { t.res with segs := [(0, { st := .away, cxl := true })] } } 0).getD {}).cxl = true) := by decide +kernel

/-- SegmentTransfers: one segment to spill in a region, its blocks, and the segments in transfer at their end. -/
theorem wit_SegmentTransfers :
    (let t := stackTask 4096 [] [(0, { st := .outbound })];
      let s := imgWorld t [] [];
      s.task lc = some t ∧ segState t 0 = some { st := .outbound } ∧ t.res.owed = [] ∧ t.res.later = [] ∧ (s.die 0).flips = [] ∧
      meetsRefresh (s.gcc lc t) (640 + 6 * (64 * [0].length - 1)) = false) ∧
    (let t := stackTask 4096 [] [(0, { st := .inbound })];
      let s := imgWorld t [] [];
      let a := segInAccess lc t.ctl.asid t.launch 0 0;
      s.task lc = some t ∧ segState t 0 = some { st := .inbound } ∧ memWait s a = 0 ∧ (s.die 0).mflips = [] ∧
      readPoison s { a with op := .read, shape := { base := spillAddr t 0, n := 16 }, en := allBlock } = none) := by decide +kernel

/-- ResidualController: a choice to spill with 28 of 32 slots taken, a page to spill it to and none; a segment to fill, in the spill
area and in the tier. -/
theorem wit_ResidualController :
    (let t := { stackTask 114688 [] ((List.range 28).map fun g => (g, {})) with shadow := { top := 114688 } };
      (imgWorld t [] []).task lc = some t ∧ t.res.later = [] ∧ t.timed = false ∧ t.res.spillSize ≠ 0 ∧ t.res.moving = false ∧ t.phase = .running ∧
      spillChoice lc t = some 0 ∧ 4 * freeWindow t < t.res.rw ∧ spillCause (imgWorld t [] []) lc t true 0 = none ∧
      spillCause (world t) lc t true 0 = some 1) ∧
    (let t := stackTask 4096 [] [(0, { st := .away })];
      (imgWorld t [] []).task lc = some t ∧ wantsSpill (imgWorld t [] []) lc t = false ∧ newestAway t = [0] ∧ 4 * residentAbove t < t.res.rw ∧
      slotHeld t 0 = false ∧ spillCause (imgWorld t [] []) lc t false 0 = none) ∧
    (let t := stackTask 4096 [] [(0, { st := .away, cxl := true })];
      let f : CxlFrame := { asid := 0, loc := lc, launch := 1, start := 0, header := 0, bytes := [0], stored := 64 };
      let s := worldOf { imgDie t [] [] with frames := [(0, f)] };
      s.task lc = some t ∧ ((segState t 0).getD {}).cxl = true ∧ tierFrame s lc t.launch 0 = some f) := by decide +kernel

theorem stored_le (b : List Byte) (h : b.length = 4096) : storedBytes b ≤ 5000 := by
  have h2 : ∀ x y : Nat, Nat.min x y ≤ y := fun x y => Nat.min_le_right x y
  have h3 := h2 (64 + (Config.compress b).length) (64 + b.length + (b.length + 63) / 64)
  rw [storedBytes]
  generalize Nat.min _ _ = m at *
  omega

/-- FramesMoveToCxl: a frame of one block whose segment is AWAY, with a quota of 0 and of 2^20; the same frame in the tier, with its
CRC and with another. -/
theorem wit_FramesMoveToCxl :
    (let f : FrameRec := { start := 0, block := 0, kind := 0 };
      let t := stackTask 64 [f] [(0, { st := .away })];
      let s := imgWorld t [] [];
      let b : List Byte := List.replicate 64 7;
      let z (w : Nat) : CxlFrame := { asid := 0, loc := lc, launch := 1, start := 0, header := cxlHeader 0 w b, bytes := b, stored := w };
      s.task lc = some t ∧ t.timed = false ∧ (s.ctx 0 0).isSome = true ∧ f ∈ t.arch.frames ∧ frameSegs t 0 = [0] ∧ frameEnd t 0 - 0 = 64 ∧
      (∀ g ∈ frameSegs t 0, segState t g = some { st := .away }) ∧ frameAddrs s 0 t.ctl.asid t.res.spillBase 0 64 = some [0] ∧
      mget (s.die 0).frames (coreOrd lc * 2 ^ 40 + 0) = none ∧ s.memOk = true ∧
      bits (z 128).header.toNat 223 192 = crc32c (z 128).bytes ∧
      (let s1 := worldOf { imgDie t [] [] with frames := [(coreOrd lc * 2 ^ 40 + 0, z 128)] };
        mget (s1.die 0).frames (coreOrd lc * 2 ^ 40 + 0) = some (z 128) ∧ s1.memOk = true) ∧
      bits ({ z 128 with header := 0 } : CxlFrame).header.toNat 223 192 ≠ crc32c (z 128).bytes) ∧
    (∀ b : List Byte, b.length = 4096 → 0 < 1 + storedBytes b ∧ 0 + storedBytes b ≤ 2 ^ 20) := by
  refine ⟨by decide +kernel, fun b h => ?_⟩
  have := stored_le b h
  omega

/-- StackPushes, BlockFrames, BlockReversal and ReverseWalk: pushes that nothing hinders and a hindered one; a valid entry at the pc
and an invalid one, of a stored and of a recompute block, with a queued entry too; an open block at its end and before it; no frame, a
stored frame with its trailer and item, a boundary frame with room for its replay and without, one of a replay; a walk at its clear, in
each of its cycles, frozen, and at its last position. -/
theorem wit_Blocks :
    (let t := stackTask 0 [] [];
      let s := imgWorld t [] [];
      s.task s.at_ = some t ∧ (∀ n ∈ [64, 512], replayFull s t n = false ∧ (pushCheck s t t.arch.top n).isNone = true) ∧
      (let u := stackTask (2 ^ 40) [] []; (imgWorld u [] []).task lc = some u ∧ (pushCheck (imgWorld u [] []) u u.arch.top 64).isSome = true)) ∧
    (let s := imgWorld tk [] [(0, blkE 0), (1, blkE 1)];
      s.task s.at_ = some tk ∧ tk.arch.pred (0 : Fin 16).val = true ∧ tk.arch.blk = none ∧ landingToCome s lc tk = false ∧
      (∀ n ∈ [0, 1], blkValid (blockEntry s lc tk n) = true ∧ blkStart (blockEntry s lc tk n) = tk.fetch.pc) ∧
      blkRecompute (blockEntry s lc tk 0) = false ∧ blkRecompute (blockEntry s lc tk 1) = true ∧ (∀ q ∈ tk.mat.queues, q.ents.drop q.popped = []) ∧
      blkValid (blockEntry s lc tk 4095) = false ∧ topFrame tk = none) ∧
    (let o : OpenBlk := { block := 0, start := 0, depth := 0, opened := 0 };
      let t := { tk with arch := { blk := some o, top := 64, frames := [{ start := 0, block := 0, kind := 0 }] }, fetch := { pc := 1 } };
      let s := imgWorld t [] [(0, blkE 0)];
      s.task s.at_ = some t ∧ t.arch.blk = some o ∧ o.block = (0 : Fin 4096).val ∧ blkEndIx (blockEntry s lc t o.block) = t.fetch.pc ∧
      landingToCome s lc t = false ∧ o.block ≠ (1 : Fin 4096).val ∧ t.arch.pack = []) ∧
    (∀ k ∈ [0, 1, 2], let t := stackTask 640 [{ start := 0, block := 0, kind := k }] [(0, {})];
      let s := imgWorld t [] [(0, blkE 1)];
      s.task s.at_ = some t ∧ topFrame t = some { start := 0, block := 0, kind := k } ∧ t.arch.blk = none ∧ t.arch.walk.hole = none ∧
      576 ≤ t.arch.top ∧ (readCheck s t (t.arch.top - 64) 64).isNone = true ∧ (readCheck s t (t.arch.top - 576) 512).isNone = true ∧
      (readCheck s t 0 (t.arch.top - 0)).isNone = true ∧ blkFrame (blockEntry s lc t 0) * 64 ≤ freeAbove t ∧
      (let u := { t with res := { t.res with rw := 4096, spillSize := 0 } };
        freeAbove u < blkFrame (BitVec.ofNat 512 (2 ^ 240 + 2 ^ 241 + 2 ^ 32 * 128 + 2 ^ 16)).toNat * 64 ∧ u.res.spillSize = 0)) ∧
    (∀ c ∈ [(true, false, 2), (false, false, 2), (false, true, 2), (false, true, 1)],
      let f : FrameRec := { start := 0, block := 0, kind := 0, pos := [{ bundle := 0 }, { bundle := 1 }] };
      let t := { tkT with arch := { frames := [f], top := 128, walk := { mode := .reverse, start := c.1, second := c.2.1, pos := c.2.2, n := 2 } } };
      (imgWorld t [] []).task lc = some t ∧ t.arch.walk.mode = .reverse ∧ t.phase = .running ∧ topFrame t = some f ∧ t.stop = .none ∧
      walkFrozen (imgWorld t [] []) t 0 = false ∧ walkFrozen (imgWorld t [] []) { t with ctl := { t.ctl with curlim := 0 } } 200 = true) := by
  decide +kernel

/-- Both dies of a module, formed, with link 0 of each up. -/
def module (a b : Die) : State :=
  { now := 100, formed := true, dies := [(0, a), (64, b)], launches := [(1, ln1)], at_ := lc }
def upLinks : Map Link := [(0, { state := 2, peer := 64 }), (1, { state := 2, peer := 64 }), (2, {}), (3, {}), (4, {}), (5, {})]
def dieA : Die := { die1 tk tm1 with links := upLinks }
def dieBb : Die := { Die.initial with started := true, links := upLinks, rooster := { ptp := 1 } }
/-- A transfer of 200 words over link 0, at 64 words a cycle. -/
def tr : Transfer := { src := 0, dst := 64, asid := 0, launch := 1, depart := 100, addr := 0, op := .write, n := 200, k := 0, rate := 64, gap := 1
                       lat := 16, id := 5, hops := [(0, 0, 0)], from_ := some 0, task := some lc }
def word (c : Option Nat) (a : Nat) : FabWord := { dst := 0, src := 64, asid := 0, launch := 1, addr := a, op := .write, word := 7, chunk := c }
/-- A die whose running timetable has one armed chunk of 4 words that expects 2. -/
def chunkDie (n : Nat) (armed : Bool) : Die :=
  { dieA with ttRun := some 0, tts := [(0, { asid := 0, setN := 1, setId := 0, chunks := [{ base := 64, len := 4, expect := 2, cc := 0 }]
                                             sends := [{ cycle := 9, dest := 64, words := 4, op := 0, sk := 0, daddr := 0, chunk := 0, src := 0 }] })]
              chunks := [(0, { armed, count := n })], walker := some { tt := 0, s0 := 92, rc := 0, next := 0, loc := lc, launch := 1 } }

/-- FabricTransfers: a cut transfer and a whole one, its first group and its last, a vector of a channel; an output that is free over an
UP and over another link, and one that is taken; a chunk in a pinned page, in a poisoned one, in one that is not pinned; a word for an armed window, for none, below, in and above an armed chunk, in one not
armed and in one complete; the walker absent, before its entry, at it, and behind the last. -/
theorem wit_FabricTransfers :
    (let s := module { dieA with cut := [5] } dieBb; (s.die tr.src).cut.contains tr.id = true) ∧
    (let s := module dieA dieBb;
      (s.die tr.src).cut.contains tr.id = false ∧ tileFault s tr = none ∧ tr.k + Nat.min tr.rate (tr.n - tr.k) < tr.n ∧ tr.pair = none ∧
      ((departing s tr 64)[63]?).isSome = true ∧ (let v := { tr with pair := some (0, 0), n := 128, k := 64, from_ := none };
        v.pair = some (0, 0) ∧ v.n ≤ v.k + Nat.min v.rate (v.n - v.k)) ∧
      spanClash s 64 1 100 103 = none ∧ (linkOf s 64 1).state = 2 ∧ (linkOf s 64 2).state ≠ 2 ∧
      (spanClash (addSpan s 64 { link := 1, first := 103, last := 104, task := none, launch := 1 }) 64 1 100 103).isSome ∧
      s.task lc = some tk ∧ tk.launch = tr.launch ∧ tk.phase ≠ .ended ∧ tr.task = some lc ∧ (s.die tr.src).mflips = [] ∧ tileBlock s tr = none) ∧
    (let v := { tr with from_ := none, tile := some (0, 0) };
      let d := { dieA with ctxs := [(0, { ptes := [(2 ^ 36, 79)] })], pins := [(1, 0, 1)] };
      let s := module { d with poison := [0] } dieBb;
      tileFault s v = none ∧ tileBlock s v = some 0 ∧ (s.die v.src).poison.contains 0 = true ∧ (s.die v.src).mflips = [] ∧ (s.die v.src).cut.contains v.id = false ∧
      tileBlock (module d dieBb) v = some 0 ∧ ((module d dieBb).die v.src).poison.contains 0 = false ∧
      tileFault (module { d with pins := [] } dieBb) v = some (4, 0)) ∧
    (let u := { tkT with windows := [{ base := 0, words := 2 }] };
      (takeTaskWindow 0 (die1 u tm1).tasks).isSome = true ∧ takeTaskWindow 8 (die1 u tm1).tasks = none ∧ takeLeft 8 (die1 u tm1).left = none ∧
      mget (module dieA dieBb).dies 0 = some dieA ∧ ((module dieA dieBb).die 64).cut.contains (word none 0).id = false) ∧
    (let d := chunkDie 1 true;
      mget d.chunks 0 = some { armed := true, count := 1 } ∧ d.ttRun = some 0 ∧ (mget d.tts 0).isSome = true ∧
      (word (some 0) 60).addr < 64 ∧ 64 + 4 * 4 ≤ (word (some 0) 80).addr ∧ 64 ≤ (word (some 0) 76).addr ∧ (word (some 0) 76).addr < 64 + 4 * 4 ∧
      1 + 1 = 2 ∧ mget (chunkDie 0 true).chunks 0 = some { armed := true, count := 0 } ∧ mget (chunkDie 2 false).chunks 0 = some { armed := false, count := 2 }) ∧
    ((module dieA dieBb).at_ = { die := 0, core := 0 } ∧ dieA.walker = none) ∧
    (let s := module (chunkDie 0 true) dieBb;
      ∃ k tt i e, (s.die 0).walker = some k ∧ mget (s.die 0).tts k.tt = some tt ∧ nextEntry tt k.rc k.next = some (i, e) ∧
        k.s0 + e.cycle ≤ s.now + 1 ∧ ({ s with now := 99 } : State).now + 1 < k.s0 + e.cycle ∧ nextEntry tt k.rc 1 = none ∧ k.last ≤ s.now ∧
        (match walkerTransfer (s.modDie 0 fun x => { x with walker := some { k with next := i + 1 } }) 0 k tt i e with
          | .ok _ => true
          | _ => false) = true) :=
  ⟨by decide +kernel, by decide +kernel, by decide +kernel, by decide +kernel, by decide +kernel, by decide +kernel,
    ⟨_, _, _, _, rfl, rfl, rfl, by decide +kernel, by decide +kernel, by decide +kernel, by decide +kernel, by decide +kernel⟩⟩

/-- CountedTraffic: a message at its die and one on its way over a usable route, and over none; a first and a sixteenth failure; an
answer that is awaited; a request that fails, one of each kind that does not, one in a refresh window, at a held page, and at a page that moved; a notice for a context and for none. -/
theorem wit_CountedTraffic :
    (let m : Counted := { at_ := 64, dst := 64, src := 0, body := .done lc 3 }; m.at_ = m.dst) ∧
    (let m : Counted := { at_ := 0, dst := 64, src := 0, body := .done lc 3 };
      m.at_ ≠ m.dst ∧ route (module dieA dieBb) countedOk 0 64 = some ((0, 0) :: []) ∧ route (world tk) countedOk 0 64 = none ∧ m.tries < 15) ∧
    15 ≤ ({ at_ := 0, dst := 64, src := 0, body := .done lc 3, tries := 15 } : Counted).tries ∧
    (let t := { tk with rems := [(64, 3)] }; (world t).task lc = some t ∧ ∃ x ∈ t.rems, x.2 = 3) ∧
    (let r : ApReq := { dst := 0, tasid := 0, src := 64, sasid := 0, loc := { die := 64, core := 0 }, va := 0, kind := none };
      let s := mapped tk 1;
      remBehind s r = false ∧ requestFails s r = false ∧ requestFails s { r with kind := some none } = false ∧
      requestFails s { r with kind := some (some .addi) } = false ∧ requestFails s { r with va := 2 ^ 40 } = true ∧
      (let a : Access := { die := 0, mem := .virt, op := .request r, shape := { base := 0, n := 128 }, data := r.data, en := BitVec.allOnes 512, port := 21
                           asid := 0, cls := .remote, issued := s.now, launch := 0 };
        let u := walked s a;
        memWait s a = 0 ∧ 0 < memWait { s with now := 16200 } a ∧ held u 0 0 0 512 = false ∧ held { u with host := { hold := some (0, 0, 0, 65536) } } 0 0 0 512 = true ∧
        (u.die 0).mflips = [] ∧ readPoison u a = none ∧ r.waited = false ∧
        (let q := { r with src := 0, sva := 0, waited := true, va := 65536 };
          q.waited = true ∧ translated u q ≠ { q with waited := false } ∧ translated u { q with va := 0 } = { q with va := 0, waited := false }))) ∧
    (let t := { tk with rems := [(64, 2), (64, 3)] };
      remBehind (world t) { dst := 64, tasid := 0, src := 0, sasid := 0, loc := lc, va := 0, kind := none, id := 3 } = true) ∧
    ((world tk).ctx 0 0).isSome = true ∧ (world tk).ctx 0 7 = none := by decide +kernel

/-- Links: both ends exist; a link that is down and one that is up; a launch that Ebile is to start again, without a running timetable. -/
theorem wit_Links :
    (let s := module dieA dieBb;
      (mget s.dies 0).isSome ∧ (mget s.dies (neighbour s 0 5)).isSome ∧ (mget s.dies (neighbour s 0 0)).isSome ∧ 5 < 6 ∧
      (linkOf s 0 5).state = 0 ∧ (linkOf s 0 0).state ≠ 0 ∧ s.launch 1 = some ln1 ∧ ln1.gang.relaunch = false) ∧
    (let x := { ln1 with gang := { relaunch := true } };
      x.gang.relaunch = true ∧ x.phase.live = true ∧
      (x.homes.findSome? fun m => if ((module dieA dieBb).die m).ttLaunch = 1 then ((module dieA dieBb).die m).ttRun else none) = none ∧
      (x.homes.findSome? fun m => if ((module { chunkDie 0 true with ttLaunch := 1 } dieBb).die m).ttLaunch = 1
        then ((module { chunkDie 0 true with ttLaunch := 1 } dieBb).die m).ttRun else none) = some 0) := by decide +kernel

/-- Rooster: a group of two live dies, and of one that loses its reference; a die started and one not; beacons of an unformed and a formed
group, from a link with the best hop count and from none; the time master and another die; Sync exchanges on die B. -/
theorem wit_Rooster :
    (let s := module dieA dieBb;
      mget s.dies s.at_.die = some dieA ∧ liveDies { s with ext := (2, 1, 1), formed := true } = 0 :: [64] ∧
      (liveDies s).filter (fun k => k != s.at_.die) = 64 :: [] ∧ dieA.started = true ∧ timeMaster s = some 64 ∧ timeMaster s ≠ some s.at_.die ∧
      ({ s with formed := false } : State).formed = false ∧ isDieB s.at_.die = false) ∧
    (let s := { module dieA dieBb with at_ := { die := 64, core := 0 } };
      mget s.dies s.at_.die = some dieBb ∧ timeMaster s = some s.at_.die ∧ isDieB s.at_.die = true ∧ s.formed = true ∧ dieBb.rooster.ref ≠ s.at_.die ∧
      bestLink { dieBb with rooster := { dieBb.rooster with heard := mset dieBb.rooster.heard 0 (0, 1) } } = some (0, 0) ∧
      bestLink { dieBb with rooster := { dieBb.rooster with heard := mset dieBb.rooster.heard 0 (12, 1) } } = none) ∧
    (let s := module Die.initial dieBb; mget s.dies s.at_.die = some Die.initial ∧ Die.initial.started = false) := by decide +kernel

/-- A gang of two dies with a proposal pending for cycle `c`, and the slot its members hold. -/
def gangL (c : Nat) : Launch :=
  { ln1 with desc := { gang := true, members := [0, 64] }, gang := { pending := true, c, t := 5 } }
def gangS (c : Nat) (k : GangSlot) : State :=
  { module { dieA with slots := [(1, k)] } dieBb with launches := [(1, gangL c)] }
def slot (c : Nat) (r : List (Nat × Nat × Bool)) (a : Bool) : GangSlot := { c, t := 5, members := [0, 64], ready := r, aborted := a }

/-- Gangs: a proposal that is pending and one that is not; a slot before and at each of its three instants; all members ready, one
missing, an abort; a fourth failure; a coordinator's decision; a deadline without a map; a member asked to stop. -/
theorem wit_Gangs :
    (let k := slot 500000 [] false;
      let s := gangS 500000 k;
      s.launch 1 = some (gangL 500000) ∧ (mget s.dies 0).isSome ∧ (gangL 500000).gang.pending = true ∧ (gangL 500000).gang.c = 500000 ∧
      (gangL 500000).gang.c ≠ 7 ∧ mget (s.die 0).slots 1 = some k ∧ stepTo (s.grp 0) ((k.c + 2 ^ 64 - 131072) % 2 ^ 64) > 0) ∧
    (let k := slot 100 [(0, 15, true), (64, 15, true)] false;
      let s := gangS 100 k;
      stepTo (s.grp 0) ((k.c + 2 ^ 64 - 131072) % 2 ^ 64) ≤ 0 ∧ stepTo (s.grp 0) ((k.c + 2 ^ 64 - 65536) % 2 ^ 64) ≤ 0 ∧
      stepTo (s.grp 0) ((k.c + 2 ^ 64 - 0) % 2 ^ 64) ≤ 0 ∧ k.stragglers = [] ∧ k.aborted = false ∧ (gangL 100).gang.cross = false ∧ k.kind ≠ 1 ∧
      (slot 100 [(0, 15, true)] false).stragglers ≠ [] ∧ (slot 100 [] true).aborted = true ∧ (∃ n, floodLat s 0 0 = some n)) ∧
    ((gangL 100).phase.live = true ∧ (gangL 100).gang.attempt < 3 ∧ ({ gangL 100 with phase := .complete } : Launch).phase.live = false ∧
      ({ gangL 100 with gang := { (gangL 100).gang with attempt := 3 } } : Launch).gang.attempt ≥ 3 ∧ ln1.gang.pending = false) ∧
    ((gangL 100).gang.committed = false ∧ ((gangS 100 (slot 100 [] false)).die (leadDie (gangL 100))).rooster.map = none ∧
      (∃ m, ((module { dieA with rooster := { map := some (0, 0, 0) } } dieBb).die (leadDie (gangL 100))).rooster.map = some m)) ∧
    ((world tk).task (world tk).at_ = some tk ∧ (world tk).team 0 tk.team = some tm1) :=
  ⟨by decide +kernel, ⟨by decide +kernel, by decide +kernel, by decide +kernel, by decide +kernel, by decide +kernel, by decide +kernel,
    by decide +kernel, by decide +kernel, by decide +kernel, ⟨_, rfl⟩⟩, by decide +kernel, ⟨by decide +kernel, by decide +kernel, ⟨_, rfl⟩⟩,
    by decide +kernel⟩

/-- A die whose only queue holds one launch of one team. -/
def bidWorld : State :=
  { worldOf { Die.initial with started := true, ctxs := [(0, { queues := [(0, [2])], images := [(0, {})] })] } with
    launches := [(2, { asid := 0, die := 0, queue := 0, desc := {} })] }

/-- TasksStartAndStop: a cluster before and at its start cycle, with distinct cores; a saved team with one record; a deadline that is due
and one that is not; a first bundle at its cycle of a started and of a resumed task; a stop for a save, for a kill, and none; an exit
with a store in flight and one without; a save that waits and one that starts; a save area with and without a bad block; passes on a
hot die, on an idle one, and with one bid. -/
theorem wit_TasksStartAndStop :
    (let tm := { tm1 with start := 100 };
      let s := worldOf (die1 tk tm);
      s.team 0 0 = some tm ∧ s.launch tm.launch = some ln1 ∧ untilGrp s 0 tm.start = 0 ∧ tm.cores.Nodup ∧ tm.cores[0]? = some 0 ∧
      0 < untilGrp s 0 { tm1 with start := 101 }.start ∧ tm.draining = false ∧
      (let v := { tm1 with draining := true, deadline := some 100 };
        v.draining = true ∧ v.deadline = some (worldOf (die1 tk v)).now) ∧ ({ tm1 with draining := true, deadline := some 101 } : Team).deadline ≠ some s.now) ∧
    (let v : SavedTeam := { team := tm1, recs := [{ ix := 0, task := tk }] };
      let x := { ln1 with saved := [v] };
      (x.saved.find? fun y => y.num = 0 && y.die = 0) = some v ∧ (v.recs.map fun q => nth 0 tm1.cores q.ix).Nodup ∧
      recordPoison (worldOf (die1 tk tm1)) 0 0 (v.recs.flatMap (·.blocks)) = none ∧
      recordPoison (worldOf { die1 tk tm1 with poison := [65] }) 0 0 [1] = some 4160) ∧
    (let s := { worldOf (die1 tk { tm1 with start := 15 }) with now := 200 };
      s.task lc = some tk ∧ untilGrp s 0 ((((s.team 0 tk.team).map (·.start)).getD 0 + 185) % 2 ^ 64) = 0 ∧ tk.phase = .running ∧
      ({ tk with phase := .stopped } : Task).phase = .stopped ∧ ({ tk with phase := .stopped } : Task).phase ≠ .running) ∧
    (stopEntries (world tk) lc ≤ 48 ∧ tk.stop = .none ∧ ({ tk with stop := .save } : Task).stop = .save ∧ ({ tk with stop := .kill } : Task).stop = .kill ∧
      tkT.timed = true) ∧
    (let t := { tk with wait := .exit };
      let u := { t with rems := [(64, 3)] };
      let s := (world t).postAccess 150 (some lc) { die := 0, mem := .scratch, op := .write, src := some lc, shape := { base := 0 } };
      t.wait = .exit ∧ s.task lc = some t ∧ s.now < inFlightEnd s lc t ∧ inFlightEnd (world t) lc t ≤ (world t).now ∧ inFlightOpen t = false ∧ t.rems = [] ∧
      t.fsts = [] ∧ inFlightEnd (world u) lc u ≤ (world u).now ∧ u.rems ≠ []) ∧
    (let t := { tk with phase := .stopped, stop := .save };
      let v := { t with rems := [(64, 3)] };
      stillOpen (world t) lc t = false ∧ stillOpen (world v) lc v = true ∧
      (t.ctl.gang && (((world t).die 0).horizon.isSome || ((world t).die 0).tasks.any fun k => k.2.launch = t.launch && k.2.phase = .running)) = false) ∧
    (let t := { tk with phase := .saving };
      let s (p : List Nat) : State := worldOf { die1 t tm1 with ctxs := [(0, { saveBase := 0, saveSize := 2 ^ 20 })], poison := p };
      let n := memberBytes (s []) 0 tm1 t.ctl.taskix;
      t.phase = .saving ∧ (world t).team 0 t.team = some tm1 ∧ (world t).launch t.launch = some ln1 ∧ recordBlocks (s []) 0 0 n ≠ [] ∧
      recordPoison (s []) 0 0 (recordBlocks (s []) 0 0 n) = none ∧ recordPoison (s [65]) 0 0 (recordBlocks (s [65]) 0 0 n) = some 4160) ∧
    (let d := die1 tk tm1;
      let s1 := settleHeads (nextPass (settleHeads (worldOf d) 0 64) 0) 0 64;
      mget (worldOf d).dies 0 = some d ∧ ({ d with hot := true } : Die).hot = true ∧ d.hot = false ∧ bids s1 0 = [] ∧ queueHeads s1 0 = []) ∧
    (let s := bidWorld;
      let s0 := nextPass (settleHeads s 0 64) 0;
      let s1 := settleHeads s0 0 64;
      ∃ (b : Bid) (c : Nat) (u : State), bids s1 0 = [b] ∧ placeBid s1 0 b = some (c, u) ∧
        (let s2 := settleHeads (u.modDie 0 fun y => { y with rr := b.key }) 0 64;
          bids s2 0 = [] ∧ bids (s2.launchNote 0 b.id { type := 1, cycle := waveCycle s0 0, used := [c] }) 0 = [] ∧
          queueHeads (s2.launchNote 0 b.id { type := 1, cycle := waveCycle s0 0, used := [c] }) 0 = [])) :=
  ⟨by decide +kernel, by decide +kernel, by decide +kernel, by decide +kernel, by decide +kernel, by decide +kernel, by decide +kernel, by decide +kernel,
    ⟨_, _, _, rfl, rfl, by decide +kernel⟩⟩

/-- LaunchesEnd: a launch whose fences and publishes are done, one with a fence to wait for and one with a publish; an earlier launch of its
queue; a fault and none; a dropped input without and with a producing segment; a rebuilt input; a horizon that is past, at the cycle, and ahead. -/
theorem wit_LaunchesEnd :
    (let x := { ln1 with phase := .completing };
      let s := { world tk with launches := [(1, x)] };
      x.phase = .completing ∧ ln1.phase ≠ .completing ∧ earlierOpen s 1 x = false ∧
      earlierOpen { s with launches := [(1, ln1), (2, x)] } 2 x = true ∧
      (actionHomes x).foldl (fun n h => Nat.max n (h.2.fences.length + h.2.publishes.length)) 0 ≤ x.acts ∧
      (let y := { x with desc := { publishes := [0] } };
        y.acts < (actionHomes y).foldl (fun n h => Nat.max n (h.2.fences.length + h.2.publishes.length)) 0 ∧
        (actionHomes y).length = 1 ∧ (completionStep s 0 1 y y.desc y.acts).isSome = true) ∧
      (let y := { x with desc := { fences := [(0, 0)] } };
        completionStep { s with dies := [(0, { die1 tk tm1 with walker := some { tt := 0, s0 := 92, rc := 0, next := 0, loc := lc, launch := 1 } })] }
          0 1 y y.desc y.acts = none) ∧
      counterOk { s with dies := [(0, { die1 tk tm1 with counters := [(3, { asid := 0 })] })] } 0 0 3 = true) ∧
    (ln1.phase.live = true ∧ ln1.fault = none ∧ ({ ln1 with fault := some (9, 0, 0, 5) } : Launch).fault = some (9, 0, 0, 5)) ∧
    (let x := { ln1 with desc := { inputs := [4] } };
      let c : Context := { handles := [(4, BitVec.ofNat 512 (2 ^ 258))] };
      let s := worldOf { die1 tk tm1 with ctxs := [(0, c)] };
      let u := worldOf { die1 tk tm1 with ctxs := [(0, { c with log := [{ seg := 1, desc := {}, queue := 0 }], producers := [(4, 1)] })] };
      s.ctx 0 0 = some c ∧ (x.desc.inputs.filter fun h => ((mget c.handles h).map hDropped).getD false) = [4] ∧
      (match replayPlan s 0 0 8 4 with
        | .error k => k
        | .ok _ => 0) = 0x105 ∧
      (match replayPlan u 0 0 8 4 with
        | .error _ => []
        | .ok l => l) = [1] ∧
      (let y : Context := { c with rebuild := [(4, [1])] };
        let w := { worldOf { die1 tk tm1 with ctxs := [(0, y)] } with launches := [(1, { ln1 with phase := .complete })] };
        w.ctx 0 0 = some y ∧ ∀ r ∈ y.rebuild, ∀ i ∈ r.2, (w.launch i).map (·.phase) = some .complete)) ∧
    (let d := chunkDie 1 true;
      d.horizon = none ∧ (∀ h ∈ ({ d with horizon := some 100 } : Die).horizon, h ≤ (module d dieBb).now) ∧
      ({ d with ttLaunch := 1 } : Die).ttLaunch = 1 ∧ (module d dieBb).now < 101 ∧ ln1.gang.relaunch = false ∧ ln1.phase = .running) := by
  decide +kernel

/-- A die whose Ox engine runs command 5, with what it has in its buffer. -/
def oxDie (c : Cmd) (o : Option OxRun) (q : List Nat) : Die := { die1 tk tm1 with cmds := [(5, c)], ox := o, oxq := q }
def updC (d : Nat) : Cmd :=
  { kind := .upd, loc := lc, launch := 1, team := 0, asid := 0, bundle := 0, timed := true, cc := 1, n := 2, issued := 90, acc := true, aux := 3
    desc := BitVec.ofNat 512 d }

/-- OptimizerEvents: a queue whose head may start and may not, an idle and a busy engine; NORM and UPD; a norm counter below, at and
above R; a norm that is finite, infinite and NaN; a tile that is gated and not; an entry with a pending write, the last tile and
an earlier one. -/
theorem wit_OptimizerEvents :
    (let s := worldOf (oxDie (updC 0) none [5]);
      mget s.dies 0 = some (oxDie (updC 0) none [5]) ∧ mget (oxDie (updC 0) none [5]).cmds 5 = some (updC 0) ∧ (updC 0).acc = true ∧ (updC 0).from_ ≤ s.now ∧
      ({ updC 0 with acc := false } : Cmd).acc = false ∧ s.now < ({ updC 0 with from_ := 101 } : Cmd).from_ ∧ (oxDie (updC 0) none []).oxq = [] ∧
      (oxDie (updC 0) (some { cmd := 5, start := 95 }) []).ox.isSome ∧ (updC 0).kind ≠ .norm ∧ ({ updC 0 with kind := .norm } : Cmd).kind = .norm) ∧
    (let s := worldOf { oxDie (updC 0) (some { cmd := 5, start := 95 }) [] with counters := [(3, { val := 7, asid := 0 })] };
      (updC 0).xv ≤ counterVal s 0 (updC 0).aux ∧ ({ updC 0 with xv := 7 } : Cmd).xv ≤ counterVal s 0 3 ∧ counterVal s 0 3 < ({ updC 0 with xv := 8 } : Cmd).xv ∧
      isNaN .f32 (fsqrt32 (readScratch s 0 0 (dfield (updC 0).desc 40 8) 4)).1 = false ∧ (fsqrt32 (readScratch s 0 0 (dfield (updC 0).desc 40 8) 4)).1 % 2 ^ 31 ≠ 0x7F800000 ∧
      isNaN .f32 (fsqrt32 0xBF800000).1 = true ∧ (fsqrt32 0x7F800000).1 % 2 ^ 31 = 0x7F800000) ∧
    (let s := worldOf { oxDie (updC 0) (some { cmd := 5, start := 95 }) [] with counters := [(3, { val := 1, asid := 0 })] };
      updGate (updC 0).desc = false ∧ updFar s (updC 0) 0 = false ∧ updOpt (updC 0) = 0 ∧
      (let g := updC (2 ^ 100 - 1);
        updGate g.desc = true ∧ updOpt (updC (2 ^ 100 - 1)) ≠ 0 ∧ counterVal s 0 (dfield g.desc 20 1) < dfield g.desc 12 4 + 0 + 1) ∧
      writePending s 0 0 (updEs (updC 0) 0) (some 5) = false ∧ writePending s 0 0 (updEn (updC 0) 0) (some 5) = false ∧ 0 + 1 < (updC 0).n ∧ ¬ 1 + 1 < (updC 0).n ∧
      s.ctx 0 0 = some {}) ∧
    (let c : Context := { shadows := [(0, BitVec.ofNat 256 (2 ^ 128 * 8 + 1024 * 2 ^ 64 + 1))] };
      let e := (mget c.shadows 0).getD 0;
      let d := oxDie (updC 0) none [];
      shSize e = 512 ∧ writePending (worldOf { d with ctxs := [(0, c)], cmds := d.cmds ++ [(6, { updC 0 with kind := .mcpy, shdw := some 0, left := 1 })] })
        0 0 0 (some 5) = true) := by decide +kernel

/-- ErrorEvents: a core inside its die; a line of a context and one of none; a core in service and one to retire; a page of no context
and of one; a pseudo-channel retired and not; a cluster whose spare is used and is not; an access that a refresh window holds. -/
theorem wit_ErrorEvents :
    (let d := die1 tk tm1;
      (world tk).memOk = true ∧ mget (world tk).dies lc.die = some d ∧ lc.core < 256 ∧ mget d.tags (64 / 64) = some 0 ∧ mget d.tags (4096 / 64) = none ∧
      d.erecs.length < 256 ∧ (world tk).task lc = some tk ∧ lc.core ∉ d.toRetire ∧ lc.core ∉ d.absent ∧ (world tk).launch tk.launch = some ln1 ∧
      ln1.asid = tk.ctl.asid ∧ ln1.phase.live = true ∧ pageOwners d 64 = [] ∧ (3 ∉ d.retiredPc) ∧ 3 ∈ ({ d with retiredPc := [3] } : Die).retiredPc) ∧
    (let d := { die1 tk tm1 with ctxs := [(0, { ptes := [(2 ^ 36, 15)] })] };
      pageOwners d 64 = [0]) ∧
    (let d := { die1 tk tm1 with tasks := [], toRetire := [0] };
      let u := { d with spares := [0] };
      (worldOf d).task lc = none ∧ lc.core ∈ d.toRetire ∧ lc.core / 32 ∉ d.spares ∧ lc.core / 32 ∈ u.spares ∧
      saSlice 64 = lc.core ∧ (mget d.tags 1).isSome ∧ saSlice (2 ^ 21) ≠ lc.core) ∧
    (let a : Access := { die := 0, mem := .virt, op := .read, shape := { base := 0 } };
      a.die = 0 ∧ a.mem ≠ .scratch ∧ 355 < (world tk).now + 256 ∧ ¬ 356 < (world tk).now + 256) := by decide +kernel

/-- A die with an endpoint on port 0. -/
def lhDie (e : Endpoint) : Die := { die1 tk tm1 with endpoints := [(epKey 0 1, e)] }
def frame (seq pn : Nat) (ok : Bool) : LhFrame := { die := 0, port := 0, ep := 1, seq, pn, stream := 0, block := 0, compressed := false, data := [], intact := ok }
def ep1 : Endpoint := { valid := true, cum := 3, got := [5], pns := [9], pnMax := 9 + 2 ^ 20 }
def sent (n r c : Nat) : LhSent := { frame := frame n 1 true, cmd := 5, resends := r, at_ := c }

/-- LongHaul: an endpoint; frames that fail, that are old, repeated and new, at the edge of the replay window; an acknowledgement with
nothing to say and one due; the 4,096th frame; one frame in flight that is acknowledged, asked for again, and at its fifteenth
and sixteenth resend; resends before and at 8 ms; progress before and at 100 ms; a FARS of the port, and none. -/
theorem wit_LongHaul :
    (let d := lhDie ep1;
      mget (worldOf d).dies 0 = some d ∧ mget d.endpoints (epKey 0 1) = some ep1 ∧ (frame 3 1 false).intact = false ∧ ({ ep1 with valid := false } : Endpoint).valid = false ∧
      (frame 3 9 true).pn ∈ ep1.pns ∧ (frame 3 8 true).pn + 2 ^ 20 ≤ ep1.pnMax ∧ (frame 3 10 true).pn ∉ ep1.pns ∧ ep1.pnMax < (frame 3 10 true).pn + 2 ^ 20 ∧
      (frame 2 10 true).seq < ep1.cum ∧ (frame 5 10 true).seq ∈ ep1.got ∧ ep1.cum ≤ (frame 3 10 true).seq ∧ (frame 3 10 true).seq ∉ ep1.got ∧ ep1.sinceAck = 0 ∧
      ({ ep1 with sinceAck := 4095 } : Endpoint).sinceAck = 4095 ∧ ep1.held = []) ∧
    (let e := { ep1 with unacked := [sent 7 14 0] };
      let c := { updC 0 with kind := .fars, left := 1, aux := 0, n := 1 };
      let d := { lhDie e with cmds := [(5, c)] };
      e.unacked = [sent 7 14 0] ∧ (sent 7 14 0).frame.seq < 8 ∧ mget d.cmds (sent 7 14 0).cmd = some c ∧ c.left = 1 ∧ (sent 7 14 0).frame.seq = 7 ∧ 2 ^ 3 = 8 ∧
      (sent 7 14 0).resends < 15 ∧ e.lost = false ∧ (e.unacked.find? fun y => y.frame.seq = 7) = some (sent 7 14 0) ∧
      (e.unacked.find? fun y => y.frame.seq = 8) = none ∧ ({ e with lost := true } : Endpoint).lost = true ∧
      (d.cmds.filter fun y => (y.2.kind = .fars || y.2.kind = .farr) && y.2.aux = 0 && y.2.acc && y.2.n > 0) = [(5, c)] ∧
      (d.cmds.filter fun y => (y.2.kind = .fars || y.2.kind = .farr) && y.2.aux = 1 && y.2.acc && y.2.n > 0) = [] ∧ d.erecs.length < 256) ∧
    (let s := { worldOf (lhDie ep1) with now := 360000000 };
      ep1.progress + 360000000 ≤ s.now ∧ s.now < ({ ep1 with progress := 1 } : Endpoint).progress + 360000000 ∧ s.now < (sent 7 0 331200001).at_ + 28800000 ∧
      (sent 7 0 331200000).at_ + 28800000 ≤ s.now ∧ 16 ≤ (sent 7 16 0).resends ∧ (sent 7 15 0).resends < 16 ∧ (sent 7 15 0).resends = 15) := by decide +kernel

/-- A world whose ring entry has these bytes: offset within ARGS and value. -/
def entryOf (l : List (Nat × Nat)) : BitVec 512 := BitVec.ofNat 512 (l.foldl (fun n x => n + x.2 * 2 ^ (8 * (24 + x.1))) 0)
def cmdWorld (d : Die) (l : List (Nat × Nat)) : State := { worldOf d with host := { busy := true, cmd := entryOf l } }
def ctxDie (c : Context) : Die := { die1 tk tm1 with ctxs := [(0, c)] }

/-- HostInterface: a ring that is busy, empty, and not ready; an entry to pop; a doorbell before Ebile is ready, one that passes HEAD by
the depth and one by more; registers locked, unlocked, at the bounds of RSIZE; a patch image; a die started and not. -/
theorem wit_HostInterface :
    (let h : HostIf := { head := 5, tail := 6, readyAt := 100 };
      let s := { world tk with host := h };
      ({ h with busy := true } : HostIf).busy = true ∧ ({ h with tail := 5 } : HostIf).head = ({ h with tail := 5 } : HostIf).tail ∧
      s.now < ({ h with readyAt := 101 } : HostIf).readyAt ∧ h.busy = false ∧ h.head ≠ h.tail ∧ h.readyAt ≤ s.now ∧
      (69 % 2 ^ 32 + 2 ^ 32 - h.head) % 2 ^ 32 ≤ 2 ^ h.rsize ∧ 2 ^ h.rsize < (70 % 2 ^ 32 + 2 ^ 32 - h.head) % 2 ^ 32 ∧
      h.locked = false ∧ ({ h with locked := true } : HostIf).locked = true ∧ (24 : Nat) ≠ 8 ∧ 16 < (17 : Word).toNat ∧ (5 : Word).toNat < 6 ∧
      6 ≤ (6 : Word).toNat ∧ (16 : Word).toNat ≤ 16 ∧
      (let w : HostIf := { h with writes := [(0, 64, [1, 2])] };
        w.readyAt ≤ s.now ∧ w.writes = [(0, 64, [1, 2])] ∧ ({ s with host := w } : State).memOk = true ∧ (mget s.dies 0).isSome)) ∧
    (State.reset.die 0).started = false ∧ ((world tk).die 0).started = true := by decide +kernel

/-- ContextCommands: an ASID that is not live, live and killed; a die started and not; a context to make, with a save area that fits and
one that does not; one with work in flight; a leaf to write, one present, pinned, in use; a grant and none; a shadow map entry
that is zero, in order, out of place, held; a handle that is absent, valid, and refused. -/
theorem wit_ContextCommands :
    (let s := cmdWorld { Die.initial with started := true } [(16, 1024)];
      s.ctx 0 0 = none ∧ s.memOk = true ∧ (mget s.dies 0).isSome ∧ (∀ x ∈ s.dies, mget x.2.ctxs 0 = none) ∧ (argParams s).isSome ∧
      (match takeRoot s 0 with
        | some (_, s1) => (takePool s1 0 (roundUp (s.arg 0 8) 4096) 4096).isSome
        | none => false) = true ∧
      (let u := cmdWorld { Die.initial with started := true } [(0, 2 ^ 40), (16, 1024)];
        (match takeRoot u 0 with
        | some (_, s1) => (takePool s1 0 (roundUp (u.arg 0 8) 4096) 4096).isNone
        | none => false) = true) ∧
      argParams (cmdWorld {} [(16, 1023)]) = none ∧ Die.initial.started = false) ∧
    (({ killed := true } : Context).killed = true ∧
      (let s := { cmdWorld (ctxDie {}) [] with launches := [] };
        s.ctx 0 0 = some {} ∧ launchesOn s 0 0 = [] ∧ ctxBusy s 0 0 = false ∧
        ctxBusy { s with dies := [(0, { ctxDie {} with cmds := [(5, updC 0)] })] } 0 0 = true)) ∧
    (let s := cmdWorld (ctxDie { root := [0, 0, 0, 0] }) [(0, 2 ^ 16), (8, 2 ^ 16), (17, 3)];
      let x := leafBits (s.arg 17 1) + s.arg 18 1 * 256 + s.arg 8 8;
      s.arg 16 1 ≤ 3 ∧ s.arg 8 8 < 2 ^ 52 ∧ s.arg 0 8 < 2 ^ 52 ∧ s.arg 0 8 % 2 ^ levelShift (sizeLevel (s.arg 16 1)) = 0 ∧ s.arg 17 1 < 32 ∧ s.arg 8 8 % 65536 = 0 ∧
      leafBad 0 ((s.ctx 0 0).getD {}) (sizeLevel (s.arg 16 1)) x = false ∧ (buildTables s 0 0 (2 ^ 16) (sizeLevel (s.arg 16 1) - 1) 1).isSome ∧
      mappedNow (s.die 0) (ptePage x) 65536 = false ∧ dpaHbm (ptePage x) = true ∧
      leafBad 0 {} 4 (leafBits 3 + 2 ^ 51) = true ∧ 3 < (cmdWorld {} [(16, 4)]).arg 16 1) ∧
    (let c : Context := { ptes := [(2 ^ 36, 15)] };
      let s := cmdWorld (ctxDie c) [(16, 3), (17, 3)];
      leafAt c 1 0 = some 15 ∧ sizeLevel 3 = 1 ∧ leafAt c 1 (2 ^ 51) = none ∧ pagePinned s 0 0 1 0 = false ∧ pageBusy s 0 0 1 0 = false ∧
      pagePinned (cmdWorld { ctxDie c with pins := [(1, 0, 1)] } []) 0 0 1 0 = true ∧ pteApr 15 = 0 ∧ leafBad 0 c 1 (15 ||| 64) = false ∧
      pageBusy { s with calendar := [{ due := 110, rank := 0, ord := 0, what := .accessPerform { die := 0, mem := .virt, op := .read, shape := { base := 0 } } }] } 0 0 1 0 = true ∧
      ptePin 15 = false ∧ ptePin 79 = true ∧ pteV 15 = true ∧ leafBad 0 c 1 15 = false ∧ poisonIn (s.die 0) (ptePage 15) (2 ^ levelShift 1) = none ∧
      (newPage s 0 1 false).isSome ∧ pteC 15 = false ∧ s.arg 18 1 = 0 ∧ pteApr 271 ≠ 0 ∧ aperture c (pteApr 271) = none) ∧
    (let out := BitVec.ofNat 128 (2 ^ 79 + 64 * 2 ^ 64);
      let back := BitVec.ofNat 128 (2 ^ 79);
      let c : Context := { ptes := [(2 ^ 36, 271)], apertures := [(1, out)] };
      let tc : Context := { ptes := [(2 ^ 36, 15)], apertures := [(2, back)] };
      let s := { module { dieA with ctxs := [(0, c)] } { dieBb with ctxs := [(0, tc)] } with host := { busy := true, cmd := entryOf [(16, 3), (18, 2)] } };
      s.ctx 0 0 = some c ∧ s.ctx 64 0 = some tc ∧ s.arg 16 1 = 3 ∧ s.arg 18 1 = 2 ∧ leafAt c 1 0 = some 271 ∧ pteApr 271 = 1 ∧ aperture c 1 = some out ∧
      apDie out = 64 ∧ apAsid out = 0 ∧ apOffset out = 0 ∧ leafAt tc 1 0 = some 15 ∧ aperture tc 2 = some back ∧ pteApr 15 = 0 ∧ apDie back = 0 ∧
      apAsid back = 0 ∧ apOffset back = 0 ∧ pagePinned s 64 0 1 0 = false ∧ pagePinned s 0 0 1 0 = false ∧ pageBusy s 64 0 1 0 = false ∧
      pageBusy s 0 0 1 0 = false ∧ poisonIn (s.die 64) (ptePage 15) 65536 = none ∧ (newPage s 0 1 (pteC 15)).isSome ∧ s.memOk = true) ∧
    (let n := 2 ^ 79 + 64 * 2 ^ 64;
      let a := BitVec.ofNat 128 n;
      let s := { module dieA { dieBb with ctxs := [(apAsid a, { grants := [(0, 0)] })] } with host := { cmd := entryOf [(0, 1), (8, n)] } };
      s.arg 0 1 ≠ 0 ∧ apertureZero (s.arg 8 16) = true ∧ apOffset a % 65536 = 0 ∧ apDie a ≠ 0 ∧ inGroup s (apDie a) = true ∧ s.arg 8 16 = n ∧
      (∃ t, s.ctx (apDie a) (apAsid a) = some t ∧ t.killed = false ∧ (0, 0) ∈ t.grants) ∧ apertureZero (2 ^ 63) = false) ∧
    (let y := 2 ^ 192 + 2 ^ 128 + 64 * 2 ^ 64;
      let s := cmdWorld (ctxDie {}) [(0, 1), (8, y)];
      BitVec.ofNat 256 (s.arg 8 32) = BitVec.ofNat 256 y ∧ shadowZero (BitVec.ofNat 256 y) = true ∧ shSize (BitVec.ofNat 256 y) = 64 ∧
      shadowClash {} 1 (BitVec.ofNat 256 y) = false ∧ shadowPlaced 0 {} (BitVec.ofNat 256 y) = true ∧ shadowHeld s 0 0 1 = false ∧ writePending s 0 0 1 none = false ∧
      shadowPlaced 0 {} (BitVec.ofNat 256 (y + 2 ^ 21)) = false ∧ shadowZero (BitVec.ofNat 256 1) = false ∧
      shadowHeld (cmdWorld { chunkDie 1 true with gangCores := [(1, 0)], tts := [(0, { asid := 0, setN := 1, setId := 0, chunks := [{ base := 0, len := 1, expect := 1, cc := 0, shdw := some 1 }] })] } [])
        0 0 1 = true ∧
      s.arg 0 2 < 4096 ∧ 4096 ≤ (cmdWorld {} [(0, 4096)]).arg 0 2) ∧
    ((512 : Nat) ≤ (cmdWorld {} [(8, 512)]).arg 8 2 ∧ (cmdWorld {} [(8, 511)]).arg 8 2 < 512) ∧
    (handleStatus 0 {} 0 ≠ 0 ∧ hValid (BitVec.ofNat 512 0) = false ∧ hValid (BitVec.ofNat 512 (2 ^ 256)) = true ∧ mget ({} : Context).handles 1 = none ∧
      handleStatus 0 { ptes := [(2 ^ 36, 15)] } (BitVec.ofNat 512 (2 ^ 256 + (1 + 2 ^ 32 + 2 ^ 64 + 2 ^ 96) * 2 ^ 64)) = 0) :=
  ⟨by decide +kernel, by decide +kernel, by decide +kernel, by decide +kernel, by decide +kernel,
    ⟨by decide +kernel, by decide +kernel, by decide +kernel, by decide +kernel, by decide +kernel, by decide +kernel, ⟨_, rfl, by decide +kernel⟩, by decide +kernel⟩,
    by decide +kernel, by decide +kernel, by decide +kernel⟩

/-- A bundle-less image object: its version, one block-table section, its length. -/
def imgMem (n : Nat) : Mem := Mem.wrBytes [] 4096 (bytesOf (1 + 2 ^ 32 + n * 2 ^ 64) 64 ++ bytesOf (2 + 80 * 2 ^ 64) 16)
/-- A launch descriptor of one team of one task, with the image number. -/
def descMem (image : Nat) : Mem :=
  Mem.wrBytes [] 4096 (bytesOf (image + (1 + 2 ^ 16 + 2 ^ 32 + 2 ^ 48) * 2 ^ 64 + 4096 * 2 ^ 128 + 131072 * 2 ^ 160 + 6144 * 2 ^ 192 +
    (1 + 2 ^ 16 + 2 ^ 32) * 2 ^ 256 + 2 ^ 1616) 256)

/-- LoadAndLaunchCommands: an image that parses and one that does not; its handles in order; no data to place; a timetable number, a set
size and a file out of range; a set still open; a timetable held and not; a counter asked for, free and taken, and any; a descriptor
in order, one out of order, a full queue; a launch that is there, of another context, ended, of a gang; a held task. -/
theorem wit_LoadAndLaunchCommands :
    (let s := cmdWorld { ctxDie {} with dram := imgMem 80 } [(0, 4096), (8, 80)];
      mget s.dies s.cDie = some { ctxDie {} with dram := imgMem 80 } ∧ s.ctx 0 0 = some {} ∧ s.ctx 0 5 = none ∧
      parseImage (imgMem 81) 4096 80 = none ∧ (parseImage (imgMem 80) (s.arg 0 8) (s.arg 8 8)).map (fun x => (x.handles, x.data)) = some ([], []) ∧
      dataMapped s 0 0 (0, [0]) = false ∧ handleStatus 0 {} 0 ≠ 0) ∧
    (let s := cmdWorld (ctxDie {}) [(16, 64)];
      64 ≤ s.arg 16 1 ∧ s.arg 17 2 = 0 ∧ 512 < (cmdWorld {} [(17, 513)]).arg 17 2 ∧ (cmdWorld {} [(16, 63), (17, 512)]).arg 16 1 < 64 ∧
      (cmdWorld {} [(16, 63), (17, 512)]).arg 17 2 ≤ 512 ∧ parseTimetable [] 0 0 0 1 0 = none ∧ mget (ctxDie {}).tts 0 = none ∧
      (mget (chunkDie 1 true).tts 0).map (·.asid) = some 0) ∧
    (let d := { ctxDie {} with counters := [(3, { asid := 0 })] };
      mget d.counters 3 ≠ none ∧ mget d.counters 4 = none ∧ (cmdWorld d [(0, 255)]).arg 0 1 = 255 ∧ counterOk (cmdWorld d []) 0 0 3 = true ∧
      counterOk (cmdWorld d []) 0 0 4 = false) ∧
    (let c : Context := { images := [(7, {})] };
      let s := cmdWorld { ctxDie c with dram := descMem 7 } [(0, 4096), (8, 15)];
      s.arg 8 1 ≤ 15 ∧ 15 < (cmdWorld {} [(8, 16)]).arg 8 1 ∧
      (makeLaunch s 0 0 c (s.arg 8 1) (s.arg 9 1) (BitVec.ofNat 2048 (Mem.num (descMem 7) (s.arg 0 8) 256))).isSome ∧
      makeLaunch s 0 0 c (s.arg 8 1) (s.arg 9 1) (BitVec.ofNat 2048 (Mem.num (descMem 8) (s.arg 0 8) 256)) = none ∧
      ((mget c.queues 15).getD []).length < 1024 ∧ 1024 ≤ (List.replicate 1024 0).length ∧ c.marks = [] ∧ ({ c with marks := [9] } : Context).marks.length = 1) ∧
    (let s := cmdWorld (ctxDie {}) [(0, 1)];
      s.launch (s.arg 0 4) = some ln1 ∧ s.launch 2 = none ∧ ln1.asid = 0 ∧ ln1.asid ≠ 5 ∧ ln1.desc.gang = false ∧ ln1.phase.live = true ∧
      zeroCount (gangL 100).desc = false ∧ (gangL 100).desc.gang = true ∧ (gangL 100).phase.live = true ∧ zeroCount { ext := (0, 1, 1) } = true ∧
      proposalBusy (gangL 100) 0 = true ∧ proposalBusy { gangL 100 with gang := {} } 0 = false ∧ ({ ln1 with phase := .complete } : Launch).phase.live = false ∧
      (∀ v ∈ s.task lc, v.launch ≠ 1 ∨ v.phase ≠ .held) ∧ (let t := { tk with phase := .held }; (world t).task lc = some t ∧ t.launch = 1 ∧ t.phase = .held)) :=
  ⟨by decide +kernel, by decide +kernel, by decide +kernel, by decide +kernel, by decide +kernel⟩

/-- AdminCommands: a die started and not; 0, 1, 32 and 33 records, of either kind; queues empty and not; a key block in order and one
out of order; ports, endpoints and links at their bounds; configuration blocks; the last leaf of the identity key and none. -/
theorem wit_AdminCommands :
    (let d := { die1 tk tm1 with lrecs := [1], erecs := [2] };
      let s := cmdWorld d [(9, 32)];
      mget s.dies s.cDie = some d ∧ d.started = true ∧ Die.initial.started = false ∧ s.memOk = true ∧ s.arg 9 1 ≠ 0 ∧ s.arg 9 1 ≤ 32 ∧
      32 < (cmdWorld {} [(9, 33)]).arg 9 1 ∧ (cmdWorld {} []).arg 9 1 = 0 ∧ s.arg 8 1 = 0 ∧ (cmdWorld {} [(8, 1)]).arg 8 1 = 1 ∧
      1 < (cmdWorld {} [(8, 2)]).arg 8 1 ∧ d.lrecs ≠ [] ∧ d.erecs ≠ [] ∧ Die.initial.lrecs = [] ∧ Die.initial.erecs = [] ∧ d.erecs.length ≤ 256) ∧
    (let k := Mem.num (Mem.wrBytes [] 4096 (bytesOf 0x03010701 64)) 4096 64;
      bits k 7 0 ≤ 1 ∧ bits k 15 8 ≤ 7 ∧ bits k 23 16 ≤ 1 ∧ bits k 31 24 ≤ 3 ∧ bits k 255 160 = 0 ∧ 1 < bits (2 : Nat) 7 0 ∧
      (mget (module dieA dieBb).dies (dieBOf 0)).isSome) ∧
    (let s := cmdWorld {} [(0, 1), (1, 7)];
      s.arg 0 1 ≤ 1 ∧ s.arg 1 1 ≤ 7 ∧ 7 < (cmdWorld {} [(1, 8)]).arg 1 1 ∧ (cmdWorld {} [(0, 5)]).arg 0 1 ≤ 5 ∧ 5 < (cmdWorld {} [(0, 6)]).arg 0 1) ∧
    ((128 : Nat) < (cmdWorld {} [(8, 129)]).arg 8 8 ∧ (cmdWorld {} [(8, 128)]).arg 8 8 % 32 = 0 ∧ cxlRecord (2 ^ 8 + 2 ^ 28 * 2 ^ 64 + 2 ^ 28 * 2 ^ 128) = some (some (2 ^ 28, 2 ^ 28)) ∧
      cxlRecord 4 = none) ∧
    (1023 < 1024 ∧ 1024 ≤ ({ fuseQ := 1024 } : HostIf).fuseQ ∧ linkUsers (module dieA dieBb) 0 0 = []) := by decide +kernel

/-- PowerAndResets: die A and die B of the machine after reset, with and without power. -/
theorem wit_PowerAndResets :
    mget State.reset.dies 0 = some Die.initial ∧ (mget State.reset.dies 64).isSome ∧ isDieB 64 = true ∧ isDieB 0 = false ∧ State.reset.powered = true ∧
    ({ State.reset with powered := false } : State).powered = false := by decide +kernel

/-- EncodeDecodeRoundTrip: an instruction that is well formed and has a word, with and without a predicate or mask. -/
theorem wit_EncodeDecodeRoundTrip :
    (Instr.add 7 31 30 (.x 1)).wf = true ∧ (encodeSlot .s1 (.add 7 31 30 (.x 1))).isSome ∧ (Instr.add 7 31 30 (.x 1)).guard.isSome ∧
    (Instr.xsv 5 6).wf = true ∧ (encodeSlot .xb (.xsv 5 6)).isSome := by decide +kernel

/-- StepKeepsMemory: reset has its memories in order, and its step answers a next state. -/
theorem wit_StepKeepsMemory : State.reset.memOk = true ∧ ∃ s, step State.reset = .next s := ⟨by decide +kernel, _, rfl⟩

/-- R300: a write of v5 with 3 cycles left, whose second group is enabled in part: KIND 3, MODE 0, number 5, r 3, groups 0 and 1; then
its extension with MODE 8 and one bit for each byte. -/
theorem test_late_entry :
    (let b := lateBytes { id := 0, r := 3, land := { dest := .v 5, val := 9, en := 0xF0FF } };
      b.length = 1152 ∧ b.take 10 = [3, 0, 0, 0, 5, 0, 3, 0, 3, 0] ∧ (b.drop 64).take 2 = [9, 0] ∧ (b.drop 576).take 8 = [3, 0, 8, 0, 5, 0, 3, 0] ∧
      (b.drop 640).take 3 = [0xFF, 0xF0, 0]) := by decide +kernel

end Sys2Proof.Tests
end

/-! SUPPORT. Branches (R38, R40, R108): how the fetch stream advances in each of its states, what a taken branch does at its
issue, and the obligation on both. -/

namespace Sys2Proof.Machine

/-! ### The fetch stream, one equation for each of its states (R38, R40) -/

/-- After the second delay bundle comes the target; a branch taken meanwhile has moved one bundle on. -/
theorem advanceFetch_target_due (pc x : Nat) (d2 br back : Option Nat) :
    advanceFetch { pc := pc, d1 := some x, d2 := d2, br := br } back = { pc := x, d1 := d2, d2 := br } := rfl

/-- Between the two delay bundles the stream goes to the next index, whatever a loop close asks for. -/
theorem advanceFetch_first_delay (pc x : Nat) (br back : Option Nat) :
    advanceFetch { pc := pc, d1 := none, d2 := some x, br := br } back = { pc := pc + 1, d1 := some x, d2 := br } := rfl

/-- With no earlier branch under way the stream goes to the next index, or back to the start of a loop that closes. -/
theorem advanceFetch_no_delay (pc : Nat) (br back : Option Nat) :
    advanceFetch { pc := pc, br := br } back = { pc := back.getD (pc + 1), d2 := br } := rfl

/-- The three bundles behind a taken branch whose delay bundles do not branch. -/
theorem advanceFetch_taken (n t1 : Nat) :
    advanceFetch { pc := n, br := some t1 } none = { pc := n + 1, d2 := some t1 } ∧
    advanceFetch { pc := n + 1, d2 := some t1 } none = { pc := n + 2, d1 := some t1 } ∧
    advanceFetch { pc := n + 2, d1 := some t1 } none = { pc := t1 } :=
  ⟨advanceFetch_no_delay .., advanceFetch_first_delay .., advanceFetch_target_due ..⟩

/-- When the first delay bundle branches too, its target is the bundle behind the first target. -/
theorem advanceFetch_taken_in_first_delay (n t1 t2 : Nat) :
    advanceFetch { pc := n + 1, d2 := some t1, br := some t2 } none = { pc := n + 2, d1 := some t1, d2 := some t2 } ∧
    advanceFetch { pc := n + 2, d1 := some t1, d2 := some t2 } none = { pc := t1, d1 := some t2 } ∧
    advanceFetch { pc := t1, d1 := some t2 } none = { pc := t2 } :=
  ⟨advanceFetch_first_delay .., advanceFetch_target_due .., advanceFetch_target_due ..⟩

/-- When the second delay bundle branches too, the first target and the bundle behind it are its delay bundles. -/
theorem advanceFetch_taken_in_second_delay (n t1 t2 : Nat) :
    advanceFetch { pc := n + 2, d1 := some t1, br := some t2 } none = { pc := t1, d2 := some t2 } ∧
    advanceFetch { pc := t1, d2 := some t2 } none = { pc := t1 + 1, d1 := some t2 } ∧
    advanceFetch { pc := t1 + 1, d1 := some t2 } none = { pc := t2 } :=
  ⟨advanceFetch_target_due .., advanceFetch_first_delay .., advanceFetch_target_due ..⟩

/-! ### The target of a displacement (R108) -/

theorem branchTarget_eq_of_emod {pc n : Nat} {off : Int} (h : (n : Int) = ((pc : Int) + off) % (2 ^ 64 : Nat)) :
    branchTarget pc off = n := by rw [branchTarget, ← h, Int.toNat_natCast]

/-- A displacement of 22 bits below index 0 wraps to the top of the 64-bit range, where no image has a bundle. -/
theorem le_branchTarget_of_neg {pc : Nat} {off : BitVec 22} (hneg : (pc : Int) + off.toInt < 0) :
    2 ^ 15 ≤ branchTarget pc off.toInt := by
  have hoff : -(2 ^ 21 : Int) ≤ off.toInt := BitVec.le_toInt off
  have hwrap : ((pc : Int) + off.toInt) % (2 ^ 64 : Nat) = (pc : Int) + off.toInt + 2 ^ 64 := by omega
  rw [branchTarget, hwrap]
  omega

/-! ### A guarded operation at its issue -/

/-- With a true predicate a guarded operation does what it does unguarded. -/
theorem runSlot_whenPred_true {p : Fin 16} {f : Issue} {s s' : State} {t : Task} (h : s.task s.at_ = some t)
    (hp : t.arch.pred p.val = true) (hf : f s t = .ok s') : runSlot (whenPred p f) s = .next s' :=
  runSlot_ok h ((whenPred_true hp).trans hf)

/-- With a false predicate it has no effect (R34). -/
theorem runSlot_whenPred_false {p : Fin 16} (f : Issue) {s : State} {t : Task} (h : s.task s.at_ = some t)
    (hp : t.arch.pred p.val = false) : runSlot (whenPred p f) s = .next s :=
  runSlot_ok h (whenPred_false hp)

/-! ### The five branches (R108) -/

section Branches
variable {s : State} {t : Task} {p : Fin 16} (h : s.task s.at_ = some t)
include h

theorem exec_br_taken (hp : t.arch.pred p.val = true) (off : BitVec 22) :
    exec (.br p off) s = .next (takeBranch s (branchTarget t.fetch.pc off.toInt)) :=
  runSlot_whenPred_true h hp rfl

/-- BRP has a second condition: when it is false, the branch is not taken. -/
theorem exec_brp_of_pred (hp : t.arch.pred p.val = true) (ps : Fin 16) (off : BitVec 18) :
    exec (.brp p ps off) s =
      .next (if t.arch.pred ps.val then takeBranch s (branchTarget t.fetch.pc off.toInt) else s) :=
  runSlot_whenPred_true h hp (apply_ite Res.ok _ _ _).symm

theorem exec_jmp_taken (hp : t.arch.pred p.val = true) (a : Fin 32) :
    exec (.jmp p a) s = .next (takeBranch s (t.arch.rx a.val).toNat) :=
  runSlot_whenPred_true h hp rfl

theorem exec_call_taken (hp : t.arch.pred p.val = true) (off : BitVec 22) :
    exec (.call p off) s = .next
      ((takeBranch s (branchTarget t.fetch.pc off.toInt)).emitX t 1 31 (BitVec.ofNat 64 (t.fetch.pc + 3))) :=
  runSlot_whenPred_true h hp rfl

theorem exec_ret_taken (hp : t.arch.pred p.val = true) :
    exec (.ret p) s = .next (takeBranch s (t.arch.rx 31).toNat) :=
  runSlot_whenPred_true h hp rfl

/-- A branch with a false predicate changes nothing (R40). -/
theorem exec_branch_not_taken (hp : t.arch.pred p.val = false) (ps : Fin 16) (a : Fin 32) (off : BitVec 22)
    (off18 : BitVec 18) :
    ∀ i ∈ [Instr.br p off, .brp p ps off18, .jmp p a, .call p off, .ret p], exec i s = .next s := by
  simp only [List.forall_mem_cons]
  exact ⟨runSlot_whenPred_false _ h hp, runSlot_whenPred_false _ h hp, runSlot_whenPred_false _ h hp,
    runSlot_whenPred_false _ h hp, runSlot_whenPred_false _ h hp, List.forall_mem_nil _⟩

end Branches

/-- The taken branches, clause by clause. -/
theorem branches : Claims.Branches := by
  intro s t p ps a off off18 n n18 h hp hn hn18
  have target : branchTarget t.fetch.pc off.toInt = n := branchTarget_eq_of_emod hn
  have target18 : branchTarget t.fetch.pc off18.toInt = n18 := branchTarget_eq_of_emod hn18
  subst target target18
  exact ⟨exec_br_taken h hp off, exec_brp_of_pred h hp ps off18, exec_jmp_taken h hp a, exec_call_taken h hp off,
    exec_ret_taken h hp, fun _ hneg => le_branchTarget_of_neg hneg⟩

/-- The delay bundles of one branch and of two, and the branch that is not taken. -/
theorem delayBundles : Claims.DelayBundles := by
  refine ⟨fun n t1 t2 => ?_, fun s t p ps a off off18 h hp => exec_branch_not_taken h hp ps a off off18⟩
  obtain ⟨hf1, hf2, hf3⟩ := advanceFetch_taken n t1
  obtain ⟨hg2, hg3, hg4⟩ := advanceFetch_taken_in_first_delay n t1 t2
  obtain ⟨hh3, hh4, hh5⟩ := advanceFetch_taken_in_second_delay n t1 t2
  simp only [hf1, hf2, hf3, hg2, hg3, hg4, hh3, hh4, hh5, and_self]

/-- Settles O6: a branch sets the target that its index and displacement or its register name, and the fetch stream
takes a target up after the two delay bundles, those of a branch inside another's delay bundles included. -/
theorem branchTargets : Obligations.BranchTargets := ⟨branches, delayBundles⟩

end Sys2Proof.Machine

/-! SUPPORT. Compares and predicate logic (R107): the condition codes as relations of the signed and unsigned values, what
each form lands at its issue, the predicates it may write, and the obligation on them. -/

namespace Sys2Proof.Machine

/-! ### The condition codes, one equation each (R107) -/

section ConditionCodes
variable (x y : Word)

theorem ccHolds_eq : ccHolds .eq x y = decide (x.toNat = y.toNat) := decide_eq_decide.mpr BitVec.toNat_inj.symm
theorem ccHolds_ne : ccHolds .ne x y = decide (x.toNat ≠ y.toNat) :=
  (congrArg not (ccHolds_eq x y)).trans decide_not.symm
theorem ccHolds_lt : ccHolds .lt x y = decide (x.toInt < y.toInt) := rfl
theorem ccHolds_ge : ccHolds .ge x y = decide (x.toInt ≥ y.toInt) := BitVec.sle_eq_not_slt.symm
theorem ccHolds_le : ccHolds .le x y = decide (x.toInt ≤ y.toInt) := BitVec.sle_eq_not_slt.symm
theorem ccHolds_gt : ccHolds .gt x y = decide (x.toInt > y.toInt) := rfl
theorem ccHolds_ltu : ccHolds .ltu x y = decide (x.toNat < y.toNat) := rfl
theorem ccHolds_geu : ccHolds .geu x y = decide (x.toNat ≥ y.toNat) := (BitVec.ule_eq_not_ult y x).symm
theorem ccHolds_leu : ccHolds .leu x y = decide (x.toNat ≤ y.toNat) := (BitVec.ule_eq_not_ult x y).symm
theorem ccHolds_gtu : ccHolds .gtu x y = decide (x.toNat > y.toNat) := rfl

end ConditionCodes

/-! ### What a compare and a predicate operation land at their issue (R107) -/

section Lands
variable {s : State} {t : Task} {p : Fin 16} (h : s.task s.at_ = some t) (hp : t.arch.pred p.val = true) (q : Fin 16)
include h hp

theorem exec_cmp_lands (a : Fin 32) (b : SSrc) (cc : CC) :
    exec (.cmp p q a b cc) s = .next (s.emitP t 1 q.val (ccHolds cc (t.arch.rx a.val) (t.arch.src b))) :=
  runSlot_whenPred_true h hp rfl

/-- CMPI compares with its sign-extended immediate. -/
theorem exec_cmpi_lands (b : SSrc) (cc : CC) (imm : BitVec 8) :
    exec (.cmpi p q b cc imm) s = .next (s.emitP t 1 q.val (ccHolds cc (t.arch.src b) (imm.signExtend 64))) :=
  runSlot_whenPred_true h hp rfl

/-- The predicate forms of two sources land what they compute of any two predicates, p0 to p3 included. -/
theorem runSlot_predOp_lands (f : Bool → Bool → Bool) (pa pb : Fin 16) :
    runSlot (predOp f p q pa pb) s = .next (s.emitP t 1 q.val (f (t.arch.pred pa.val) (t.arch.pred pb.val))) :=
  runSlot_whenPred_true h hp rfl

theorem exec_pnot_lands (pa : Fin 16) :
    exec (.pnot p q pa) s = .next (s.emitP t 1 q.val (!t.arch.pred pa.val)) :=
  runSlot_whenPred_true h hp rfl

end Lands

/-! ### The predicates that they may write (R107) -/

/-- The encodings hold no destination below p4 for the predicate operations, and every other. -/
theorem predicate_operation_wf (p q pa pb : Fin 16) :
    ∀ i ∈ [Instr.pand p q pa pb, .por p q pa pb, .pxor p q pa pb, .pnot p q pa], i.wf = decide (4 ≤ q.val) := by
  simp only [List.forall_mem_cons]
  exact ⟨rfl, rfl, rfl, rfl, List.forall_mem_nil _⟩

/-- A well-formed compare writes no predicate below p4. -/
theorem four_le_of_compare_wf (p q : Fin 16) (a : Fin 32) (b : SSrc) (imm : BitVec 8) (cc : CC) :
    ∀ i ∈ [Instr.cmp p q a b cc, .cmpi p q b cc imm], i.wf = true → 4 ≤ q.val := by
  have hdst (hw : (predDst q && b.wf) = true) : 4 ≤ q.val := of_decide_eq_true (Bool.and_elim_left hw)
  simp only [List.forall_mem_cons]
  exact ⟨hdst, hdst, List.forall_mem_nil _⟩

/-- Settles O3: each form lands its predicate one cycle after the issue, the condition codes are the relations of the
signed and unsigned values, and a well-formed form writes p4 to p15 alone. -/
theorem comparesAndPredicates : Obligations.ComparesAndPredicates := by
  intro s t p q pa pb a b imm cc h hp holds
  have hcc (x y : Word) : ccHolds cc x y = holds x y := by
    cases cc with
    | eq => exact ccHolds_eq x y
    | ne => exact ccHolds_ne x y
    | lt => exact ccHolds_lt x y
    | ge => exact ccHolds_ge x y
    | le => exact ccHolds_le x y
    | gt => exact ccHolds_gt x y
    | ltu => exact ccHolds_ltu x y
    | geu => exact ccHolds_geu x y
    | leu => exact ccHolds_leu x y
    | gtu => exact ccHolds_gtu x y
  exact ⟨hcc _ _ ▸ exec_cmp_lands h hp q a b cc, hcc _ _ ▸ exec_cmpi_lands h hp q b cc imm,
    runSlot_predOp_lands h hp q _ pa pb, runSlot_predOp_lands h hp q _ pa pb, runSlot_predOp_lands h hp q _ pa pb,
    exec_pnot_lands h hp q pa, predicate_operation_wf p q pa pb, four_le_of_compare_wf p q a b imm cc⟩

end Sys2Proof.Machine

/-! SUPPORT. Hardware loops (R94, R97 to R99): p1 to p3 from the innermost level, the opening of a level by LOOP and LOOPI,
the four outcomes of a close, and the obligation on them. -/

namespace Sys2Proof.Machine

/-! ### p1 to p3 follow the innermost open level (R94) -/

@[simp] theorem derive_levels (a : Arch) : a.derive.levels = a.levels := rfl
@[simp] theorem derive_ldepth (a : Arch) : a.derive.ldepth = a.ldepth := rfl

theorem nth_of_getElem? {α : Type} {d x : α} {l : List α} {n : Nat} (h : l[n]? = some x) : nth d l n = x := by
  simp [nth, h]

/-- With a level open, p1 is its first-pass flag, and p2 and p3 say whether one pass or more are left. -/
theorem derive_p_of_open {a : Arch} {lv : Nat} {lev : Level} (hd : a.ldepth = lv + 1) (hl : a.levels[lv]? = some lev) :
    a.derive.p = setPred (setPred (setPred a.p 1 lev.first) 2 (decide (lev.cnt = 1))) 3 (decide (lev.cnt > 1)) := by
  simp [Arch.derive, hd, nth_of_getElem? hl]

theorem derive_pred_of_open {a : Arch} {lv : Nat} {lev : Level} (hd : a.ldepth = lv + 1) (hl : a.levels[lv]? = some lev) :
    a.derive.pred 1 = lev.first ∧ a.derive.pred 2 = decide (lev.cnt = 1) ∧ a.derive.pred 3 = decide (lev.cnt > 1) := by
  simp only [Arch.pred, derive_p_of_open hd hl, setPred_getLsbD]
  exact ⟨rfl, rfl, rfl⟩

/-- The derivation writes p1 to p3 alone. -/
theorem derive_pred_other (a : Arch) {k : Nat} (hk : k = 0 ∨ 4 ≤ k) : a.derive.pred k = a.pred k := by
  obtain ⟨h1, h2, h3⟩ : k ≠ 1 ∧ k ≠ 2 ∧ k ≠ 3 := by omega
  simp [Arch.pred, Arch.derive, setPred_getLsbD, h1, h2, h3]

/-! ### The opening of a level (R97) -/

/-- The registers with a level replaced. -/
def Arch.putLevel (a : Arch) (lv : Nat) (lev : Level) : Arch := { a with levels := a.levels.set lv lev }

theorem putLevel_getElem?_same {a : Arch} {lv : Nat} (hlv : lv < a.levels.length) (lev : Level) :
    (a.putLevel lv lev).levels[lv]? = some lev := List.getElem?_set_self hlv

theorem putLevel_getElem?_other (a : Arch) {lv k : Nat} (hk : k ≠ lv) (lev : Level) :
    (a.putLevel lv lev).levels[k]? = a.levels[k]? := List.getElem?_set_ne hk.symm

/-- The level that a loop at the bundle `pc` opens. -/
def freshLevel (a : Arch) (pc cnt : Nat) (idx str : Word) : Level :=
  { cnt, idx, str, start := pc + 1, lend := 0, first := true, null := cnt = 0, idx0 := idx, cnt0 := cnt, ec0 := a.ec, pass := 1 }

section Opening
variable (a : Arch) (pc lv cnt : Nat) (idx str : Word)

/-- An opening replaces the level and LDEPTH, and p1 to p3 follow. -/
theorem openLevel_eq_derive :
    openLevel a pc lv cnt idx str =
      { a.putLevel lv (freshLevel a pc cnt idx str) with ldepth := lv + 1 : Arch }.derive := rfl

theorem openLevel_pred (hlv : lv < a.levels.length) :
    (openLevel a pc lv cnt idx str).pred 1 = true ∧ (openLevel a pc lv cnt idx str).pred 2 = decide (cnt = 1) ∧
      (openLevel a pc lv cnt idx str).pred 3 = decide (cnt > 1) := by
  rw [openLevel_eq_derive]
  exact derive_pred_of_open (lev := freshLevel a pc cnt idx str) rfl (putLevel_getElem?_same hlv _)

theorem openLevel_pred_other {k : Nat} (hk : k = 0 ∨ 4 ≤ k) : (openLevel a pc lv cnt idx str).pred k = a.pred k :=
  derive_pred_other _ hk

end Opening

/-- The task after it opened a level. -/
def Task.openLoop (t : Task) (lv cnt : Nat) (idx str : Word) : Task :=
  { t with arch := openLevel t.arch t.fetch.pc lv cnt idx str }

section LoopIssue
variable {s : State} {t : Task} {p : Fin 16} (h : s.task s.at_ = some t)

include h in
/-- A level not above LDEPTH is opened. -/
theorem loopOp_of_le {lv : Nat} (hlv : lv ≤ t.arch.ldepth) (cnt : Nat) (idx str : Word) :
    loopOp s t lv cnt idx str = .ok (s.setTask s.at_ (t.openLoop lv cnt idx str)) := by
  rw [loopOp, if_neg (Nat.not_lt.mpr hlv), modTask_eq_setTask _ h, Task.openLoop]

/-- A level above LDEPTH raises the loop-nesting fault. -/
theorem loopOp_of_gt {lv : Nat} (hlv : t.arch.ldepth < lv) (cnt : Nat) (idx str : Word) :
    loopOp s t lv cnt idx str = .fault { code := 0x02, slot := s.slot.code } := if_pos hlv

variable (hp : t.arch.pred p.val = true) {lv : Fin 8}
include h hp

theorem exec_loop_opens (hlv : lv.val ≤ t.arch.ldepth) (xc xs : Fin 32) (stride : BitVec 9) :
    exec (.loop p lv xc xs stride) s = .next (s.setTask s.at_
      (t.openLoop lv.val ((t.arch.rx xc.val).toNat % 2 ^ 32) (t.arch.rx xs.val) (stride.signExtend 64))) :=
  runSlot_whenPred_true h hp (loopOp_of_le h hlv ..)

theorem exec_loopi_opens (hlv : lv.val ≤ t.arch.ldepth) (count : BitVec 13) (st6 : BitVec 6) :
    exec (.loopi p lv count st6) s = .next (s.setTask s.at_ (t.openLoop lv.val count.toNat 0 (st6.signExtend 64))) :=
  runSlot_whenPred_true h hp (loopOp_of_le h hlv ..)

theorem exec_loop_faults (hlv : t.arch.ldepth < lv.val) (xc xs : Fin 32) (stride : BitVec 9) :
    exec (.loop p lv xc xs stride) s = .next (takeFault s s.at_ { code := 0x02, slot := s.slot.code }) :=
  runSlot_fault h ((whenPred_true hp).trans (loopOp_of_gt hlv ..))

theorem exec_loopi_faults (hlv : t.arch.ldepth < lv.val) (count : BitVec 13) (st6 : BitVec 6) :
    exec (.loopi p lv count st6) s = .next (takeFault s s.at_ { code := 0x02, slot := s.slot.code }) :=
  runSlot_fault h ((whenPred_true hp).trans (loopOp_of_gt hlv ..))

end LoopIssue

/-- LOOP and LOOPI, the opening and the fault. -/
theorem loopsOpen : Claims.LoopsOpen := by
  intro s t p lv xc xs stride count st6 h hp opened
  have hopened (c : Nat) (idx str : Word) : opened c idx str (s.setTask s.at_ (t.openLoop lv.val c idx str)) :=
    ⟨_, freshLevel t.arch t.fetch.pc c idx str, setTask_task_same _ h, fun hlv => putLevel_getElem?_same hlv _,
      rfl, rfl, rfl, rfl, rfl, rfl, decide_eq_true_iff, rfl, fun k hk => putLevel_getElem?_other _ hk _,
      openLevel_pred t.arch t.fetch.pc lv.val c idx str, fun k hk => openLevel_pred_other _ _ _ _ _ _ hk, rfl, rfl⟩
  exact ⟨fun hlv => ⟨⟨_, exec_loop_opens h hp hlv xc xs stride, hopened ..⟩,
      ⟨_, exec_loopi_opens h hp hlv count st6, hopened ..⟩⟩,
    fun hlv => ⟨exec_loop_faults h hp hlv xc xs stride, exec_loopi_faults h hp hlv count st6⟩⟩

/-! ### The close of the innermost level, one equation for each of its outcomes (R98, R99) -/

@[simp] theorem advance_levels (a : Arch) (b : Bool) : (a.advance b).levels = a.levels := rfl
@[simp] theorem advance_ldepth (a : Arch) (b : Bool) : (a.advance b).ldepth = a.ldepth := rfl

/-- A level as its close at the bundle `pc` marks it: its end is known, and its first pass is over. -/
def Level.passed (lev : Level) (pc : Nat) : Level :=
  { lev with lend := if lev.lend = 0 then pc else lev.lend, first := false }

/-- A level that its close sends round again, with `cnt` iterations left. -/
def Level.again (lev : Level) (pc cnt : Nat) : Level :=
  { lev.passed pc with cnt, idx := lev.idx + lev.str, pass := lev.pass + 1 }

/-- The registers with a level marked for the last time and popped. -/
def Arch.popLevel (a : Arch) (lv : Nat) (lev : Level) : Arch := { a.putLevel lv lev with ldepth := lv }

section Closing
variable {a : Arch} {lv : Nat} {lev : Level} (hl : a.levels[lv]? = some lev) (pc : Nat)
include hl

theorem closeLevel_null (hn : lev.null = true) (rt : Bool) :
    (closeLevel a pc lv rt).1 = (a.popLevel lv (lev.passed pc)).derive ∧ (closeLevel a pc lv rt).2.back = none := by
  simp [closeLevel, nth_of_getElem? hl, hn, Arch.popLevel, Arch.putLevel, Level.passed]

theorem closeLevel_iterates (hn : lev.null = false) (hc : lev.cnt > 1) (rt : Bool) :
    (closeLevel a pc lv rt).1 = (if rt then (a.putLevel lv (lev.again pc (lev.cnt - 1))).advance true
        else a.putLevel lv (lev.again pc (lev.cnt - 1))).derive ∧
      (closeLevel a pc lv rt).2.back = some lev.start := by
  simp [closeLevel, nth_of_getElem? hl, hn, hc, Arch.putLevel, Level.again, Level.passed]

/-- An epilogue pass: no iteration is left, and EC counts down. -/
theorem closeLevel_epilogue (hn : lev.null = false) (hc : lev.cnt ≤ 1) (he : a.ec > 0) :
    (closeLevel a pc lv true).1 = { (a.putLevel lv (lev.again pc 0)).advance false with ec := a.ec - 1 }.derive ∧
      (closeLevel a pc lv true).2.back = some lev.start := by
  simp [closeLevel, nth_of_getElem? hl, hn, Nat.not_lt.mpr hc, he, Arch.putLevel, Level.again, Level.passed]

theorem closeLevel_final (hn : lev.null = false) (hc : lev.cnt ≤ 1) {rt : Bool} (he : rt = false ∨ a.ec = 0) :
    (closeLevel a pc lv rt).1 = (a.popLevel lv { lev.passed pc with cnt := 0 }).derive ∧
      (closeLevel a pc lv rt).2.back = none := by
  have hrt : (rt && decide (a.ec > 0)) = false := by rcases he with he | he <;> simp [he]
  simp [closeLevel, nth_of_getElem? hl, hn, Nat.not_lt.mpr hc, hrt, Arch.popLevel, Arch.putLevel, Level.passed]

/-- A close without RT neither rotates nor counts EC. -/
theorem closeLevel_not_rotating : (closeLevel a pc lv false).1.rrb = a.rrb ∧ (closeLevel a pc lv false).1.ec = a.ec := by
  cases hn : lev.null with
  | true => rw [(closeLevel_null hl pc hn false).1]; exact ⟨rfl, rfl⟩
  | false =>
    rcases Nat.lt_or_ge 1 lev.cnt with hc | hc
    · rw [(closeLevel_iterates hl pc hn hc false).1]; exact ⟨rfl, rfl⟩
    · rw [(closeLevel_final hl pc hn hc (.inl rfl)).1]; exact ⟨rfl, rfl⟩

end Closing

/-- The close, outcome by outcome. -/
theorem loopCloses : Claims.LoopCloses := by
  intro a pc lv rt lev hlen hd hl r
  refine ⟨fun hn hc => ?_, fun hn hc hrt he => ?_, fun hn hc he => ?_, fun hn => ?_, fun hrt => ?_⟩
  case refine_1 =>
    obtain ⟨harch, hback⟩ := closeLevel_iterates hl pc hn hc rt
    refine ⟨hback, ?_, lev.again pc (lev.cnt - 1), ?_, rfl, rfl, rfl⟩
    · rw [harch, derive_ldepth, apply_ite Arch.ldepth, advance_ldepth, ite_self, Arch.putLevel]
    · rw [harch, derive_levels, apply_ite Arch.levels, advance_levels, ite_self, putLevel_getElem?_same hlen]
  case refine_2 =>
    subst hrt
    obtain ⟨harch, hback⟩ := closeLevel_epilogue hl pc hn hc he
    refine ⟨hback, ?_, ?_, lev.again pc 0, ?_, rfl, rfl⟩
    · rw [harch]; rfl
    · rw [harch]; rfl
    · rw [harch]; exact putLevel_getElem?_same hlen _
  case refine_3 =>
    obtain ⟨harch, hback⟩ := closeLevel_final hl pc hn hc he
    exact ⟨hback, congrArg Arch.ldepth harch⟩
  case refine_4 =>
    obtain ⟨harch, hback⟩ := closeLevel_null hl pc hn rt
    exact ⟨hback, congrArg Arch.ldepth harch⟩
  case refine_5 =>
    subst hrt
    exact closeLevel_not_rotating hl pc

/-- Settles O7: LOOP and LOOPI open a level not above LDEPTH and fault above it, and the close of the innermost level
sends it round again or pops it. -/
theorem hardwareLoops : Obligations.HardwareLoops := ⟨loopsOpen, loopCloses⟩

end Sys2Proof.Machine
